-- ==== Sys2Proof/Word.lean ====
section
/-! DEFINITION. The word types of the Strelet SX8 (00 R7, 06 R189). Bit fields, sign extension and byte order stand in
Machine/Arith.lean, where a later repair can reach them. -/

namespace Sys2Proof

/-- A byte of memory (00 R7). -/
abbrev Byte := BitVec 8

/-- A 64-bit register, system register or D register (06 R189, 00 R10). -/
abbrev Word := BitVec 64

/-- A sparse store: key and value pairs. It is kept with strictly rising keys and without an entry that equals what an
unlisted key reads as (`SMap.wf` of Machine/Mem.lean), so that equal stores are equal data. -/
abbrev SMap (α : Type) := List (Nat × α)

end Sys2Proof
end

