-- ==== Sys2Proof/Syntax.lean ====
section
/-! DEFINITION. The commands of the Strelet SX8: one constructor of `Instr` per row of spec/opcode_table.json, with the
operands the row's rule names, and the operand types. A core instruction carries its core and the fields of its word
(07 Table 7-2); an event carries the unit it happens at and the values the outside world gives it. -/

namespace Sys2Proof

/-- The address form of a load or store (07 R234): the immediate form, or the indexed form with its index register and
scale. -/
inductive MemOp where
  | imm (ab : BitVec 4) (simm : BitVec 14)
  | idx (ab : BitVec 4) (x : BitVec 5) (sc : BitVec 2)
deriving DecidableEq, Repr

/-- The bank of LDM and STM (07 R239). -/
inductive Bank where
  | globals | window | address
deriving DecidableEq, Repr

/-- The mode of an accumulator product (07 R247): signed × signed, unsigned × unsigned, signed × unsigned. -/
inductive MulMode where
  | ss | uu | su
deriving DecidableEq, Repr

/-- The rounding of MVAC (07 R248). -/
inductive RoundMode where
  | floor | rnd | even
deriving DecidableEq, Repr

/-- A requester with copies of block-table entries (09 R290): a core, a DMA engine, or a hub's CXL port. -/
inductive Walker where
  | core (c : Fin 230)
  | dma (e : Fin 14)
  | cxl (h : Fin 2)
deriving DecidableEq, Repr

/-- What a transaction carries (01 R25, R26): master ID, domain, privilege and traffic class. -/
structure BusAttr where
  master : BitVec 16
  dom : BitVec 4
  priv : BitVec 2
  tc : BitVec 3
deriving DecidableEq, Repr

/-- The state of one copy of a DRAM word as the controller meets it (10 R311): good, corrected, or uncorrectable with the
first device in error. -/
inductive Ecc where
  | good | corrected
  | bad (dev : BitVec 4) (sub dimm : Bool) (rank : BitVec 2)
deriving DecidableEq, Repr

/-- A line written to DRAM, and the states of the copies that a partial write reads (10 R317, R320). -/
structure LineWrite where
  bits : BitVec 512
  home : Ecc
  partner : Ecc
deriving DecidableEq, Repr

/-- What a frame carries that is not an audio packet (12 R362, R363). -/
inductive FrameKind where
  | arp (target : BitVec 32)
  | arpReply (target sender : BitVec 32) (mac : BitVec 48)
  | icmpEcho (dst : BitVec 32) (broadcast : Bool) (len : Nat)
  | igmpQuery (group : BitVec 32) (version : Fin 3)
  | pause (quanta : BitVec 16)
  | other
deriving DecidableEq, Repr

/-- A received Ethernet frame (12 R362-R364): its length, whether its frame check sequence is right, its FEC outcome, whether
the port had no buffer for it, and what it carries. -/
structure FrameIn where
  len : Nat
  fcsOk : Bool
  fecCorrected : Nat
  fecUncorr : Nat
  noBuffer : Bool
  vlan : Option (BitVec 12)
  dmac : BitVec 48
  kind : FrameKind
deriving DecidableEq, Repr

/-- An audio packet as a media port receives it (12 R368-R374). `fmtBits` is the sample width of the payload, `arrNs` the
port's timestamp of its arrival. -/
structure AudioPkt where
  fcsOk : Bool
  aaf : Bool
  daddr : BitVec 32
  dport : BitVec 16
  saddr : BitVec 32
  streamId : BitVec 64
  pt : BitVec 8
  seq : BitVec 16
  ts : BitVec 32
  tsValid : Bool
  rate96 : Bool
  nch : Nat
  nsamp : Nat
  fmtBits : Nat
  headerOk : Bool
  samples : List (BitVec 32)
  vlan : Option (BitVec 12)
  bytes : Nat
  arrNs : Nat
deriving DecidableEq, Repr

/-- The PTP messages that a port takes (12 R365): of a Sync, whether a Follow_Up carries its time, and the logarithm of its interval. -/
inductive PtpKind where
  | announce
  | sync (twoStep : Bool) (logInterval : Int)
  | followUp
  | delayResp
  | pdelayReq
  | pdelayResp
deriving DecidableEq, Repr

/-- A PTP message and what the servo makes of it (12 R365, R366; 02 R47, R49). -/
structure PtpMsg where
  kind : PtpKind
  intact : Bool
  /-- the message is of IEEE 802.1AS, and its domain number -/
  gptp : Bool
  domain : BitVec 8
  gmid : BitVec 64
  best : Bool
  ofsNs : Int
  delayNs : Nat
  wantPpb : Int
deriving DecidableEq, Repr

/-- The host physical address of an M2S request, and whether the request is another than those that 13 Table 13-2 names. -/
structure HostAddr where
  hpa : BitVec 52
  other : Bool
deriving DecidableEq, Repr

/-- An HDM decoder as it is committed (13 R394). -/
structure HdmDec where
  base : Nat
  size : Nat
  iw : Nat
  ig : Nat
  skip : Nat
  lock : Bool
deriving DecidableEq, Repr

/-- The event logs of a logical device (13 R404). -/
inductive EvLog where
  | info | warning | failure | fatal
deriving DecidableEq, Repr

/-- An NGP request as a media port receives it: the addresses and ports of its datagram (14 R425), and its fields (Table 14-6). `mac` is
the authentication code it carries; `wellFormed` says that LEN is at most 1,024 and the datagram's own, and that its reserved bytes are 0. -/
structure NgpMsg where
  version : BitVec 16
  dom : Byte
  seq : BitVec 32
  index : BitVec 16
  sub : Byte
  flags : Byte
  off : BitVec 32
  data : List Byte
  mac : BitVec 128
  wellFormed : Bool
  srcIp : BitVec 32
  srcPort : BitVec 16
  dstIp : BitVec 32
  dstPort : BitVec 16
deriving DecidableEq, Repr

/-- A path by which a dictionary access arrives (14 R420): a logical device's mailbox, NGP for a domain, the service
port's SDO or its long transfers, or the runtime itself. -/
inductive Path where
  | mailbox (ld : Fin 16)
  | ngp (dom : BitVec 4)
  | sdo
  | long
  | device
deriving DecidableEq, Repr

/-- The faults of a render cluster (15 R443); an uncorrectable SRAM word comes with its address (01 R17). -/
inductive FaultKind where
  | residue | watchdog | uncorrectable (a : BitVec 44) | coreFailed | auditMismatch | config
deriving DecidableEq, Repr

/-- The units that a handshake deadline watchdog watches (15 R438), a plane of a region switch among them (01 Table 1-6). -/
inductive WatchUnit where
  | cluster (d : Fin 6) (k : Fin 25)
  | core (c : Fin 230)
  | pair (d : Fin 6) (p : Fin 6)
  | link (l : Fin 13)
  | hub (h : Fin 2)
  | die (d : Fin 6)
  | engine (e : Fin 14)
  | plane (d : Fin 6) (g : Fin 4) (p : Fin 2)
deriving DecidableEq, Repr

/-- The atomic operations (07 Table 7-6); a CAS has the value it compares with. -/
inductive AmoOp where
  | swap | add | and | or | min | max
  | cas (want : Word)
deriving DecidableEq, Repr

/-- A transaction issued again after a hub loss (15 R451). `performed` says whether the surviving hub had accepted the forwarded copy of a
write; an atomic's forwarded copy carries its old value. -/
inductive Transaction where
  | read (b : BusAttr) (a : BitVec 44)
  | write (b : BusAttr) (a : BitVec 44) (n : Fin 65) (data : BitVec 512) (performed : Bool)
  | atomic (b : BusAttr) (a : BitVec 44) (op : AmoOp) (wide : Bool) (v : Word) (old : Option Word)
deriving DecidableEq, Repr

/-- What the board gives the device at power good: the strap balls (16 R461), the memory population (10 R310), the OTP
fuses of the two hubs (16 R465) and the units that BIST marks failed (01 R18). -/
structure Straps where
  node : BitVec 7
  canRate : BitVec 2
  memMir : Bool
  memIlv : BitVec 2
  bootSrc : BitVec 2
  dpc2 : Bool
  msize : BitVec 4
  uniform : Bool
  otp : List (BitVec 64)
  otpH1 : List (BitVec 64)
deriving DecidableEq, Repr

/-- A unit that holds SRAM banks: a cluster or comet, 25 n + k, or another unit of a die (01 R18). -/
inductive BankUnit where
  | cluster (i : Fin 150)
  | other (d : Fin 8)
deriving DecidableEq, Repr

/-- A bank that BIST found failing rows in (01 Table 1-3, R18). -/
structure BankTest where
  unit : BankUnit
  bank : BitVec 10
  rows : Nat
deriving DecidableEq, Repr

/-- The outcome of the boot ROM's self-test, training and calibration (16 R463, R464, 10 R310). -/
structure BootResult where
  failedDies : List (Fin 8)
  failedClusters : List (Fin 150)
  failedOther : Bool
  failedChannels : List (Fin 8)
  banks : List BankTest
deriving DecidableEq, Repr

/-- The supplies other than the core supplies (18 Table 18-2). -/
inductive Supply where
  | vddq (m : Fin 8) | vddSd (h : Fin 2) | vddhSd (h : Fin 2) | vddio | vdda (h : Fin 2)
deriving DecidableEq, Repr

/-- The four flits of a link block, flit 0 in the low bits, and the traffic class that each carries, three bits a flit (01 R12, R13,
R23). -/
structure Flits where
  bits : BitVec 2048
  tc : BitVec 12
deriving DecidableEq, Repr

/-- The commands: one constructor per row of spec/opcode_table.json, in its order. -/
inductive Instr where
  | linkBlockSend (l : Fin 13) (up : Bool) (data : Flits)
  | linkBlockReceive (l : Fin 13) (up : Bool) (seq : Nat) (data : Flits) (crc : BitVec 32)
  | linkBlockAcknowledge (l : Fin 13) (up : Bool) (seq : Nat)
  | linkReplay (l : Fin 13) (up : Bool) (seq : Nat)
  | linkDown (l : Fin 13)
  | tideGeneratorTick (ptpPos : BitVec 56)
  | tickMessage (d : Fin 8) (h : Fin 2) (pos : BitVec 56)
  | localTideTick (d : Fin 8) (gauge : BitVec 16)
  | acquireTimeout
  | lockQualified
  | holdoverEntry
  | quarterHandover (d : Fin 6) (k : Fin 25)
  | renderComplete (d : Fin 6) (k : Fin 25)
  | renderHardDeadline (d : Fin 6) (k : Fin 25)
  | broadcastWrite (d : Fin 6) (slot : BitVec 11) (blk : BitVec 52) (samples : BitVec 384)
  | supplyHoldEntry (d : Fin 8)
  | holdNotice (d : Fin 6)
  | supplyHoldExitRise (d : Fin 8)
  | holdExitCondition (d : Fin 8)
  | dieRejoin (d : Fin 6)
  | holdTimeout (d : Fin 8)
  | supplyResetCrossing (d : Fin 8)
  | supplyUp (d : Fin 8)
  | hubRejoin (h : Fin 2)
  | mark (d : Fin 6) (k : Fin 25) (withCancel : Bool)
  | cancel (d : Fin 6) (k : Fin 25)
  | checkComplete (d : Fin 6) (k : Fin 25)
  | lstickyClear (d : Fin 6) (k : Fin 25) (w : Word)
  | commit (d : Fin 6) (k : Fin 25) (slot : BitVec 6) (len : BitVec 11)
  | priorityBusChange (d : Fin 6) (bus : Fin 8) (psrc : BitVec 11) (active : Bool) (duck : BitVec 17) (effBlock : BitVec 52)
  | egressWordWrite (h : Fin 2) (blk : BitVec 52) (out : BitVec 14) (w : Fin 8) (data : Word)
  | completionWordWrite (h : Fin 2) (blk : BitVec 52) (cl : Fin 144)
  | egressLatch (h : Fin 2) (blk : BitVec 52)
  | playoutBlock (h : Fin 2) (blk : BitVec 52) (uncorr : List (BitVec 14 × Fin 8))
  | sceneFrameTake (dom : BitVec 4)
  | lawShareExpiry (d : Fin 6) (k : Fin 25)
  | compareSubmit (d : Fin 6) (p : Fin 6) (coreB : Bool) (slot : BitVec 11) (crc : BitVec 32) (errf : Bool) (out : BitVec 384)
  | compareResolve (d : Fin 6) (p : Fin 6) (slot : BitVec 11)
  | compareDeadline (d : Fin 6) (p : Fin 6)
  | add (c : Fin 230) (d a b : BitVec 5)
  | sub (c : Fin 230) (d a b : BitVec 5)
  | addo (c : Fin 230) (d a b : BitVec 5)
  | subo (c : Fin 230) (d a b : BitVec 5)
  | and (c : Fin 230) (d a b : BitVec 5)
  | or (c : Fin 230) (d a b : BitVec 5)
  | xor (c : Fin 230) (d a b : BitVec 5)
  | andn (c : Fin 230) (d a b : BitVec 5)
  | sll (c : Fin 230) (d a b : BitVec 5)
  | srl (c : Fin 230) (d a b : BitVec 5)
  | sra (c : Fin 230) (d a b : BitVec 5)
  | ror (c : Fin 230) (d a b : BitVec 5)
  | slt (c : Fin 230) (d a b : BitVec 5)
  | sltu (c : Fin 230) (d a b : BitVec 5)
  | seq (c : Fin 230) (d a b : BitVec 5)
  | min (c : Fin 230) (d a b : BitVec 5)
  | max (c : Fin 230) (d a b : BitVec 5)
  | minu (c : Fin 230) (d a b : BitVec 5)
  | maxu (c : Fin 230) (d a b : BitVec 5)
  | clz (c : Fin 230) (d a : BitVec 5)
  | popc (c : Fin 230) (d a : BitVec 5)
  | sats (c : Fin 230) (d a b : BitVec 5)
  | cmovnz (c : Fin 230) (d a b : BitVec 5)
  | cmovz (c : Fin 230) (d a b : BitVec 5)
  | slli (c : Fin 230) (d a : BitVec 5) (sh : BitVec 6)
  | srli (c : Fin 230) (d a : BitVec 5) (sh : BitVec 6)
  | srai (c : Fin 230) (d a : BitVec 5) (sh : BitVec 6)
  | rori (c : Fin 230) (d a : BitVec 5) (sh : BitVec 6)
  | extu (c : Fin 230) (d a : BitVec 5) (pos len1 : BitVec 6)
  | exts (c : Fin 230) (d a : BitVec 5) (pos len1 : BitVec 6)
  | ins (c : Fin 230) (d a : BitVec 5) (pos len1 : BitVec 6)
  | addi (c : Fin 230) (d a : BitVec 5) (imm : BitVec 16)
  | addio (c : Fin 230) (d a : BitVec 5) (imm : BitVec 16)
  | andi (c : Fin 230) (d a : BitVec 5) (imm : BitVec 16)
  | ori (c : Fin 230) (d a : BitVec 5) (imm : BitVec 16)
  | xori (c : Fin 230) (d a : BitVec 5) (imm : BitVec 16)
  | slti (c : Fin 230) (d a : BitVec 5) (imm : BitVec 16)
  | sltiu (c : Fin 230) (d a : BitVec 5) (imm : BitVec 16)
  | movi (c : Fin 230) (d : BitVec 5) (h : BitVec 2) (imm : BitVec 16)
  | movk (c : Fin 230) (d : BitVec 5) (h : BitVec 2) (imm : BitVec 16)
  | lb (c : Fin 230) (t : BitVec 5) (m : MemOp)
  | lbu (c : Fin 230) (t : BitVec 5) (m : MemOp)
  | lh (c : Fin 230) (t : BitVec 5) (m : MemOp)
  | lhu (c : Fin 230) (t : BitVec 5) (m : MemOp)
  | lw (c : Fin 230) (t : BitVec 5) (m : MemOp)
  | lwu (c : Fin 230) (t : BitVec 5) (m : MemOp)
  | ld (c : Fin 230) (t : BitVec 5) (m : MemOp)
  | ldt (c : Fin 230) (t : BitVec 5) (m : MemOp)
  | sb (c : Fin 230) (t : BitVec 5) (m : MemOp)
  | sh (c : Fin 230) (t : BitVec 5) (m : MemOp)
  | sw (c : Fin 230) (t : BitVec 5) (m : MemOp)
  | sd (c : Fin 230) (t : BitVec 5) (m : MemOp)
  | stt (c : Fin 230) (t : BitVec 5) (m : MemOp)
  | stts (c : Fin 230) (t : BitVec 5) (m : MemOp)
  | clc (c : Fin 230) (t ab : BitVec 4) (imm : BitVec 17)
  | csc (c : Fin 230) (t ab : BitVec 4) (imm : BitVec 17)
  | amoswap (c : Fin 230) (d : BitVec 5) (ab : BitVec 4) (b : BitVec 5) (wide : Bool)
  | amoadd (c : Fin 230) (d : BitVec 5) (ab : BitVec 4) (b : BitVec 5) (wide : Bool)
  | amoand (c : Fin 230) (d : BitVec 5) (ab : BitVec 4) (b : BitVec 5) (wide : Bool)
  | amoor (c : Fin 230) (d : BitVec 5) (ab : BitVec 4) (b : BitVec 5) (wide : Bool)
  | cas (c : Fin 230) (d : BitVec 5) (ab : BitVec 4) (b : BitVec 5) (wide : Bool)
  | amomax (c : Fin 230) (d : BitVec 5) (ab : BitVec 4) (b : BitVec 5) (wide : Bool)
  | amomin (c : Fin 230) (d : BitVec 5) (ab : BitVec 4) (b : BitVec 5) (wide : Bool)
  | ldm (c : Fin 230) (ab : BitVec 4) (w : Bool) (bank : Bank) (mask : BitVec 16)
  | stm (c : Fin 230) (ab : BitVec 4) (w : Bool) (bank : Bank) (mask : BitVec 16)
  | cmove (c : Fin 230) (ad aa : BitVec 4)
  | cinc (c : Fin 230) (ad aa : BitVec 4) (b : BitVec 5)
  | csetc (c : Fin 230) (ad aa : BitVec 4) (b : BitVec 5)
  | csetb (c : Fin 230) (ad aa : BitVec 4) (b : BitVec 5)
  | csetbx (c : Fin 230) (ad aa : BitVec 4) (b : BitVec 5)
  | candr (c : Fin 230) (ad aa : BitVec 4) (b : BitVec 5)
  | cclrt (c : Fin 230) (ad aa : BitVec 4)
  | cseal (c : Fin 230) (ad aa ab : BitVec 4)
  | cunseal (c : Fin 230) (ad aa ab : BitVec 4)
  | cdom (c : Fin 230) (ad aa : BitVec 4) (b : BitVec 5)
  | cgetb (c : Fin 230) (d : BitVec 5) (aa : BitVec 4)
  | cgetl (c : Fin 230) (d : BitVec 5) (aa : BitVec 4)
  | cgetc (c : Fin 230) (d : BitVec 5) (aa : BitVec 4)
  | cgetr (c : Fin 230) (d : BitVec 5) (aa : BitVec 4)
  | cgeto (c : Fin 230) (d : BitVec 5) (aa : BitVec 4)
  | cgetd (c : Fin 230) (d : BitVec 5) (aa : BitVec 4)
  | cgett (c : Fin 230) (d : BitVec 5) (aa : BitVec 4)
  | csub (c : Fin 230) (d : BitVec 5) (aa ab : BitVec 4)
  | cgetoff (c : Fin 230) (d : BitVec 5) (aa : BitVec 4)
  | cinci (c : Fin 230) (ad aa : BitVec 4) (imm : BitVec 18)
  | cpcc (c : Fin 230) (p : BitVec 4) (imm : BitVec 20)
  | ccall (c : Fin 230) (p q : BitVec 4)
  | ccopy (c : Fin 230) (p q : BitVec 4) (n : BitVec 5)
  | beq (c : Fin 230) (a b : BitVec 5) (an : Bool) (imm : BitVec 12)
  | bne (c : Fin 230) (a b : BitVec 5) (an : Bool) (imm : BitVec 12)
  | blt (c : Fin 230) (a b : BitVec 5) (an : Bool) (imm : BitVec 12)
  | bge (c : Fin 230) (a b : BitVec 5) (an : Bool) (imm : BitVec 12)
  | bltu (c : Fin 230) (a b : BitVec 5) (an : Bool) (imm : BitVec 12)
  | bgeu (c : Fin 230) (a b : BitVec 5) (an : Bool) (imm : BitVec 12)
  | beqz (c : Fin 230) (a : BitVec 5) (an : Bool) (imm : BitVec 17)
  | bnez (c : Fin 230) (a : BitVec 5) (an : Bool) (imm : BitVec 17)
  | bltz (c : Fin 230) (a : BitVec 5) (an : Bool) (imm : BitVec 17)
  | bgez (c : Fin 230) (a : BitVec 5) (an : Bool) (imm : BitVec 17)
  | bgtz (c : Fin 230) (a : BitVec 5) (an : Bool) (imm : BitVec 17)
  | blez (c : Fin 230) (a : BitVec 5) (an : Bool) (imm : BitVec 17)
  | j (c : Fin 230) (an : Bool) (imm : BitVec 23)
  | jal (c : Fin 230) (an : Bool) (imm : BitVec 23)
  | callw (c : Fin 230) (an : Bool) (imm : BitVec 23)
  | jr (c : Fin 230) (ar : BitVec 4) (an : Bool)
  | jalr (c : Fin 230) (ar : BitVec 4) (an : Bool)
  | callwr (c : Fin 230) (ar : BitVec 4) (an : Bool)
  | retw (c : Fin 230) (an : Bool)
  | mul (c : Fin 230) (d a b : BitVec 5)
  | mulh (c : Fin 230) (d a b : BitVec 5)
  | mulhu (c : Fin 230) (d a b : BitVec 5)
  | mulo (c : Fin 230) (d a b : BitVec 5)
  | mac (c : Fin 230) (k : BitVec 2) (a b : BitVec 5) (m : MulMode)
  | msu (c : Fin 230) (k : BitVec 2) (a b : BitVec 5) (m : MulMode)
  | macr (c : Fin 230) (k : BitVec 2) (a b : BitVec 5) (m : MulMode)
  | clrac (c : Fin 230) (k : BitVec 2) (r : BitVec 6)
  | mvac (c : Fin 230) (d : BitVec 5) (k : BitVec 2) (sh : BitVec 6) (rm : RoundMode) (sat : BitVec 2)
  | macb (c : Fin 230) (k : BitVec 2) (aa ab : BitVec 4) (n : BitVec 5) (m : MulMode)
  | div (c : Fin 230) (d a b : BitVec 5)
  | divu (c : Fin 230) (d a b : BitVec 5)
  | rem (c : Fin 230) (d a b : BitVec 5)
  | remu (c : Fin 230) (d a b : BitVec 5)
  | sqrt (c : Fin 230) (d a : BitVec 5)
  | rcp (c : Fin 230) (d a : BitVec 5)
  | norm (c : Fin 230) (d : BitVec 5) (k : BitVec 2)
  | longOpComplete (c : Fin 230)
  | impreciseLongException (c : Fin 230)
  | mfs (c : Fin 230) (r : BitVec 5) (num : BitVec 12)
  | mts (c : Fin 230) (r : BitVec 5) (num : BitVec 12)
  | cmfs (c : Fin 230) (r : BitVec 5) (num : BitVec 12)
  | cmts (c : Fin 230) (r : BitVec 5) (num : BitVec 12)
  | nop (c : Fin 230)
  | fence (c : Fin 230)
  | fenceComplete (c : Fin 230)
  | waitl (c : Fin 230)
  | pflush (c : Fin 230)
  | iflusha (c : Fin 230)
  | dflusha (c : Fin 230)
  | dinva (c : Fin 230)
  | retx (c : Fin 230)
  | retf (c : Fin 230)
  | trap (c : Fin 230) (imm : BitVec 16)
  | brk (c : Fin 230)
  | wspill (c : Fin 230)
  | wfill (c : Fin 230)
  | binv (c : Fin 230)
  | wfi (c : Fin 230)
  | dflush (c : Fin 230) (aa : BitVec 4) (b : BitVec 5)
  | dinv (c : Fin 230) (aa : BitVec 4) (b : BitVec 5)
  | iflush (c : Fin 230) (aa : BitVec 4) (b : BitVec 5)
  | illegalInstruction (c : Fin 230) (word : BitVec 32)
  | frameDrainComplete (c : Fin 230)
  | normalInterruptEntry (c : Fin 230)
  | fastInterruptEntry (c : Fin 230)
  | blockWalk (w : Walker) (dom : BitVec 4) (va : BitVec 44)
  | dirtyUpdate (w : Walker) (dom : BitVec 4) (copy : Fin 8)
  | gvinfoClear (d : Fin 8) (g : Fin 100)
  | xbinv (d : Fin 8) (doms : BitVec 16)
  | registerWrite (b : BusAttr) (a : BitVec 44) (v : Word)
  | dramRead (b : BusAttr) (a : BitVec 44) (home partner : Ecc)
  | dramWrite (b : BusAttr) (a : BitVec 44) (mask : BitVec 64) (data : LineWrite)
  | patrolScrubWord (h : Fin 2) (m : Fin 4) (own partner : Ecc)
  | channelFail (h : Fin 2) (m : Fin 4)
  | initSweepChunk
  | produce (dom : BitVec 4) (q : BitVec 14) (v : BitVec 32)
  | consume (dom : BitVec 4) (q : BitVec 14) (v : BitVec 32)
  | arm (dom : BitVec 4) (q : BitVec 14) (v : BitVec 32)
  | doorbellReservedOp (dom : BitVec 4) (q : BitVec 14) (v : BitVec 32)
  | deferredNoticePost (dom : BitVec 4) (q : BitVec 14)
  | enable (h : Fin 2) (dom : BitVec 4) (q : BitVec 14)
  | disable (h : Fin 2) (dom : BitVec 4) (q : BitVec 14)
  | linkEntryMove (dom : BitVec 4) (q : BitVec 14)
  | channelEnable (e : Fin 14) (ch : Fin 64) (w : Word)
  | channelDisable (e : Fin 14) (ch : Fin 64)
  | start (e : Fin 14) (ch : Fin 64)
  | req (e : Fin 14) (ch : Fin 64)
  | dmaShadowFill (e : Fin 14) (ch : Fin 64)
  | dmaShadowToActive (e : Fin 14) (ch : Fin 64)
  | dmaRequest (e : Fin 14) (ch : Fin 64)
  | dmaBurst (e : Fin 14) (ch : Fin 64)
  | dmaDescriptorComplete (e : Fin 14) (ch : Fin 64)
  | cqwaitRelease (e : Fin 14) (ch : Fin 64)
  | frameReceive (p : Fin 4) (f : FrameIn)
  | audioPacketReceive (p : Fin 4) (k : AudioPkt)
  | forwardedPacket (h : Fin 2) (p : Fin 4) (k : AudioPkt)
  | ingressStreamEnable (h : Fin 2) (n : Fin 512)
  | egressStreamEnable (h : Fin 2) (e : Fin 1024)
  | egressPacketSend (p : Fin 4) (e : Fin 1024) (q : BitVec 56)
  | egressPacketDrop (p : Fin 4) (e : Fin 1024) (q : BitVec 56)
  | portLinkDown (p : Fin 4)
  | ptpEventMessage (p : Fin 4) (k : PtpMsg)
  | ptpAnnounceTimeout (p : Fin 4) (other : Option (Fin 4))
  | ppsInputEdge (h : Fin 2) (sec : BitVec 31) (ns : BitVec 30)
  | cxlLinkTrain (h : Fin 2) (width : BitVec 4) (speed : BitVec 2) (protocols : Bool) (mld : Bool)
  | getLdInfo
  | getLdAllocations
  | setLdAllocations (first : Fin 15) (range1 range2 : List (BitVec 64))
  | getQosControl
  | setQosControl (v : BitVec 8)
  | getQosStatus
  | getQosAllocatedBw
  | setQosAllocatedBw (first : Fin 15) (v : List Byte)
  | getQosBwLimit
  | setQosBwLimit (first : Fin 15) (v : List Byte)
  | unsupportedOpcode (ld : Fin 16) (op : BitVec 16)
  | hdmDecoderCommit (k : Fin 15) (n : Fin 2) (dec : HdmDec)
  | hdmDecoderUncommit (k : Fin 15) (n : Fin 2)
  | memRd (h : Fin 2) (k : Fin 15) (req : HostAddr)
  | memRdData (h : Fin 2) (k : Fin 15) (hpa : BitVec 52)
  | memSpecRd (h : Fin 2) (k : Fin 15) (hpa : BitVec 52)
  | memInv (h : Fin 2) (k : Fin 15) (hpa : BitVec 52)
  | memInvNt (h : Fin 2) (k : Fin 15) (hpa : BitVec 52)
  | memWr (h : Fin 2) (k : Fin 15) (req : HostAddr) (data : BitVec 512) (poison : Bool)
  | memWrPtl (h : Fin 2) (k : Fin 15) (hpa : BitVec 52) (mask : BitVec 64) (data : BitVec 512) (poison : Bool)
  | identifyMemoryDevice (k : Fin 16)
  | getHealthInfo (k : Fin 16)
  | getEventRecords (k : Fin 16) (log : EvLog)
  | clearEventRecords (k : Fin 16) (log : EvLog) (all : Bool) (handles : List (BitVec 16))
  | getEventInterruptPolicy (k : Fin 16)
  | setEventInterruptPolicy (k : Fin 16) (pol : BitVec 4)
  | getPoisonList (k : Fin 16)
  | getDeviceInfo (k : Fin 16)
  | dictionaryRead (ld : Fin 16) (index : BitVec 16) (sub : Byte) (off : BitVec 32)
  | dictionaryWrite (ld : Fin 16) (index : BitVec 16) (sub : Byte) (last : Bool) (off : BitVec 32) (data : List Byte)
  | imageLoad (ld : Fin 16) (off : BitVec 32) (last : Bool) (data : List Byte)
  | attest (ld : Fin 16) (nonce : BitVec 256) (off : BitVec 32)
  | cxlHotReset (h : Fin 2)
  | functionLevelReset (k : Fin 16)
  | cdatTableAccess (k : Fin 15) (handle : BitVec 16)
  | doeDiscovery (k : Fin 16) (ix : Byte)
  | globalPersistentFlush (k : Fin 16) (phase : Fin 2)
  | ngpRead (p : Fin 4) (k : NgpMsg)
  | ngpWrite (p : Fin 4) (k : NgpMsg)
  | ngpImage (p : Fin 4) (k : NgpMsg)
  | ngpInfo (p : Fin 4) (k : NgpMsg)
  | sdoUpload (frame : Word)
  | sdoDownload (frame : Word)
  | sdoSegment (frame : Word)
  | sdoInvalidCommand (frame : Word)
  | nmtCommand (frame : BitVec 16)
  | heartbeat
  | initFrame (frame : BitVec 512)
  | dataFrame (frame : BitVec 512)
  | ackFrame (frame : BitVec 512)
  | endFrame (frame : BitVec 512)
  | abortFrame (frame : BitVec 512)
  | transferTimeout (p : Path)
  | command (p : Path) (v : Byte)
  | runEntry
  | rate (p : Path) (v : BitVec 32)
  | batch (p : Path) (dom : BitVec 4) (v : Byte)
  | nonce
  | auth (key : BitVec 256) (sig : BitVec 512)
  | close (v : Byte)
  | sessionTimeout
  | authLockoutExpiry
  | trust (p : Path) (hashes : List (BitVec 512))
  | factoryok (p : Path) (v : Byte)
  | trouble (p : Path) (g : Fin 64) (v : Byte)
  | program (p : Path) (dom : BitVec 4) (n : Fin 64) (r : BitVec 256)
  | stage (p : Path) (off : BitVec 32) (last : Bool) (data : List Byte)
  | lcadvance (p : Path) (v : Byte)
  | ownerkey (p : Path) (n : Fin 2) (v : BitVec 512)
  | revoke (p : Path) (v : Byte)
  | svnfloor (p : Path) (v : Byte)
  | updcmdStart (p : Path)
  | updcmdStop (p : Path)
  | hubRoleSwap
  | updateUnitComplete
  | clusterFault (d : Fin 6) (k : Fin 25) (f : FaultKind)
  | eclipseLoadComplete (d : Fin 6)
  | eclipse (d : Fin 6) (k : BitVec 5)
  | release (d : Fin 6)
  | plannedEclipseTakeEffect (d : Fin 6)
  | releaseTakeEffect (d : Fin 6)
  | auditCrc (d : Fin 6) (crc : BitVec 32)
  | auditRerunComplete (d : Fin 6) (agrees : Bool)
  | handshakeWatchdogExpiry (u : WatchUnit)
  | hubFence (h : Fin 2)
  | hubPathLoss (h : Fin 2)
  | reissue (t : Transaction)
  | dieFence (d : Fin 6)
  | sourceMove (slot : BitVec 11) (pair : Option (Fin 36))
  | mirrorArrayLoss (d : Fin 6) (a : Fin 6)
  | troubleSet
  | trbitsClear (g : Fin 64) (v : Byte)
  | powerGood (st : Straps)
  | porstReset (us : Nat)
  | bootComplete (r : BootResult)
  | imageVerifyComplete
  | configEntry
  | thermalTrip (d : Fin 8) (temp : BitVec 32)
  | otherSupplyOutOfRange (x : Supply)
  | snap (periodic : Bool)
  | snapshotComplete
  | sampleCountdownExpiry (c : Fin 230)
  | seed (c : Fin 230) (v : BitVec 32)
  | tapReset
  | extest (bits : List Bool)
  | samplePreload (bits : List Bool)
  | idcode
  | clamp
  | highz
  | dbgctl (v : Byte)
  | dbgacc (a : BitVec 44) (write : Bool) (data : Word)
  | debugAccessTimeout
  | dbgstat
  | chal
  | unlock (key : BitVec 256) (sig : BitVec 512)
  | bypass
  | supplyExitThresholdFall (d : Fin 8)
  | hubHoldNotice (h : Fin 2)
  | portLinkUp (p : Fin 4) (speed10 fec : Bool)
  | cxlLinkDown (h : Fin 2)
  | configurationRequest (h : Fin 2) (k : Fin 16) (write : Bool) (reg : BitVec 12) (v : BitVec 32)
  | nonceExpiry
  | unlockLockoutExpiry
  | canBusError (h : Fin 2) (tec rec : BitVec 9)
  | busOffRecovery (h : Fin 2)
  | homeTakeoverComplete
  | phyOrCommandParityFault (h : Fin 2) (m : Fin 4) (clears : Bool)
deriving DecidableEq, Repr

end Sys2Proof
end

