-- ==== Sys2Proof/Decode.lean ====
section
/-! DEFINITION. The words of core instructions (07 R227-R254): which instruction a 32-bit word is, and the word of an instruction,
from the major opcode map of Table 7-1 and the formats of Table 7-2. And the command that a word spells by the bits of
spec/opcode_table.json, which gives bits to no row: the device takes commands, not words (assumption 14). -/

namespace Sys2Proof

/-- No row of the table has bits, so no word spells a command. -/
def decodeTableWord (_nbits _w : Nat) : Option Instr := none

/-! ### Decoding (07 R227-R229) -/

/-- Bits `lsb + n - 1` to `lsb` of a word. -/
def wordField (w : BitVec 32) (lsb n : Nat) : BitVec n := w.extractLsb' lsb n
def wordNat (w : BitVec 32) (lsb n : Nat) : Nat := (wordField w lsb n).toNat
def wordBit (w : BitVec 32) (i : Nat) : Bool := wordNat w i 1 == 1

/-- A field shown as 0 in Table 7-2 must hold 0 (07 R229). -/
def zeroField (w : BitVec 32) (lsb n : Nat) (i : Instr) : Option Instr := if wordNat w lsb n = 0 then some i else none

/-- Major 0x00, format R (07 Table 7-3); b is 0 for CLZ and POPC. -/
def decodeAlu (c : Fin 230) (w : BitVec 32) : Option Instr :=
  let f (lsb n : Nat) : BitVec n := wordField w lsb n
  match wordNat w 0 11 with
  | 0x1 => some (.add c (f 21 5) (f 16 5) (f 11 5))
  | 0x2 => some (.sub c (f 21 5) (f 16 5) (f 11 5))
  | 0x3 => some (.addo c (f 21 5) (f 16 5) (f 11 5))
  | 0x4 => some (.subo c (f 21 5) (f 16 5) (f 11 5))
  | 0x5 => some (.and c (f 21 5) (f 16 5) (f 11 5))
  | 0x6 => some (.or c (f 21 5) (f 16 5) (f 11 5))
  | 0x7 => some (.xor c (f 21 5) (f 16 5) (f 11 5))
  | 0x8 => some (.andn c (f 21 5) (f 16 5) (f 11 5))
  | 0x9 => some (.sll c (f 21 5) (f 16 5) (f 11 5))
  | 0xa => some (.srl c (f 21 5) (f 16 5) (f 11 5))
  | 0xb => some (.sra c (f 21 5) (f 16 5) (f 11 5))
  | 0xc => some (.ror c (f 21 5) (f 16 5) (f 11 5))
  | 0xd => some (.slt c (f 21 5) (f 16 5) (f 11 5))
  | 0xe => some (.sltu c (f 21 5) (f 16 5) (f 11 5))
  | 0xf => some (.seq c (f 21 5) (f 16 5) (f 11 5))
  | 0x10 => some (.min c (f 21 5) (f 16 5) (f 11 5))
  | 0x11 => some (.max c (f 21 5) (f 16 5) (f 11 5))
  | 0x12 => some (.minu c (f 21 5) (f 16 5) (f 11 5))
  | 0x13 => some (.maxu c (f 21 5) (f 16 5) (f 11 5))
  | 0x14 => zeroField w 11 5 (.clz c (f 21 5) (f 16 5))
  | 0x15 => zeroField w 11 5 (.popc c (f 21 5) (f 16 5))
  | 0x16 => some (.sats c (f 21 5) (f 16 5) (f 11 5))
  | 0x17 => some (.cmovnz c (f 21 5) (f 16 5) (f 11 5))
  | 0x18 => some (.cmovz c (f 21 5) (f 16 5) (f 11 5))
  | _ => none

/-- Major 0x01, format SH (07 R231). -/
def decodeShift (c : Fin 230) (w : BitVec 32) : Option Instr :=
  let f (lsb n : Nat) : BitVec n := wordField w lsb n
  match wordNat w 8 2 with
  | 0 => zeroField w 0 8 (.slli c (f 21 5) (f 16 5) (f 10 6))
  | 1 => zeroField w 0 8 (.srli c (f 21 5) (f 16 5) (f 10 6))
  | 2 => zeroField w 0 8 (.srai c (f 21 5) (f 16 5) (f 10 6))
  | 3 => zeroField w 0 8 (.rori c (f 21 5) (f 16 5) (f 10 6))
  | _ => none

/-- Major 0x02, format BF (07 R231). -/
def decodeField (c : Fin 230) (w : BitVec 32) : Option Instr :=
  let f (lsb n : Nat) : BitVec n := wordField w lsb n
  match wordNat w 2 2 with
  | 0 => zeroField w 0 2 (.extu c (f 21 5) (f 16 5) (f 10 6) (f 4 6))
  | 1 => zeroField w 0 2 (.exts c (f 21 5) (f 16 5) (f 10 6) (f 4 6))
  | 2 => zeroField w 0 2 (.ins c (f 21 5) (f 16 5) (f 10 6) (f 4 6))
  | _ => none

/-- Majors 0x08 to 0x0E, format I (07 Table 7-4). -/
def decodeImm (c : Fin 230) (w : BitVec 32) : Option Instr :=
  let f (lsb n : Nat) : BitVec n := wordField w lsb n
  match wordNat w 26 6 with
  | 0x8 => some (.addi c (f 21 5) (f 16 5) (f 0 16))
  | 0x9 => some (.addio c (f 21 5) (f 16 5) (f 0 16))
  | 0xa => some (.andi c (f 21 5) (f 16 5) (f 0 16))
  | 0xb => some (.ori c (f 21 5) (f 16 5) (f 0 16))
  | 0xc => some (.xori c (f 21 5) (f 16 5) (f 0 16))
  | 0xd => some (.slti c (f 21 5) (f 16 5) (f 0 16))
  | 0xe => some (.sltiu c (f 21 5) (f 16 5) (f 0 16))
  | _ => none

/-- Major 0x0F, format MV (07 Table 7-4). -/
def decodeMov (c : Fin 230) (w : BitVec 32) : Option Instr :=
  zeroField w 18 2 (if wordBit w 20 then .movk c (wordField w 21 5) (wordField w 16 2) (wordField w 0 16)
    else .movi c (wordField w 21 5) (wordField w 16 2) (wordField w 0 16))

/-- The operand of formats M and MX; bits [6:0] of MX are 0 (07 Table 7-2). -/
def decodeMem (w : BitVec 32) : Option MemOp :=
  if wordBit w 26 then
    (if wordNat w 0 7 = 0 then some (.idx (wordField w 17 4) (wordField w 9 5) (wordField w 7 2)) else none)
  else some (.imm (wordField w 17 4) (wordField w 0 14))

/-- Majors 0x10 and 0x11 (07 Table 7-5). -/
def decodeLoad (c : Fin 230) (w : BitVec 32) (m : MemOp) : Option Instr :=
  match wordNat w 14 3 with
  | 0 => some (.lb c (wordField w 21 5) m)
  | 1 => some (.lbu c (wordField w 21 5) m)
  | 2 => some (.lh c (wordField w 21 5) m)
  | 3 => some (.lhu c (wordField w 21 5) m)
  | 4 => some (.lw c (wordField w 21 5) m)
  | 5 => some (.lwu c (wordField w 21 5) m)
  | 6 => some (.ld c (wordField w 21 5) m)
  | 7 => some (.ldt c (wordField w 21 5) m)
  | _ => none

/-- Majors 0x12 and 0x13 (07 Table 7-5). -/
def decodeStore (c : Fin 230) (w : BitVec 32) (m : MemOp) : Option Instr :=
  match wordNat w 14 3 with
  | 0 => some (.sb c (wordField w 21 5) m)
  | 2 => some (.sh c (wordField w 21 5) m)
  | 3 => some (.stts c (wordField w 21 5) m)
  | 4 => some (.sw c (wordField w 21 5) m)
  | 6 => some (.sd c (wordField w 21 5) m)
  | 7 => some (.stt c (wordField w 21 5) m)
  | _ => none

/-- Major 0x14, format CM (07 R237). -/
def decodeCapMem (c : Fin 230) (w : BitVec 32) : Option Instr :=
  some (if wordBit w 25 then .csc c (wordField w 21 4) (wordField w 17 4) (wordField w 0 17)
    else .clc c (wordField w 21 4) (wordField w 17 4) (wordField w 0 17))

/-- Major 0x15, format AT (07 R238). -/
def decodeAtomic (c : Fin 230) (w : BitVec 32) : Option Instr :=
  let d : BitVec 5 := wordField w 21 5
  let ab : BitVec 4 := wordField w 17 4
  let b : BitVec 5 := wordField w 12 5
  let wide := wordBit w 7
  if wordNat w 8 1 = 1 ∧ wordNat w 0 7 = 0 then
    match wordNat w 9 3 with
    | 0 => some (.amoswap c d ab b wide)
    | 1 => some (.amoadd c d ab b wide)
    | 2 => some (.amoand c d ab b wide)
    | 3 => some (.amoor c d ab b wide)
    | 4 => some (.cas c d ab b wide)
    | 5 => some (.amomax c d ab b wide)
    | 6 => some (.amomin c d ab b wide)
    | _ => none
  else none

/-- Majors 0x16 and 0x17, format LM (07 R239). -/
def decodeMulti (c : Fin 230) (w : BitVec 32) : Option Instr :=
  let go (k : Bank) : Option Instr :=
    zeroField w 16 3 (if wordBit w 26 then .stm c (wordField w 22 4) (wordBit w 21) k (wordField w 0 16)
      else .ldm c (wordField w 22 4) (wordBit w 21) k (wordField w 0 16))
  match wordNat w 19 2 with
  | 0 => go .globals
  | 1 => go .window
  | 2 => go .address
  | _ => none

/-- Major 0x18, format C; the top bit of b is 0 where it names an A register (07 Table 7-7). -/
def decodeCap (c : Fin 230) (w : BitVec 32) : Option Instr :=
  let f (lsb n : Nat) : BitVec n := wordField w lsb n
  match wordNat w 0 6 with
  | 1 => zeroField w 6 7 (.cmove c (f 22 4) (f 18 4))
  | 2 => zeroField w 6 7 (.cinc c (f 22 4) (f 18 4) (f 13 5))
  | 3 => zeroField w 6 7 (.csetc c (f 22 4) (f 18 4) (f 13 5))
  | 4 => zeroField w 6 7 (.csetb c (f 22 4) (f 18 4) (f 13 5))
  | 5 => zeroField w 6 7 (.csetbx c (f 22 4) (f 18 4) (f 13 5))
  | 6 => zeroField w 6 7 (.candr c (f 22 4) (f 18 4) (f 13 5))
  | 7 => zeroField w 6 7 (.cclrt c (f 22 4) (f 18 4))
  | 8 => if wordBit w 17 then none else zeroField w 6 7 (.cseal c (f 22 4) (f 18 4) (f 13 4))
  | 9 => if wordBit w 17 then none else zeroField w 6 7 (.cunseal c (f 22 4) (f 18 4) (f 13 4))
  | 10 => zeroField w 6 7 (.cdom c (f 22 4) (f 18 4) (f 13 5))
  | _ => none

/-- Major 0x19, format CR (07 R241). -/
def decodeGet (c : Fin 230) (w : BitVec 32) : Option Instr :=
  let f (lsb n : Nat) : BitVec n := wordField w lsb n
  match wordNat w 0 6 with
  | 1 => zeroField w 6 7 (.cgetb c (f 21 5) (f 17 4))
  | 2 => zeroField w 6 7 (.cgetl c (f 21 5) (f 17 4))
  | 3 => zeroField w 6 7 (.cgetc c (f 21 5) (f 17 4))
  | 4 => zeroField w 6 7 (.cgetr c (f 21 5) (f 17 4))
  | 5 => zeroField w 6 7 (.cgeto c (f 21 5) (f 17 4))
  | 6 => zeroField w 6 7 (.cgetd c (f 21 5) (f 17 4))
  | 7 => zeroField w 6 7 (.cgett c (f 21 5) (f 17 4))
  | 8 => zeroField w 6 7 (.csub c (f 21 5) (f 17 4) (f 13 4))
  | 9 => zeroField w 6 7 (.cgetoff c (f 21 5) (f 17 4))
  | _ => none

/-- Major 0x1B, format CX: CCALL with n 0, CCOPY and CPCC (07 R242-R244). -/
def decodeCx (c : Fin 230) (w : BitVec 32) : Option Instr :=
  match wordNat w 24 2 with
  | 0 => zeroField w 0 16 (.ccall c (wordField w 20 4) (wordField w 16 4))
  | 1 => zeroField w 0 11 (.ccopy c (wordField w 20 4) (wordField w 16 4) (wordField w 11 5))
  | 2 => some (.cpcc c (wordField w 20 4) (wordField w 0 20))
  | _ => none

/-- Major 0x1C, format B (07 Table 7-8). -/
def decodeBranch (c : Fin 230) (w : BitVec 32) : Option Instr :=
  let f (lsb n : Nat) : BitVec n := wordField w lsb n
  match wordNat w 13 3 with
  | 0 => some (.beq c (f 21 5) (f 16 5) (wordBit w 12) (f 0 12))
  | 1 => some (.bne c (f 21 5) (f 16 5) (wordBit w 12) (f 0 12))
  | 2 => some (.blt c (f 21 5) (f 16 5) (wordBit w 12) (f 0 12))
  | 3 => some (.bge c (f 21 5) (f 16 5) (wordBit w 12) (f 0 12))
  | 4 => some (.bltu c (f 21 5) (f 16 5) (wordBit w 12) (f 0 12))
  | 5 => some (.bgeu c (f 21 5) (f 16 5) (wordBit w 12) (f 0 12))
  | _ => none

/-- Major 0x1D, format BZ (07 Table 7-8). -/
def decodeBranchZ (c : Fin 230) (w : BitVec 32) : Option Instr :=
  let f (lsb n : Nat) : BitVec n := wordField w lsb n
  match wordNat w 18 3 with
  | 0 => some (.beqz c (f 21 5) (wordBit w 17) (f 0 17))
  | 1 => some (.bnez c (f 21 5) (wordBit w 17) (f 0 17))
  | 2 => some (.bltz c (f 21 5) (wordBit w 17) (f 0 17))
  | 3 => some (.bgez c (f 21 5) (wordBit w 17) (f 0 17))
  | 4 => some (.bgtz c (f 21 5) (wordBit w 17) (f 0 17))
  | 5 => some (.blez c (f 21 5) (wordBit w 17) (f 0 17))
  | _ => none

/-- Major 0x1E, format J (07 Table 7-8). -/
def decodeJump (c : Fin 230) (w : BitVec 32) : Option Instr :=
  let f (lsb n : Nat) : BitVec n := wordField w lsb n
  match wordNat w 24 2 with
  | 0 => some (.j c (wordBit w 23) (f 0 23))
  | 1 => some (.jal c (wordBit w 23) (f 0 23))
  | 2 => some (.callw c (wordBit w 23) (f 0 23))
  | _ => none

/-- Major 0x1F, format JR; ar is 0 for RETW (07 Table 7-8). -/
def decodeJumpReg (c : Fin 230) (w : BitVec 32) : Option Instr :=
  let f (lsb n : Nat) : BitVec n := wordField w lsb n
  match wordNat w 20 2 with
  | 0 => zeroField w 0 19 (.jr c (f 22 4) (wordBit w 19))
  | 1 => zeroField w 0 19 (.jalr c (f 22 4) (wordBit w 19))
  | 2 => zeroField w 0 19 (.callwr c (f 22 4) (wordBit w 19))
  | 3 => if wordNat w 22 4 = 0 then zeroField w 0 19 (.retw c (wordBit w 19)) else none
  | _ => none

/-- Major 0x20, format R (07 R246). -/
def decodeMul (c : Fin 230) (w : BitVec 32) : Option Instr :=
  let f (lsb n : Nat) : BitVec n := wordField w lsb n
  match wordNat w 0 11 with
  | 1 => some (.mul c (f 21 5) (f 16 5) (f 11 5))
  | 2 => some (.mulh c (f 21 5) (f 16 5) (f 11 5))
  | 3 => some (.mulhu c (f 21 5) (f 16 5) (f 11 5))
  | 4 => some (.mulo c (f 21 5) (f 16 5) (f 11 5))
  | _ => none

/-- The mode m of a product (07 R247). -/
def decodeMode (n : Nat) : Option MulMode :=
  match n with
  | 0 => some .ss
  | 1 => some .uu
  | 2 => some .su
  | _ => none

/-- Major 0x21, format MA: k is 0 but for CLRAC, and a, b and m are 0 for CLRAC (07 Table 7-9). -/
def decodeAcc (c : Fin 230) (w : BitVec 32) : Option Instr :=
  let k : BitVec 2 := wordField w 24 2
  let a : BitVec 5 := wordField w 19 5
  let b : BitVec 5 := wordField w 14 5
  if wordNat w 0 3 = 0 then
    match wordNat w 11 3, decodeMode (wordNat w 9 2) with
    | 0, some m => zeroField w 3 6 (.mac c k a b m)
    | 1, some m => zeroField w 3 6 (.msu c k a b m)
    | 2, some m => zeroField w 3 6 (.macr c k a b m)
    | 3, some .ss => zeroField w 14 10 (.clrac c k (wordField w 3 6))
    | _, _ => none
  else none

/-- Major 0x22, format MVA (07 R248). -/
def decodeMvac (c : Fin 230) (w : BitVec 32) : Option Instr :=
  let go (rm : RoundMode) : Option Instr :=
    zeroField w 0 9 (.mvac c (wordField w 21 5) (wordField w 19 2) (wordField w 13 6) rm (wordField w 9 2))
  match wordNat w 11 2 with
  | 0 => go .floor
  | 1 => go .rnd
  | 2 => go .even
  | _ => none

/-- Major 0x23, format MB (07 R249). -/
def decodeMacb (c : Fin 230) (w : BitVec 32) : Option Instr :=
  match decodeMode (wordNat w 9 2) with
  | some m => zeroField w 0 9 (.macb c (wordField w 24 2) (wordField w 20 4) (wordField w 16 4) (wordField w 11 5) m)
  | none => none

/-- Major 0x28, format R (07 Table 7-10). -/
def decodeDiv (c : Fin 230) (w : BitVec 32) : Option Instr :=
  let f (lsb n : Nat) : BitVec n := wordField w lsb n
  match wordNat w 0 11 with
  | 1 => some (.div c (f 21 5) (f 16 5) (f 11 5))
  | 2 => some (.divu c (f 21 5) (f 16 5) (f 11 5))
  | 3 => some (.rem c (f 21 5) (f 16 5) (f 11 5))
  | 4 => some (.remu c (f 21 5) (f 16 5) (f 11 5))
  | _ => none

/-- Major 0x29, format R; b is 0, and a[4:2] is 0 for NORM (07 Table 7-10). -/
def decodeLong (c : Fin 230) (w : BitVec 32) : Option Instr :=
  let f (lsb n : Nat) : BitVec n := wordField w lsb n
  match wordNat w 0 11 with
  | 1 => zeroField w 11 5 (.sqrt c (f 21 5) (f 16 5))
  | 2 => zeroField w 11 5 (.rcp c (f 21 5) (f 16 5))
  | 3 => if wordNat w 18 3 = 0 then zeroField w 11 5 (.norm c (f 21 5) (f 16 2)) else none
  | _ => none

/-- Major 0x2C, format S; r[4] is 0 where it names an A register (07 R251). -/
def decodeSys (c : Fin 230) (w : BitVec 32) : Option Instr :=
  let r : BitVec 5 := wordField w 21 5
  let num : BitVec 12 := wordField w 0 12
  if wordNat w 12 7 = 0 then
    match wordBit w 20, wordBit w 19 with
    | false, false => some (.mfs c r num)
    | true, false => some (.mts c r num)
    | false, true => if wordBit w 25 then none else some (.cmfs c r num)
    | true, true => if wordBit w 25 then none else some (.cmts c r num)
  else none

/-- Major 0x2D, format X; imm16 is 0 but for TRAP (07 Table 7-11). -/
def decodeX (c : Fin 230) (w : BitVec 32) : Option Instr :=
  match wordNat w 20 6 with
  | 0 => zeroField w 0 20 (.nop c)
  | 1 => zeroField w 0 20 (.fence c)
  | 2 => zeroField w 0 20 (.waitl c)
  | 3 => zeroField w 0 20 (.pflush c)
  | 4 => zeroField w 0 20 (.iflusha c)
  | 5 => zeroField w 0 20 (.dflusha c)
  | 6 => zeroField w 0 20 (.dinva c)
  | 7 => zeroField w 0 20 (.retx c)
  | 8 => zeroField w 0 20 (.retf c)
  | 9 => zeroField w 16 4 (.trap c (wordField w 0 16))
  | 10 => zeroField w 0 20 (.brk c)
  | 11 => zeroField w 0 20 (.wspill c)
  | 12 => zeroField w 0 20 (.wfill c)
  | 13 => zeroField w 0 20 (.binv c)
  | 14 => zeroField w 0 20 (.wfi c)
  | _ => none

/-- Major 0x2E, format CF (07 R254). -/
def decodeCf (c : Fin 230) (w : BitVec 32) : Option Instr :=
  let f (lsb n : Nat) : BitVec n := wordField w lsb n
  match wordNat w 20 2 with
  | 0 => zeroField w 0 15 (.dflush c (f 22 4) (f 15 5))
  | 1 => zeroField w 0 15 (.dinv c (f 22 4) (f 15 5))
  | 2 => zeroField w 0 15 (.iflush c (f 22 4) (f 15 5))
  | _ => none

/-- The instruction that a word is on core `c`; none for a word that raises illegal instruction by its encoding (07 R227, R229,
Table 7-1). -/
def decodeCore (c : Fin 230) (w : BitVec 32) : Option Instr :=
  match wordNat w 26 6 with
  | 0x00 => decodeAlu c w
  | 0x01 => decodeShift c w
  | 0x02 => decodeField c w
  | 0x0F => decodeMov c w
  | 0x10 | 0x11 => (decodeMem w).bind (decodeLoad c w)
  | 0x12 | 0x13 => (decodeMem w).bind (decodeStore c w)
  | 0x14 => decodeCapMem c w
  | 0x15 => decodeAtomic c w
  | 0x16 | 0x17 => decodeMulti c w
  | 0x18 => decodeCap c w
  | 0x19 => decodeGet c w
  | 0x1A => some (.cinci c (wordField w 22 4) (wordField w 18 4) (wordField w 0 18))
  | 0x1B => decodeCx c w
  | 0x1C => decodeBranch c w
  | 0x1D => decodeBranchZ c w
  | 0x1E => decodeJump c w
  | 0x1F => decodeJumpReg c w
  | 0x20 => decodeMul c w
  | 0x21 => decodeAcc c w
  | 0x22 => decodeMvac c w
  | 0x23 => decodeMacb c w
  | 0x28 => decodeDiv c w
  | 0x29 => decodeLong c w
  | 0x2C => decodeSys c w
  | 0x2D => decodeX c w
  | 0x2E => decodeCf c w
  | _ => decodeImm c w

end Sys2Proof
end

