-- ==== Sys2Proof/Machine/Arith.lean ====
section
/-! DEFINITION. Bit fields, sign extension, byte order, rounding, saturation and the check codes (00 R7, 03 R98, 04 R119). -/

namespace Sys2Proof.Machine
open Sys2Proof

/-- Bits [lsb + w - 1 : lsb] of a number (00 R7). -/
def bitsOf (n lsb w : Nat) : Nat := n / 2 ^ lsb % 2 ^ w

/-- One bit of a number. -/
def bitOf (n i : Nat) : Bool := n / 2 ^ i % 2 == 1

/-- Boolean as a bit. -/
def b2n (b : Bool) : Nat := if b then 1 else 0

/-- A number read as a two's-complement value of `w` bits. -/
def signed (w n : Nat) : Int := if n % 2 ^ w < 2 ^ (w - 1) then (n % 2 ^ w : Nat) else ((n % 2 ^ w : Nat) : Int) - (2 : Int) ^ w

/-- The low `w` bits of an integer, two's complement. -/
def unsigned (w : Nat) (i : Int) : Nat := (i % (2 : Int) ^ w).toNat

/-- The little-endian number of a list of bytes (00 R7). -/
def leNat : List Byte → Nat
  | [] => 0
  | b :: bs => b.toNat + 256 * leNat bs

/-- The `n` little-endian bytes of a number (00 R7). -/
def natLE : Nat → Nat → List Byte
  | 0, _ => []
  | n + 1, v => BitVec.ofNat 8 v :: natLE n (v / 256)

/-- `v` with the field of `w` bits at `lsb` replaced by the low bits of `x`. -/
def putBits (v : Word) (lsb w x : Nat) : Word :=
  let m : Word := BitVec.ofNat 64 ((2 ^ w - 1) * 2 ^ lsb)
  (v &&& ~~~m) ||| (BitVec.ofNat 64 (x * 2 ^ lsb) &&& m)

/-- The field of `w` bits at `lsb` of a register word. -/
def getBits (v : Word) (lsb w : Nat) : Nat := bitsOf v.toNat lsb w

/-- Least of a range, greatest of a range (saturation of an integer). -/
def clampI (lo hi x : Int) : Int := if x < lo then lo else if hi < x then hi else x

/-- Saturation of an integer to `w` bits, two's complement (04 R119). -/
def satI (w : Nat) (x : Int) : Int := clampI (-(2 : Int) ^ (w - 1)) ((2 : Int) ^ (w - 1) - 1) x

/-- rnd (03 R98): the nearest integer to num/den, a tie going away from zero; den is positive. -/
def rndDiv (num : Int) (den : Nat) : Int :=
  if 0 ≤ num then (2 * num + den) / (2 * den) else -((2 * -num + den) / (2 * den))

/-- rnd of a number divided by a power of two. -/
def rnd (x : Int) (sh : Nat) : Int := rndDiv x (2 ^ sh)

/-- The nearest integer to num/2^sh, a tie going to the even one (07 R248). -/
def rndEven (x : Int) (sh : Nat) : Int :=
  let q := x / (2 : Int) ^ sh
  let r := x - q * (2 : Int) ^ sh
  if 2 * r < (2 : Int) ^ sh then q else if (2 : Int) ^ sh < 2 * r then q + 1 else if q % 2 = 0 then q else q + 1

/-- Quotient rounded up. -/
def cdiv (a b : Nat) : Nat := (a + b - 1) / b

/-- Floor of the square root, bit by bit from bit `n - 1` down (07 R250). -/
def isqrtGo : Nat → Nat → Nat → Nat
  | 0, _, r => r
  | n + 1, x, r => let r' := r + 2 ^ n; if r' * r' ≤ x then isqrtGo n x r' else isqrtGo n x r

/-- Floor of the square root of a 64-bit number. -/
def isqrt (x : Nat) : Nat := isqrtGo 32 x 0

/-- The number of one bits among the low `n` bits. -/
def popCount : Nat → Nat → Nat
  | 0, _ => 0
  | n + 1, x => x % 2 + popCount n (x / 2)

/-- The number of zero bits above the highest one bit among the low `n` bits. -/
def leadZeros : Nat → Nat → Nat
  | 0, _ => 0
  | n + 1, x => if bitOf x n then 0 else 1 + leadZeros n x

/-- The numbers below `n` in rising order. -/
def upTo (n : Nat) : List Nat := List.range n

/-- The set bits of a number below `n`, lowest first. -/
def setBits (n x : Nat) : List Nat := (upTo n).filter (bitOf x)

/-- One step of a reflected CRC over eight bits of the register. -/
def crcBits (poly : Nat) : Nat → Nat → Nat
  | 0, c => c
  | n + 1, c => crcBits poly n (if c % 2 = 1 then (c / 2) ^^^ poly else c / 2)

/-- CRC-32C (01 R13, 05 R176): reflected, polynomial 0x82F63B78, all ones before and after. -/
def crc32c (bs : List Byte) : Nat :=
  (bs.foldl (fun c b => crcBits 0x82F63B78 8 (c ^^^ b.toNat)) 0xFFFFFFFF) ^^^ 0xFFFFFFFF

/-- One byte of the CRC-16-CCITT, most significant bit first. -/
def crc16Bits : Nat → Nat → Nat
  | 0, c => c
  | n + 1, c => crc16Bits n (if c ≥ 0x8000 then ((c * 2) ^^^ 0x1021) % 65536 else c * 2 % 65536)

/-- CRC-16-CCITT over bytes from a given start value. -/
def crc16 (start : Nat) (bs : List Byte) : Nat :=
  bs.foldl (fun c b => crc16Bits 8 (c ^^^ (b.toNat * 256))) start

end Sys2Proof.Machine
end

