-- ==== Sys2Proof/Machine/Mem.lean ====
section
/-! DEFINITION. Sparse stores in one canonical form: keys strictly rising, and no entry equal to what an unlisted key
reads as. Memory, registers and every per-unit table of the State are held so. -/

namespace Sys2Proof.Machine
open Sys2Proof

variable {α : Type}

/-- The value at a key; an unlisted key reads as `dflt key`. -/
def SMap.get (dflt : Nat → α) : SMap α → Nat → α
  | [], k => dflt k
  | (j, v) :: m, k => if j = k then v else SMap.get dflt m k

/-- The store without its entry at a key. -/
def SMap.erase : SMap α → Nat → SMap α
  | [], _ => []
  | (j, v) :: m, k => if j = k then SMap.erase m k else (j, v) :: SMap.erase m k

/-- An entry put before the first greater key. -/
def SMap.insert : SMap α → Nat → α → SMap α
  | [], k, v => [(k, v)]
  | (j, w) :: m, k, v => if k < j then (k, v) :: (j, w) :: m else (j, w) :: SMap.insert m k v

/-- A write: the entry is replaced, or removed where the new value is what an unlisted key reads as. -/
def SMap.set [DecidableEq α] (dflt : Nat → α) (m : SMap α) (k : Nat) (v : α) : SMap α :=
  if v = dflt k then SMap.erase m k else SMap.insert (SMap.erase m k) k v

/-- Every key of the store lies above `b`, rising, and no entry is a default. -/
def SMap.wfFrom [DecidableEq α] (dflt : Nat → α) : Nat → SMap α → Bool
  | _, [] => true
  | b, (k, v) :: m => decide (b ≤ k) && decide (v ≠ dflt k) && SMap.wfFrom dflt (k + 1) m

/-- The canonical form. -/
def SMap.wf [DecidableEq α] (dflt : Nat → α) (m : SMap α) : Bool := SMap.wfFrom dflt 0 m

/-- A set of numbers as a strictly rising list: membership. -/
def nsMem (m : List Nat) (k : Nat) : Bool := m.contains k

/-- A set of numbers: insertion in order, once. -/
def nsAdd : List Nat → Nat → List Nat
  | [], k => [k]
  | j :: m, k => if k < j then k :: j :: m else if k = j then j :: m else j :: nsAdd m k

/-- A set of numbers: removal. -/
def nsDel (m : List Nat) (k : Nat) : List Nat := m.filter (fun j => j ≠ k)

/-- A set of numbers is strictly rising from `b`. -/
def nsWfFrom : Nat → List Nat → Bool
  | _, [] => true
  | b, k :: m => decide (b ≤ k) && nsWfFrom (k + 1) m

/-- A set of numbers is strictly rising. -/
def nsWf (m : List Nat) : Bool := nsWfFrom 0 m

/-- What a byte of memory that nothing has written reads as. DRAM not yet marked in the initialisation map reads as zeros
(10 R324); for the on-die memories the value is a DESIGN CHOICE (assumption 2). -/
def memDefault (_ : Nat) : Byte := 0

/-- One byte of memory at a package physical address. -/
def memRead (m : SMap Byte) (a : Nat) : Byte := SMap.get memDefault m a

/-- One byte of memory replaced. -/
def memWrite (m : SMap Byte) (a : Nat) (b : Byte) : SMap Byte := SMap.set memDefault m a b

/-- The canonical form of memory. -/
def Memory.wf (m : SMap Byte) : Bool := SMap.wf memDefault m

/-- `n` bytes from an address up. -/
def memReadN (m : SMap Byte) : Nat → Nat → List Byte
  | _, 0 => []
  | a, n + 1 => memRead m a :: memReadN m (a + 1) n

/-- A list of bytes written from an address up. -/
def memWriteN (m : SMap Byte) : Nat → List Byte → SMap Byte
  | _, [] => m
  | a, b :: bs => memWriteN (memWrite m a b) (a + 1) bs

/-- Every listed byte of [a, a + n) removed: zeros written (used where whole regions are zeroed). -/
def memZero (m : SMap Byte) (a n : Nat) : SMap Byte := m.filter (fun c => c.1 < a || a + n ≤ c.1)

end Sys2Proof.Machine
end

