-- ==== Sys2Proof/Machine/Layout.lean ====
section
/-! DEFINITION. The package physical map, the layout of each die's space, master IDs, target gates and the DRAM mapping
(01 R25-R35, 09 R301, 10 R312-R315). -/

namespace Sys2Proof.Machine
open Sys2Proof

/-- The base of a die's space by package die index: hubs 0 and 1, lattice dies 2-7 (01 Table 1-11). -/
def dieBase (d : Nat) : Nat :=
  if d = 0 then 0xE0000000000 else if d = 1 then 0xE8000000000 else 0xC0000000000 + (d - 2) * 0x1000000000

/-- Where a package physical address lies (01 Tables 1-11 to 1-13, 04 R122). Offsets are within the named part. -/
inductive Loc where
  | dram (a : Nat)
  | window (d off : Nat)
  | mirror (d off : Nat)
  | clSram (d k off : Nat)
  | pairHalf (d k half off : Nat)
  | staging (d k off : Nat)
  | clRegs (d k off : Nat)
  | spSram (d p off : Nat)
  | spRegs (d p off : Nat)
  | dieRegs (d b off : Nat)
  | bootRom (d off : Nat)
  | hubSram (d off : Nat)
  | egress (d off : Nat)
  | hubRegs (d b off : Nat)
  | unmapped
deriving DecidableEq, Repr

/-- The part of a 16 MiB cluster window that an offset names (01 R33; the staging area, 04 R122). -/
def clusterLoc (d k off : Nat) : Loc :=
  if off < 0x80000 then .clSram d k off
  else if 0x100000 ≤ off ∧ off < 0x180000 then .pairHalf d k 0 (off - 0x100000)
  else if 0x180000 ≤ off ∧ off < 0x200000 then .pairHalf d k 1 (off - 0x180000)
  else if 0x200000 ≤ off ∧ off < 0x202000 then .staging d k (off - 0x200000)
  else if 0xF00000 ≤ off then .clRegs d k (off - 0xF00000)
  else .unmapped

/-- The part of a 16 MiB stream-pair window that an offset names (01 R33). -/
def pairLoc (d p off : Nat) : Loc :=
  if off < 0x80000 then .spSram d p off
  else if 0xF00000 ≤ off then .spRegs d p (off - 0xF00000)
  else .unmapped

/-- A lattice die's space (01 Table 1-12). Die register blocks are 0-10 (09 Table 9-5). -/
def latticeLoc (d off : Nat) : Loc :=
  if off < 0x6000000 then .window d off
  else if 0x10000000 ≤ off ∧ off < 0x11200000 then .mirror d (off - 0x10000000)
  else if 0x100000000 ≤ off ∧ off < 0x100000000 + 25 * 0x1000000 then
    clusterLoc d ((off - 0x100000000) / 0x1000000) (off % 0x1000000)
  else if 0x200000000 ≤ off ∧ off < 0x200000000 + 6 * 0x1000000 then
    pairLoc d ((off - 0x200000000) / 0x1000000) (off % 0x1000000)
  else if 0xF00000000 ≤ off ∧ off < 0xF00000000 + 11 * 0x10000 then
    .dieRegs d ((off - 0xF00000000) / 0x10000) (off % 0x10000)
  else .unmapped

/-- The offsets of the egress space that hold something: the words and completion words of the four slots, the output map, the
registers (04 Table 4-4). -/
def egressMapped (off : Nat) : Bool := off < 0x242000 || (0x300000 ≤ off && off < 0x340000) || 0x3F0000 ≤ off

/-- A hub's space (01 Table 1-13). -/
def hubLoc (d off : Nat) : Loc :=
  if off < 0x40000 then .bootRom d off
  else if 0x1000000 ≤ off ∧ off < 0x1400000 then .hubSram d (off - 0x1000000)
  else if 0x10000000 ≤ off ∧ off < 0x10400000 ∧ egressMapped (off - 0x10000000) = true then .egress d (off - 0x10000000)
  else if 0x100000000 ≤ off ∧ off < 0x100000000 + 17 * 0x10000 then
    .hubRegs d ((off - 0x100000000) / 0x10000) (off % 0x10000)
  else .unmapped

/-- A package physical address decoded; `usable` is C - C/128 (01 R29, R30). -/
def locate (usable a : Nat) : Loc :=
  if a < 0x40000000000 then (if a < usable then .dram a else .unmapped)
  else if 0xC0000000000 ≤ a ∧ a < 0xC6000000000 then
    latticeLoc (2 + (a - 0xC0000000000) / 0x1000000000) (a % 0x1000000000)
  else if 0xE0000000000 ≤ a ∧ a < 0xE8000000000 then hubLoc 0 (a - 0xE0000000000)
  else if 0xE8000000000 ≤ a ∧ a < 0xF0000000000 then hubLoc 1 (a - 0xE8000000000)
  else .unmapped

/-- The self alias replaced by the issuer's own die space (01 R31); the issuer's die is bits [15:13] of its master ID. A
lattice-die offset at or above 0x10_0000_0000 is unmapped (answered as an address in an unmapped range). -/
def selfAlias (master a : Nat) : Nat :=
  if 0xF0000000000 ≤ a ∧ a < 0xF8000000000 then
    let d := bitsOf master 13 3
    let off := a - 0xF0000000000
    if d < 2 then dieBase d + off else if off < 0x1000000000 then dieBase d + off else 0xF8000000000
  else a

/-- A master ID (01 Table 1-8). -/
def mid (die unit kind sub : Nat) : Nat := die * 0x2000 + unit * 0x100 + kind * 0x40 + sub

/-- The die of a core by its core index (11 R330): hub core HCi of hub Hh is 4h + i, and index 8 + 37n + j is core j of
lattice die Ln. -/
def coreDie (c : Nat) : Nat := if c < 8 then c / 4 else 2 + (c - 8) / 37

/-- The number of a core within its die, as GCTL.REPORT names it (09 Table 9-7, 11 R330). -/
def coreLocal (c : Nat) : Nat := if c < 8 then c % 4 else (c - 8) % 37

/-- The core index of the core of a die with a given GCTL.REPORT number (11 R330). -/
def coreOf (d r : Nat) : Nat := if d < 2 then 4 * d + r else 8 + 37 * (d - 2) + r

/-- A core's kind (06 Table 6-1, Table 6-14): 0 cluster, 1 comet, 2 stream, 3 hub. -/
def coreKind (c : Nat) : Nat :=
  if c < 8 then 3 else if coreLocal c < 24 then 0 else if coreLocal c = 24 then 1 else 2

/-- A core's master ID (01 Table 1-10). -/
def coreMid (c : Nat) : Nat :=
  let r := coreLocal c
  if coreKind c = 2 then mid (coreDie c) (25 + (r - 25) / 2) 0 ((r - 25) % 2) else mid (coreDie c) r 0 0

/-- The master ID of a core's walker (01 Table 1-10). -/
def walkerMid (c : Nat) : Nat := coreMid c + 0x80

/-- A core's fixed monitor area, 2 KiB (06 Table 6-1). -/
def coreFixedArea (c : Nat) : Nat :=
  let d := coreDie c
  let r := coreLocal c
  if coreKind c = 3 then dieBase d + 0x13FE000 + 0x800 * r
  else if coreKind c = 2 then dieBase d + 0x200000000 + (r - 25) / 2 * 0x1000000 + 0x7F000 + 0x800 * ((r - 25) % 2)
  else dieBase d + 0x100000000 + r * 0x1000000 + 0x7F800

/-- Package addresses of the register areas. -/
def clRegBase (d k : Nat) : Nat := dieBase d + 0x100000000 + k * 0x1000000 + 0xF00000
def spRegBase (d p : Nat) : Nat := dieBase d + 0x200000000 + p * 0x1000000 + 0xF00000
def dieReg (d b : Nat) : Nat := dieBase d + 0xF00000000 + b * 0x10000
def hubReg (h b : Nat) : Nat := dieBase h + 0x100000000 + b * 0x10000

/-- The base of the target-gate register block of a die or hub, and of one gate in it (09 R301). -/
def gateBlock (d : Nat) : Nat := if d < 2 then hubReg d 16 else dieReg d 8
def gateReg (d g : Nat) : Nat := gateBlock d + 0x200 * g

/-- The base of the counter block of a die or hub (17 R480). -/
def counterBlock (d : Nat) : Nat := if d < 2 then hubReg d 14 else dieReg d 9

/-- How the memory is populated and strapped (10 R310, R312): raw capacity, mirrored mode, interleave code. -/
structure MemShape where
  raw : Nat
  mirrored : Bool
  ilv : Nat
  rate6400 : Bool
  dpc2 : Bool
  msize : Nat
deriving DecidableEq, Repr

/-- The logical capacity C (01 R30, 10 R313). -/
def MemShape.cap (m : MemShape) : Nat := if m.mirrored then m.raw / 2 else m.raw

/-- The usable capacity C - C/128 (01 R30). -/
def MemShape.usable (m : MemShape) : Nat := m.cap - m.cap / 128

/-- The granule exponent g (10 R312). -/
def MemShape.gran (m : MemShape) : Nat :=
  if m.ilv = 0 then 8 else if m.ilv = 1 then 12 else if m.ilv = 2 then 21 else 30

/-- The channel pair of an address (10 R314). -/
def MemShape.pair (m : MemShape) (a : Nat) : Nat := (bitsOf a m.gran 2) ^^^ (bitsOf a 37 2)

/-- The home hub of an address by its mapping (10 R314). -/
def MemShape.home (m : MemShape) (a : Nat) : Nat := (bitsOf a (max (m.gran + 2) 13) 1) ^^^ (bitsOf a 36 1)

/-- The channel offset of an address (10 R314). -/
def MemShape.chanOff (m : MemShape) (a : Nat) : Nat :=
  let g := m.gran
  let hb := max (g + 2) 13
  let del2 := a / 2 ^ (g + 2) * 2 ^ g + a % 2 ^ g
  if m.mirrored then del2 else del2 / 2 ^ (hb - 1) * 2 ^ (hb - 2) + del2 % 2 ^ (hb - 2)

/-- The address of the byte that holds the tag of the granule at `a` (08 R271). -/
def MemShape.tagByte (m : MemShape) (a : Nat) : Nat := m.usable + a / 128

/-- The gate in front of a place: the die or hub that holds it and the gate's number (09 Tables 9-5, 9-6). `home` is the
hub that serves a DRAM address. -/
def gateOf (m : MemShape) (home : Nat → Nat) : Loc → Option (Nat × Nat)
  | .dram a => some (home a, m.pair a)
  | .window d _ => some (d, 0)
  | .mirror d _ => some (d, 1)
  | .clSram d k _ => some (d, 2 + 3 * k)
  | .pairHalf d k _ _ => some (d, 3 + 3 * k)
  | .staging d k _ => some (d, 3 + 3 * k)
  | .clRegs d k _ => some (d, 4 + 3 * k)
  | .spSram d p _ => some (d, 77 + 2 * p)
  | .spRegs d p _ => some (d, 78 + 2 * p)
  | .dieRegs d b _ => some (d, 89 + b)
  | .bootRom h _ => some (h, 4)
  | .hubSram h _ => some (h, 5)
  | .egress h _ => some (h, 6)
  | .hubRegs h b _ => some (h, 7 + b)
  | .unmapped => none

/-- Memories that hold tags (08 Table 8-5). -/
def Loc.tagged : Loc → Bool
  | .dram _ | .clSram _ _ _ | .spSram _ _ _ | .hubSram _ _ => true
  | _ => false

/-- A register block rather than a memory. -/
def Loc.isReg : Loc → Bool
  | .clRegs _ _ _ | .spRegs _ _ _ | .dieRegs _ _ _ | .hubRegs _ _ _ => true
  | _ => false

/-- The capability registers: SRC and DST of a DMA channel (08 Table 8-5, 11 Table 11-6). -/
def Loc.capReg : Loc → Bool
  | .dieRegs _ b off => decide (b < 2) && decide (off < 0x8000) && decide (off % 0x200 < 0x20)
  | .hubRegs _ b off => b == 5 && decide (off < 0x8000) && decide (off % 0x200 < 0x20)
  | _ => false

end Sys2Proof.Machine
end

