-- ==== Sys2Proof/Machine/Regs.lean ====
section
/-! DEFINITION. The register maps: the fields of every memory-mapped register with access code and reset value (00 R10,
R11), register reset values, and what a write stores. -/

namespace Sys2Proof.Machine
open Sys2Proof

/-- Access codes (00 Table 0-4). `const` registers are `ro` ones whose reset is the constant. -/
inductive Acc where
  | ro | rw | w1c | wo | rc
deriving DecidableEq, Repr

/-- A field: lowest bit, width, access, reset value, and which written values are defined encodings (00 R11). -/
structure FieldDef where
  lsb : Nat
  w : Nat
  acc : Acc
  reset : Nat
  ok : Nat → Bool

def anyVal (_ : Nat) : Bool := true
def fRO (lsb w : Nat) (reset : Nat := 0) : FieldDef := ⟨lsb, w, .ro, reset, anyVal⟩
def fRW (lsb w : Nat) (reset : Nat := 0) (ok : Nat → Bool := anyVal) : FieldDef := ⟨lsb, w, .rw, reset, ok⟩
def fW1C (lsb w : Nat) : FieldDef := ⟨lsb, w, .w1c, 0, anyVal⟩
def fWO (lsb w : Nat) : FieldDef := ⟨lsb, w, .wo, 0, anyVal⟩
def fRC (lsb w : Nat) : FieldDef := ⟨lsb, w, .rc, 0, anyVal⟩

/-- A binary32 parameter's legal encodings (04 R125): +0 and the positive normal numbers. -/
def f32ok (v : Nat) : Bool := v == 0 || (0x00800000 ≤ v && v < 0x7F800000)

/-- The slot parameter block (04 Table 4-6), by word. -/
def slotFields (j : Nat) : List FieldDef :=
  if j = 0 then [fRW 0 1 1, fRO 1 11, fRW 12 4, fRW 16 1, fRW 17 1, fRW 18 1, fRW 19 1 1, fRW 20 3, fRW 23 1, fRW 24 3,
    fRO 27 1, fRO 28 4]
  else if j = 1 then [fRW 0 24 0x100000]
  else if j = 2 then [fRW 0 18, fRW 32 12]
  else if j = 3 then [fRW 0 32 0x3F800000 f32ok, fRW 32 32 0x3F7FF972 f32ok]
  else if j = 4 then [fRW 0 32 0 f32ok, fRW 32 32 0 f32ok]
  else if j = 5 then [fRW 0 32 0 f32ok, fRW 32 32 0x42C80000 f32ok]
  else if j = 6 then [fRW 0 32 0x40A00000 f32ok, fRW 32 32 0x3F000000 f32ok]
  else if j = 7 then [fRW 0 32 0x3F7EB852 f32ok, fRW 32 32 0x3F8020C5 f32ok]
  else if j = 8 then [fRO 0 32, fRO 32 32 0x3F800000]
  else if j = 9 then [fRO 0 32]
  else []

/-- Cluster registers (03 Table 3-8, 04 Tables 4-5, 4-6, R149); the comet's also 15 Table 15-4. -/
def clusterFields (k off : Nat) : List FieldDef :=
  if off = 0x00 then [fRO 0 1, fRO 1 2, fRO 3 1, fRO 16 17, fRO 33 17]
  else if off = 0x08 then [fWO 0 1, fWO 1 1]
  else if off = 0x10 then [fRO 0 16, fRO 16 3]
  else if off = 0x18 then [fW1C 0 7]
  else if off = 0x20 then [fRO 0 16, fRO 32 16]
  else if off = 0x28 then [fRO 0 6, fRO 32 16]
  else if off = 0x30 then [fRO 0 47, fRO 63 1]
  else if off = 0x38 then [fRO 0 20]
  else if off = 0x40 then [fRW 0 6]
  else if off = 0x48 then [fW1C 0 6]
  else if off = 0x1000 then [fRW 0 1]
  else if off = 0x1008 then [fWO 0 6, fWO 6 11, fWO 17 1]
  else if off = 0x1010 then [fRO 0 1, fRO 1 6]
  else if off = 0x1018 then [fW1C 0 4, fRO 8 6]
  else if off = 0x1020 then [fRO 0 20, fRO 20 20]
  else if 0x1100 ≤ off ∧ off < 0x1140 then [fRO 0 11, fRO 11 1, fRO 12 17]
  else if 0x2000 ≤ off ∧ off < 0x4000 then slotFields ((off - 0x2000) % 0x80 / 8)
  else if 0x4000 ≤ off ∧ off < 0x6000 then
    if off % 0x20 = 0 then [fRW 0 32 0x10000000, fRW 32 32]
    else if off % 0x20 = 8 then [fRW 0 32, fRW 32 32]
    else if off % 0x20 = 16 then [fRW 0 32] else []
  else if k ≠ 24 then []
  else if off = 0x8000 then [fRO 0 2 2, fRO 2 5, fRO 7 1, fRO 8 5]
  else if off = 0x8008 then [fWO 0 5, fWO 5 1, fWO 6 1]
  else if off = 0x8010 then [fW1C 0 4]
  else if off = 0x8018 then [fRO 0 5, fRO 8 40, fW1C 63 1]
  else if off = 0x8020 then [fRC 0 32, fRC 32 32]
  else if 0x8100 ≤ off ∧ off < 0x81C0 then [fRW 0 13, fRW 16 13, fRW 63 1]
  else []

/-- Stream-pair registers (05 Table 5-12). -/
def pairFields (off : Nat) : List FieldDef :=
  if off = 0 ∨ off = 8 then [fWO 0 32, fWO 32 11]
  else if off = 16 then [fW1C 0 5]
  else if off = 24 then [fRO 0 11, fRO 32 16]
  else []

/-- Tide generator block 6 of a hub (02 Table 2-4, R61; 15 Table 15-8). -/
def tideFields (h off : Nat) : List FieldDef :=
  if off = 0 then [fRO 0 2, fRO 2 1 (1 - h), fRO 3 1, fRO 16 16, fW1C 32 1, fW1C 33 1, fW1C 34 1]
  else if off = 8 then [fRO 0 56, fRO 63 1]
  else if off = 16 then [fRO 0 16, fRO 16 16]
  else if 0x400 ≤ off ∧ off < 0x600 then [fW1C 0 8]
  else if 0x600 ≤ off ∧ off < 0x800 then [fRO 0 63, fRO 63 1]
  else []

/-- Gauge and shedding block 7 of a lattice die (02 Table 2-6). -/
def gaugeFields (off : Nat) : List FieldDef :=
  if off = 0 then [fRO 0 16, fRO 16 16, fRO 32 16, fRO 48 5]
  else if off = 8 then [fRW 0 1 1, fRW 1 5 0 (fun v => v ≤ 16)]
  else if off = 16 then [fW1C 0 5]
  else if 0x100 ≤ off ∧ off ≤ 0x180 then [fRO 0 16]
  else []

/-- GCTL.REPORT names a core of the block's die (09 Table 9-7). -/
def reportOk (d v : Nat) : Bool := if d < 2 then v ≤ 3 else v ≤ 36

/-- Target-gate block (09 Tables 9-7, 9-8). -/
def gateFields (d off : Nat) : List FieldDef :=
  if 0xF000 ≤ off then
    if off < 0xF080 then [fRW 0 9 0 (fun v => v ≤ 256), fRW 12 32, fRW 63 1]
    else if off = 0xF080 then [fWO 0 16]
    else if off = 0xF100 ∨ off = 0xF108 then [fRO 0 44]
    else if off = 0xF110 then [fRO 0 16, fRO 16 4, fRO 20 4, fW1C 63 1]
    else []
  else if (if d < 2 then 24 else 100) ≤ off / 0x200 then []
  else
    let o := off % 0x200
    if o = 0 then [fRW 0 1, fRW 1 6 0 (reportOk d)]
    else if o = 8 then [fW1C 0 1]
    else if o = 16 then [fRO 0 44]
    else if o = 24 then [fRO 0 16, fRO 16 4, fRO 20 2, fRO 22 3, fRO 25 5, fW1C 63 1]
    else if o = 32 then [fRO 0 32, fRO 32 1]
    else if o < 0x80 then []
    else
      let j := (o - 0x80) % 0x18
      if j = 0 then [fRW 0 1, fRW 1 1, fRW 2 1, fRW 3 1, fRW 4 1, fRW 5 1, fRW 8 8,
        fRW 16 6 11 (fun v => 11 ≤ v && v ≤ 44), fRW 32 16]
      else if j = 8 then [fRW 0 44]
      else [fRW 0 16, fRW 16 16]

/-- Memory-controller block (10 Table 10-4). -/
def mcFields (off : Nat) : List FieldDef :=
  if off = 0 then [fRO 0 1 1, fRO 1 2, fRO 3 1, fRO 4 1 1, fRO 5 4 8, fRO 9 1]
  else if off = 8 then [fRO 0 2, fRO 2 1]
  else if off = 0x10 then [fW1C 0 7]
  else if off = 0x18 then [fRO 0 44, fRO 48 4, fRO 52 1, fRO 53 1, fRO 54 2, fW1C 63 1]
  else if off = 0x20 then [fRC 0 32, fRC 32 32]
  else if off = 0x28 then [fRO 0 44, fRO 48 16]
  else if off = 0x30 then [fRO 0 9]
  else if 0x100 ≤ off ∧ off < 0x900 then [fRO 0 44, fRO 63 1]
  else []

/-- Queue-engine block 4 (11 Table 11-3). -/
def queueFields (off : Nat) : List FieldDef :=
  if off = 0 then [fWO 0 64]
  else if off = 0x1000 then [fWO 0 14, fWO 14 4, fWO 18 2]
  else if off = 0x1008 then [fRO 0 1, fRO 1 3]
  else if off = 0x1010 then [fRW 24 20]
  else if off = 0x1018 then [fW1C 0 2]
  else if off = 0x1020 then [fRO 0 14, fRO 14 4, fRO 18 2, fRO 20 3, fW1C 63 1]
  else if off = 0x1028 then [fRC 0 32]
  else if 0x2000 ≤ off ∧ off < 0x2000 + 8 * 230 then [fRW 0 14, fRW 15 1]
  else []

/-- REQSEL names a line of 11 Table 11-6 that an engine of die or hub `d` has. -/
def reqselOk (d r : Nat) : Bool :=
  let k := r / 512
  let n := r % 512
  (k == 0 && n == 0) || (k == 1 && n ≤ 2) || ((k == 2 || k == 3) && d < 2) || (k == 4 && n == 0)

/-- DMA-engine block (11 Tables 11-8, 11-9); `nch` channels. -/
def dmaFields (d nch off : Nat) : List FieldDef :=
  if off = 0x8000 then [fW1C 0 nch]
  else if off = 0x8008 then [fW1C 0 2]
  else if off = 0x8010 then [fRO 0 6, fRO 8 8, fRO 16 40, fW1C 63 1]
  else if nch ≤ off / 0x200 then []
  else
    let o := off % 0x200
    if o < 0x40 then [fRW 0 64]
    else if o < 0x80 then [fRO 0 64]
    else if o = 0x80 then [fRO 0 40]
    else if o = 0x88 then [fRO 0 32]
    else if o = 0x100 then [fRW 0 1, fRW 1 2 1 (fun v => v ≤ 2), fRW 3 1, fRW 4 14, fRW 18 4, fRW 22 14, fRW 36 4,
      fRW 40 1, fRW 41 12 0 (reqselOk d), fRW 53 6 0 (reportOk d)]
    else if o = 0x108 then [fWO 0 1, fWO 1 1]
    else if o = 0x110 then [fRO 0 2, fRO 2 1, fW1C 3 1, fW1C 4 1, fW1C 5 1, fRO 8 8]
    else []

/-- Media-port blocks 7 and 8 (12 Tables 12-1 to 12-3, 12-5 to 12-9); `p` is the port number MPp. Words of tables shared by
the whole hub are in block 7 or in block 8 only. -/
def portFields (p off : Nat) : List FieldDef :=
  if off = 0x00 then [fRW 0 1, fRW 1 1, fRW 2 1, fRW 3 1, fRW 4 1 1]
  else if off = 0x08 then [fRW 0 48 p]
  else if off = 0x10 then [fRW 0 32, fRW 32 6 0 (fun v => v ≤ 32)]
  else if off = 0x18 then [fRW 0 32]
  else if off = 0x20 then [fRO 0 1, fRO 1 1, fRO 2 1, fRO 3 3]
  else if off = 0x28 then [fW1C 0 4]
  else if off = 0x30 then [fRC 0 32, fRC 32 32]
  else if off = 0x38 then [fRC 0 32, fRC 32 32]
  else if off = 0x40 then [fRC 0 32, fRC 32 32]
  else if off = 0x48 then [fRW 0 32, fRW 32 32]
  else if p % 2 = 0 then
    if off = 0x1000 then [fRW 0 1, fRW 1 8 0 (fun v => v ≤ 127)]
    else if off = 0x1008 then [fRO 0 1, fRO 1 2]
    else if off = 0x1010 then [fRO 0 64]
    else if off = 0x1018 then [fRO 0 32, fRO 32 32]
    else if off = 0x1020 then [fRW 0 1, fRW 1 1]
    else if off = 0x1028 then [fRO 0 30, fRO 32 31, fW1C 63 1]
    else if 0x2000 ≤ off ∧ off < 0x6000 then
      let o := off % 32
      if o = 0 then [fRW 0 1, fRW 1 1, fRW 2 1, fRW 3 2, fRW 5 6, fRW 11 2 0 (fun v => v ≤ 2),
        fRW 13 2 0 (fun v => v ≤ 2), fRW 15 9 0 (fun v => v ≤ 320), fRW 24 7 96 (fun v => 96 ≤ v)]
      else if o = 24 then [fRW 0 22] else [fRW 0 64]
    else if 0x6000 ≤ off ∧ off < 0x8000 then [fRW 0 9, fRW 9 6, fRW 15 2, fRW 32 9, fRW 41 6, fRW 47 2]
    else if 0x8000 ≤ off ∧ off < 0xA000 then
      if off % 16 = 0 then [fRO 0 1, fW1C 1 7, fRC 32 32] else [fRC 0 32, fRC 32 32]
    else []
  else
    if 0x2000 ≤ off ∧ off < 0xA000 then
      let o := off % 32
      if o = 0 then [fRW 0 1, fRW 1 1, fRW 2 1, fRW 3 2, fRW 5 6, fRW 11 2 0 (fun v => v ≤ 2),
        fRW 13 2 0 (fun v => v ≤ 2), fRW 15 3, fRW 18 6 34, fRW 24 12 0 (fun v => v < 4095), fRW 36 7 96]
      else if o = 24 then [fRW 0 48] else [fRW 0 64]
    else if 0xA000 ≤ off ∧ off < 0xC000 then [fRC 0 32, fW1C 32 1, fW1C 33 1]
    else []

/-- CXL-port block 9 (13 Table 13-6). -/
def cxlFields (off : Nat) : List FieldDef :=
  if off = 0 then [fRO 0 1, fRO 1 4, fRO 5 2, fRO 7 1]
  else if off = 8 then [fW1C 0 8]
  else if off = 0x10 then [fRO 0 52, fRO 52 4, fRO 56 3, fW1C 63 1]
  else if off = 0x18 then [fRC 0 32, fRC 32 32]
  else if 0x100 ≤ off ∧ off < 0x180 then [fRO 0 1, fRO 1 2, fRO 3 1, fRO 4 7, fRO 11 15, fRO 26 2]
  else []

/-- CAN-controller block 10 (14 Table 14-9). -/
def canFields (h off : Nat) : List FieldDef :=
  if off = 0 then [fRO 0 7, fRO 7 2, fRO 9 1 (1 - h), fRO 10 2, fRO 12 1]
  else if off = 8 then [fW1C 0 4]
  else if off = 0x10 then [fRO 0 8, fRO 8 8, fRC 32 32]
  else []

/-- OTP block 11 (16 Table 16-3). The reset values are those of unburned fuses (assumption 6). -/
def otpFields (off : Nat) : List FieldDef :=
  if off = 0 then [fRO 0 2, fRO 2 1]
  else if off = 8 then [fRO 0 4, fRO 4 4 15, fRO 8 4]
  else if off = 0x10 ∨ off = 0x18 then [fRO 0 64]
  else if off = 0x20 then [fRO 0 48]
  else if 0x100 ≤ off ∧ off < 0x280 then [fRO 0 64]
  else []

/-- Counter block (17 Tables 17-2, 17-4, 17-6, 17-7, 17-10, R495). -/
def counterFields (d off : Nat) : List FieldDef :=
  let units := if d < 2 then 24 else 43
  if off < 0x8000 then
    if units ≤ off / 0x100 then []
    else
      let o := off % 0x40
      if o = 0 then [fRW 0 1, fRW 1 1, fRW 2 8, fRW 10 4 15, fRW 14 1, fRW 15 1, fRW 16 1]
      else if o = 8 then [fRW 0 16, fRW 16 16]
      else if o = 0x10 ∨ o = 0x18 then [fRW 0 44]
      else if o = 0x20 then [fRW 0 48, fW1C 48 1]
      else []
  else if off < 0xA000 then
    if (if d < 2 then 14 else 2) ≤ (off - 0x8000) / 0x40 then []
    else
      let o := off % 0x40
      if o = 0 then [fRW 0 16, fRW 16 1]
      else if o = 8 ∨ o = 0x10 ∨ o = 0x20 ∨ o = 0x28 then [fRO 0 48]
      else if o = 0x18 then [fRO 0 32, fRO 32 1, fRO 33 1]
      else []
  else if off < 0xE000 then
    if (if d < 2 then 4 else 37) ≤ (off - 0xA000) / 0x40 then []
    else
      let o := off % 0x40
      if o = 0 then [fRW 0 1, fRW 1 1, fRW 2 5 16 (fun v => 8 ≤ v && v ≤ 24), fRW 7 3 7]
      else if o = 8 then [fRW 0 32 1 (fun v => v ≠ 0)]
      else if o = 0x10 then [fRO 0 44, fRO 44 4, fRO 48 2, fRO 50 1, fRO 51 1, fW1C 63 1]
      else if o = 0x18 then [fRO 0 60]
      else if o = 0x20 then [fRO 0 2, fRO 2 2, fRO 4 3, fRO 8 8]
      else if o = 0x28 then [fRC 0 32]
      else []
  else if off = 0xE000 then [fRW 0 1, fRW 1 1, fRW 2 6 0 (reportOk d)]
  else if off = 0xE008 then [fRO 0 64]
  else if 2 ≤ d then []
  else if off = 0xF000 then [fRW 0 1, fRW 1 1, fRW 2 16, fRW 18 8 1 (fun v => v ≠ 0)]
  else if off = 0xF008 then [fWO 0 1]
  else if off = 0xF010 then [fRW 6 38]
  else if 0xF020 ≤ off ∧ off < 0xF060 then [fRW 0 64]
  else if off = 0xF060 then [fRO 0 32, fRO 32 1, fW1C 33 1, fRO 34 1 (1 - d)]
  else if 0xF800 ≤ off ∧ off < 0xF880 ∧ d = 0 then [fRW 0 12, fRW 12 1, fRW 13 4]
  else []

/-- Egress registers and the output map, two 4-byte entries to the word (04 R140, Table 4-7). Whether OUT names an output
at the selected rate is checked where the write is made. -/
def egressFields (off : Nat) : List FieldDef :=
  if 0x300000 ≤ off ∧ off < 0x340000 then [fRW 0 14, fRW 14 1, fRW 32 14, fRW 46 1]
  else if off = 0x3F0000 then [fW1C 0 4]
  else if off = 0x3F0008 then [fRO 0 8, fRO 24 40]
  else if off = 0x3F0010 then [fRO 0 14, fRO 16 3, fRO 24 40]
  else if off = 0x3F0018 then [fRC 0 32, fRC 32 32]
  else []

/-- The fields of the register whose 8-byte word is at a place; a place that is no register, and a reserved offset, has
none, so it reads 0 and ignores writes (00 R11). -/
def regFields : Loc → List FieldDef
  | .clRegs _ k off => clusterFields k off
  | .spRegs _ _ off => pairFields off
  | .dieRegs d b off =>
    if b < 2 then dmaFields d 16 off else if b = 7 then gaugeFields off else if b = 8 then gateFields d off
    else if b = 9 then counterFields d off else []
  | .hubRegs h b off =>
    if b < 4 then mcFields off else if b = 4 then queueFields off else if b = 5 then dmaFields h 64 off
    else if b = 6 then tideFields h off else if b = 7 then portFields (2 * h) off
    else if b = 8 then portFields (2 * h + 1) off else if b = 9 then cxlFields off else if b = 10 then canFields h off
    else if b = 11 then otpFields off else if b = 14 then counterFields h off else if b = 16 then gateFields h off
    else []
  | .egress _ off => egressFields off
  | _ => []

/-- The reset value of the register word at a package address (00 R10). -/
def regReset (a : Nat) : Word :=
  (regFields (locate 0 a)).foldl (fun v f => putBits v f.lsb f.w f.reset) 0

/-- What a register holds after a write of `v` under a mask of the bits written (00 R10, R11). Bits outside the mask act
as the old value for RW fields and as 0 for W1C fields. -/
def regStore (fs : List FieldDef) (old v mask : Word) : Word :=
  fs.foldl (fun r f =>
    match f.acc with
    | .rw =>
      let x := getBits ((old &&& ~~~mask) ||| (v &&& mask)) f.lsb f.w
      if f.ok x then putBits r f.lsb f.w x else r
    | .w1c => putBits r f.lsb f.w (getBits (old &&& ~~~(v &&& mask)) f.lsb f.w)
    | _ => r) old

/-- What a register holds after a read: RC fields are cleared (00 R10). -/
def regAfterRead (fs : List FieldDef) (old : Word) : Word :=
  fs.foldl (fun r f => if f.acc = .rc then putBits r f.lsb f.w 0 else r) old

end Sys2Proof.Machine
end

