-- ==== Sys2Proof/Config.lean ====
section
/-! DEFINITION. What an implementation fixes and the values the spec leaves open. None of these has a body, so nothing
can evaluate them and every statement holds for every value. -/

namespace Sys2Proof

/-- A free 64-bit value: random draws, undefined registers and other values the spec does not state (assumption 1). The
argument is the state's counter `fresh`, so each use has a value of its own. -/
opaque Config.freeWord : Nat → BitVec 64

/-- The steps an access waits for a miss, the fabric or a full unit (02 R42, 06 R182; assumption 10). -/
opaque Config.stall : Nat → Nat

/-- Which of the four lines of a full cache set is replaced (06 R202; assumption 11). -/
opaque Config.victim : Nat → Fin 4

/-- Which of the eight lines of a full set of a tag cache is replaced (08 R276; assumption 78). -/
opaque Config.tagVictim : Nat → Fin 8

/-- The time of a command in nanoseconds within the sample period of the last tick (assumption 12). -/
opaque Config.subPeriodNs : Nat → Nat

/-- SHA-512 (16 R468, R473; the algorithm is a named standard, assumption 3). -/
opaque Config.sha512 : List Byte → BitVec 512

/-- HMAC-SHA-512 truncated to 256 bits, key then message (14 R425; assumption 3). -/
opaque Config.hmac : BitVec 256 → List Byte → BitVec 256

/-- Whether a signature by a public key over a message is a valid Ed25519 signature (14 R432, 16 R468; assumption 3). -/
opaque Config.edValid : BitVec 256 → List Byte → BitVec 512 → Bool

/-- The Ed25519 public key of a seed, and the signature by the key of a seed over a message (16 R474, R475; assumption 3). -/
opaque Config.edPublic : BitVec 256 → BitVec 256
opaque Config.edSign : BitVec 256 → List Byte → BitVec 512

/-- The unique secret of a part (16 R474; assumption 4). -/
opaque Config.secret : List Byte

/-- The bytes of the boot ROM's own image hash, the hardware revision and other constants of one part that the spec does
not give (assumption 4). -/
opaque Config.partConst : Nat → BitVec 64

/-- The text that SWVER shows for an image's VERSION (14 Table 14-10; assumption 4). -/
opaque Config.swver : Nat → List Byte

/-- The level of a line or a pulse that the state does not hold: by observation point, or 4096 + n for a ball that divides, and by the
counter `fresh` (17 R495; assumption 87). -/
opaque Config.lineLevel : Nat → Nat → Bool

/-- The bus that a source's send target is: by slot and target 0-7 (05 R175; assumption 86). -/
opaque Config.sendTarget : Nat → Nat → Nat

/-- Where the runtime places its n-th object in domain 0 memory: block tables, code stores, mapped blocks (16 R476, R477;
assumption 25). -/
opaque Config.place : Nat → Nat

end Sys2Proof
end

