-- ==== Sys2Proof/Machine/State.lean ====
section
/-! DEFINITION. The state of the device as plain data, the reasons a step can stop, and the state after reset. Every
per-unit table is a sparse store whose unlisted units are at reset. -/

namespace Sys2Proof.Machine
open Sys2Proof

/-! ### Common -/

/-- A register write whose effect beyond the stored fields is still to be performed: address, the bits written and their mask,
the value before, the value stored, and the writer's attributes. -/
structure Posted where
  addr : Nat
  value : Word
  mask : Word
  old : Word
  new : Word
  master : Nat
  dom : Nat
  priv : Nat
deriving DecidableEq, Repr

/-- A trouble-record set on its way: group, bit, and the stamp taken at its source (15 R459). -/
structure TroubleMsg where
  group : Nat
  bit : Nat
  stamp : Nat
deriving DecidableEq, Repr

/-- The last response the device gave on one of its outside interfaces. -/
inductive Reply where
  /-- nothing has been answered yet -/
  | none
  /-- a mailbox return code with its payload (13 R403, R405) -/
  | mailbox (code : Nat) (payload : List Byte)
  /-- CXL.mem read data, whether it is poisoned, and DevLoad (13 R396, R401) -/
  | memData (data : BitVec 512) (poison : Bool) (devLoad : Nat)
  /-- a CXL.mem completion without data, with DevLoad (13 R396, R401) -/
  | cmp (devLoad : Nat)
  /-- a completion of CXL.io -/
  | completion
  /-- a CXL configuration read (13 R407) -/
  | config (value : BitVec 32)
  /-- a data object exchange response (13 R407) -/
  | doe (data : List Byte)
  /-- a service-port frame (14 R428, R429) -/
  | frame (cobId : Nat) (data : List Byte)
  /-- several service-port frames in a row (14 R429) -/
  | frames (cobId : Nat) (fs : List (List Byte))
  /-- a dictionary result: abort code (0 = success) and data (14 R421) -/
  | dict (abort : Nat) (data : List Byte)
  /-- an NGP response datagram: the port it leaves by, the address and port it goes to, and its bytes (14 R425, Table 14-6) -/
  | ngp (port ip udp : Nat) (msg : List Byte)
  /-- TAP data register contents, least significant bit first (17 R497) -/
  | tap (width value : Nat)
  /-- a bus transaction's read data or error (01 R32) -/
  | bus (ok : Bool) (data : List Byte)
  /-- a link block acknowledged or rejected (01 R13) -/
  | link (good : Bool) (seq : Nat)
  /-- a network frame sent in answer (12 R363) -/
  | net (kind : Nat) (a b : Nat)
deriving DecidableEq, Repr

/-! ### Iakisal cores (chapters 06-09) -/

/-- A 128-bit capability with its tag (08 Table 8-1). An untagged value may hold any bits. -/
structure Cap where
  bits : BitVec 128
  tag : Bool
deriving DecidableEq, Repr

/-- A register that a producer's exposed latency concerns (06 R181). `accView` is an accumulator as MVAC and NORM read
it. -/
inductive RegRef where
  | d (phys : Nat)
  | a (phys : Nat)
  | accView (k : Nat)
  | sys (num : Nat)
  | csys (num : Nat)
deriving DecidableEq, Repr

/-- A write that its shadow still hides: the register, its new value, and the instructions left in the shadow. -/
structure Shadow where
  reg : RegRef
  bits : BitVec 128
  tag : Bool
  left : Nat
deriving DecidableEq, Repr

/-- What a branch does to the window after its delay slot (06 R194); `to` is the free move of a CALLW whose result is
unpredictable (06 R225). -/
inductive WinMove where
  | none | call | ret
  | to (w : Nat)
deriving DecidableEq, Repr

/-- A branch whose delay slot is next: where execution continues after it and the window move (06 R198, R199). -/
structure Delay where
  cont : Cap
  move : WinMove
deriving DecidableEq, Repr

/-- A long operation in flight: its physical destination, its result, its event cause if it has one, the cursor of its
PCC, the steps left of its worst case, and how long writes of its destination that are older than it can stay in their shadow
(06 R180, R184-R188). -/
structure LongOp where
  dest : Nat
  value : Word
  event : Option Nat
  cursor : Nat
  left : Nat
  older : Nat
deriving DecidableEq, Repr

/-- A data-cache line: 64 bytes, the tags of its four granules, dirty, the gate's answer on writing it (none permits, otherwise the
REASON), whether a parity bit of its address tag or its capability tags is wrong, and the bit errors of its eight words (06 R202,
08 R281, 01 R16, R17, Table 1-3). -/
structure DLine where
  data : BitVec 512
  tags : BitVec 4
  dirty : Bool
  wdeny : Option Nat
  dom : Nat
  priv : Nat
  parity : Bool
  upset : SMap Nat
deriving DecidableEq, Repr

/-- The latched translation of the 256 bytes of XSA or MXSA (06 R210): bytes below `cut` lie from `phys`, the others from
`phys2`. -/
structure Latch where
  valid : Bool
  phys : Nat
  cut : Nat
  phys2 : Nat
deriving DecidableEq, Repr

/-- The frame buffer of an exception entry while it drains: the latch it goes by, the DOM of the save area, the 160 bytes
of the frame, the tags of its granules, the level and the cause (06 R208-R211). -/
structure FrameBuf where
  dest : Latch
  dom : Nat
  bytes : List Byte
  tags : BitVec 16
  level : Nat
  cause : Nat
deriving DecidableEq, Repr

/-- One Iakisal core (06 R189). D registers are kept by physical number: 0-15 the globals, 16 + 16w + i register D(16+i)
of window w, 208-215 the fast bank FD0-FD7; A registers 0-15, and 16-19 the fast bank FA0-FA3. -/
structure CoreS where
  /-- released from reset and running (16 R462, R469) -/
  running : Bool
  /-- halted by a double fault while DFBUSY is 1 (06 R212) -/
  halted : Bool
  d : SMap Word
  a : SMap Cap
  /-- the accumulators as the accumulator group reads them (06 Table 6-2) -/
  acc : SMap (BitVec 80)
  /-- the accumulators as MVAC and NORM read them -/
  accView : SMap (BitVec 80)
  pcc : Cap
  /-- 64-bit system registers by number (06 Table 6-10) -/
  sys : SMap Word
  /-- capability system registers by number -/
  csys : SMap Cap
  shadows : List Shadow
  delay : Option Delay
  longq : List LongOp
  /-- imprecise long events waiting to be taken: cause and cursor (06 R188) -/
  imprecise : List (Nat × Nat)
  /-- the predictor (06 R200): direction counters, global history, indirect targets, return stack (top first) -/
  dir : SMap Nat
  gh : Nat
  targets : SMap Nat
  ras : List Nat
  /-- caches by line address (06 R202); the instruction cache holds the addresses of its lines -/
  dcache : SMap DLine
  icache : List Nat
  /-- instruction-cache lines with a wrong parity bit, and the bit errors of their words by address / 8 (01 R16, R17) -/
  iparity : List Nat
  iupset : SMap Nat
  /-- the vector buffers: SVEC, MVEC, FVEC, FVEC + 0x40 (06 R220) -/
  vbuf : SMap (BitVec 256)
  frame : Option FrameBuf
  xsaLatch : Latch
  mxsaLatch : Latch
  /-- round-robin pointer of the block registers (09 R291) -/
  btPtr : Nat
  /-- an instruction that an interrupt abandoned has been resumed: no interrupt until it completes (07 R255) -/
  resumed : Bool
  /-- resume points that name an abandoned instruction which has not completed since (07 R255) -/
  abandoned : List Cap
  /-- the multi-step instruction at PCC has been cut off by an interrupt that is about to be taken (06 R215) -/
  cut : Bool
  /-- a write of WSTAT.OLD left more than 11 resident windows and no CALLW has followed (06 R225) -/
  badOld : Bool
  /-- the first address and the domain of a handler while its 32 bytes come from the vector buffer (06 R220) -/
  entered : Option (Nat × Nat)
  /-- a FENCE has issued and not completed (07 R253) -/
  fencing : Bool
  /-- stalled in WFI (07 Table 7-11) -/
  waiting : Bool
  /-- sampling: countdown, and whether the next instruction carries the tag (17 R492) -/
  countdown : Nat
  tagged : Bool
deriving DecidableEq, Repr

/-- A capability field (08 Table 8-1). -/
def Cap.field (c : Cap) (lsb w : Nat) : Nat := c.bits.toNat / 2 ^ lsb % 2 ^ w

/-- The all-zero untagged value. -/
def Cap.null : Cap := ⟨0, false⟩

/-- A capability from its fields (08 Table 8-1). -/
def Cap.make (cursor base lmant lexp rights dom otype : Nat) (tag : Bool) : Cap :=
  ⟨BitVec.ofNat 128 (cursor % 2 ^ 44 + 2 ^ 44 * (base % 2 ^ 44) + 2 ^ 88 * (lmant % 2 ^ 16) + 2 ^ 104 * (lexp % 2 ^ 6) +
    2 ^ 110 * (rights % 2 ^ 8) + 2 ^ 118 * (dom % 2 ^ 4) + 2 ^ 122 * (otype % 2 ^ 6)), tag⟩

/-- The root data capability (08 Table 8-3). -/
def Cap.rootData : Cap := Cap.make 0 0 0xFFFF 28 0xFB 0 0 true

/-- The root executable capability with a start address (08 Table 8-3). -/
def Cap.rootExec (start : Nat) : Cap := Cap.make start 0 0xFFFF 28 0x4D 0 0 true

/-- Reset values of the 64-bit system registers: LVL = 2 in PSTAT, all else 0 (06 R192, Tables 6-8, 6-11 to 6-13; for
ESTAT, MESTAT, FPSTAT, EVAL and MEVAL the value 0 is a DESIGN CHOICE, assumption 5). -/
def sysReset (n : Nat) : Word := if n = 0 then 2 else 0

/-- An address register at reset: A0 holds the root data capability, the others 0 untagged (06 R192). -/
def aReset (n : Nat) : Cap := if n = 0 then Cap.rootData else Cap.null

/-- An empty data-cache line place. -/
def DLine.none : DLine := ⟨0, 0, false, some 16, 0, 0, false, []⟩

/-- A core at reset with its start address; `run` says whether it runs at once (06 R192, 16 R462). The round-robin pointer of its block
registers starts at copy 0 (09 R291; DESIGN CHOICE, assumption 91). -/
def CoreS.reset (start : Nat) (run : Bool) : CoreS :=
  { running := run, halted := false, d := [], a := [], acc := [], accView := [], pcc := Cap.rootExec start, sys := [],
    csys := [], shadows := [], delay := none, longq := [], imprecise := [], dir := [], gh := 0, targets := [], ras := [],
    dcache := [], icache := [], iparity := [], iupset := [], vbuf := [], frame := none, xsaLatch := ⟨false, 0, 0, 0⟩, mxsaLatch := ⟨false, 0, 0, 0⟩, btPtr := 0,
    resumed := false, abandoned := [], cut := false, badOld := false, entered := none, fencing := false, waiting := false, countdown := 0, tagged := false }

/-! ### Tide (chapter 02) -/

/-- A hub's tide generator beyond TIDESTAT (02 R44-R49): position, the frequency offset in parts per billion as it was at the
position where the servo last asked, the servo's view of valid time, whether a position step is due at the next tick, and the offset asked
for, towards which the frequency moves. -/
structure TideGen where
  pos : Nat
  freqPpb : Int
  freqAt : Nat
  valid : Bool
  stepDue : Bool
  wantPpb : Int
deriving DecidableEq, Repr

/-- A generator at reset (02 Table 2-3). -/
def TideGen.reset : TideGen := ⟨0, 0, 0, false, false, 0⟩

/-- A die: tide position and pending tick messages, supply and HOLD, gauge readings and the shedding decision (02 R45,
R50, R59-R67, R72-R77). -/
structure DieS where
  tide : Nat
  tideValid : Bool
  /-- the tick message of each hub that waits for its local tick -/
  msg0 : Option Nat
  msg1 : Option Nat
  /-- ticks come by the path through the other hub; the path that takes over at the next block boundary -/
  detour : Bool
  detourNext : Option Bool
  /-- supply: up, and the running count and outcome of the HOLD exit condition -/
  up : Bool
  exitCount : Bool
  exitMet : Bool
  /-- the tide position at which the die entered HOLD -/
  holdFrom : Nat
  /-- the hubs have been told of the HOLD and expect nothing of the die -/
  noticed : Bool
  /-- readings of the running block, oldest first; readings of the last two blocks, none where not measured -/
  quarters : List Nat
  g1 : Option Nat
  g2 : Option Nat
  /-- shedding: level in force, level decided for the next block, restore counts of the levels below 16 -/
  level : Nat
  levelNext : Nat
  restore : List Nat
  /-- a block was LATE or MISSED since the last decision -/
  lateSeen : Bool
  /-- decisions still to come that lack block readings -/
  lacking : Nat
  /-- hubs that the die's output stages write to: not fenced and not in HOLD as far as the die has been told -/
  hub0 : Bool
  hub1 : Bool
  /-- the block whose first tick the die received last -/
  blk : Option Nat
  /-- the calibrated delays of the direct tick path and of the path through the other hub (01 R15) -/
  calDirect : Nat
  calOther : Nat
deriving DecidableEq, Repr

/-- A die at reset. -/
def DieS.reset : DieS :=
  { tide := 0, tideValid := false, msg0 := none, msg1 := none, detour := false, detourNext := none, up := true,
    exitCount := false, exitMet := false, holdFrom := 0, noticed := false, quarters := [], g1 := none, g2 := none,
    level := 0, levelNext := 0, restore := [], lateSeen := false, lacking := 0, hub0 := true, hub1 := true, blk := none,
    calDirect := 0, calOther := 0 }

/-! ### Rendering (chapters 03, 04) -/

/-- What a slot does in the block under render (04 R120, R122, R128-R130): off and its fades, the FIR's run, start and stop,
a commit crossfade, gain, mute and polarity changes, and the duck and mix factors it moves to. -/
structure SlotPlan where
  off : Bool
  fadeIn : Bool
  fadeOut : Bool
  runs : Bool
  firStart : Bool
  firStop : Bool
  commit : Bool
  gain : Nat
  muteNew : Bool
  pol : Bool
  polPhase : Nat
  duckNew : Nat
  mixNew : Nat
  psrc : Nat
deriving DecidableEq, Repr

/-- A plan that does nothing. -/
def SlotPlan.none : SlotPlan := ⟨false, false, false, false, false, false, false, 0, true, false, 0, 65536, 0, 0⟩

/-- One output slot (04 R120-R130): stage-1 inputs, newest first; biquad states x1 x2 y1 y2 of each; envelope, thermal gain
and coil rise; the committed and the incoming FIR set; the parameter and biquad words sampled; the values in force in the
previous block; the plan; the block's stage-4 outputs; and whether a block of this RUN has ended (assumption 41). -/
structure SlotS where
  hist : List Int
  bq : List Int
  env : Nat
  gt : Nat
  th : Nat
  coef : List Int
  coefNew : List Int
  par : List Word
  bqc : List Word
  gain : Nat
  mute : Bool
  pol : Bool
  polFaded : Bool
  ran : Bool
  duck : Nat
  mix : Nat
  wasOff : Bool
  plan : SlotPlan
  y4 : List Int
  begun : Bool
deriving DecidableEq, Repr

/-- A slot at reset: one tap of 1.0, gains as Table 4-6 resets them (04 R120, R127, R148). -/
def SlotS.reset : SlotS :=
  { hist := [], bq := [], env := 0, gt := 0x3F800000, th := 0, coef := [0x400000], coefNew := [], par := [], bqc := [],
    gain := 0x100000, mute := true, pol := false, polFaded := false, ran := false, duck := 65536, mix := 0,
    wasOff := false, plan := SlotPlan.none, y4 := [], begun := false }

/-- A block that a cluster is to render, with what its boundary fixes (02 R63, 04 R122, R129, R131): the shedding levels of its own
block and of the block after it, the slot whose commit is pending, the eight bus words, and the parameter and biquad words of each
slot (none while FREEZE is 1). -/
structure Work where
  blk : Nat
  now : Nat
  next : Nat
  pend : Option Nat
  bus : List Word
  par : Option (List (List Word × List Word))
deriving DecidableEq, Repr

/-- The list that a render begun before a flip goes on with (03 R104, R107): the first block of the new list, the half in force
before, whether its indices ramped, their origins, and whether the half was refused at RUN entry. -/
structure Before where
  blk : Nat
  half : Nat
  ramp : Bool
  origins : SMap Word
  bad : Bool
deriving DecidableEq, Repr

/-- A render cluster's work (03 R101-R114, 02 R55): the blocks to render, the first under render when `busy`; the quarter
next to be handed over; whether it has been marked late; origins by index; whether the active half failed its check at RUN
entry; the list of a render that a flip overtook; the output words of the running block in the order written, the hubs they go to; and the mirror table slot in force. -/
structure ClS where
  work : List Work
  busy : Bool
  quarter : Nat
  late : Bool
  origins : SMap Word
  bad : Bool
  before : Option Before
  words : List Word
  hubs : List Nat
  mirSlot : Nat
  /-- 0 renders, 1 carried by its comet after an unplanned eclipse, 2 lost, 3 carried under a planned eclipse -/
  cond : Nat
  /-- blocks below this number may complete in their spare block without setting LATE (15 R443, R448, R455) -/
  grace : Nat
deriving DecidableEq, Repr

def ClS.reset : ClS := ⟨[], false, 0, false, [], false, none, [], [], 0, 0, 0⟩

/-- A comet cluster (15 R443-R449): the cluster it carries, the one it loads, the planned eclipse or release that waits for
its block, the audit under way (cluster, its block), the audit to be run again, and the next cluster to audit. -/
structure CometS where
  carry : Option Nat
  loading : Option Nat
  planned : Bool
  waiting : Option Nat
  releasing : Bool
  failed : Bool
  audit : Option (Nat × Nat)
  rerun : Bool
  nextAudit : Nat
deriving DecidableEq, Repr

def CometS.reset : CometS := ⟨none, none, false, none, false, false, none, false, 0⟩

/-- A priority bus change on its way to its effective block (04 R129). -/
structure BusChange where
  bus : Nat
  psrc : Nat
  active : Bool
  duck : Nat
  blk : Nat
deriving DecidableEq, Repr

/-- The playout of one output on a hub (04 R141, R144): the last played sample, and whether its last block was missing. -/
structure OutPlay where
  p : Int
  missed : Bool
deriving DecidableEq, Repr

def OutPlay.reset : OutPlay := ⟨0, false⟩

/-- An egress channel of a hub (04 R140): the output in force plus one (0 for none), the one that comes in at the next
playout block, and the values of the positions last played, newest first. -/
structure ChanPlay where
  cur : Nat
  next : Option Nat
  vals : List Int
deriving DecidableEq, Repr

def ChanPlay.reset : ChanPlay := ⟨0, none, []⟩

/-! ### CXL logical devices (chapter 13) -/

/-- An event record (13 R404): its handle, whether it is a General Media Event, two parameters (an address and a kind) and
its time. -/
structure EvRec where
  handle : Nat
  media : Bool
  a : Nat
  b : Nat
  time : Nat
deriving DecidableEq, Repr

/-- What an M2S request asks for (13 Table 13-2): MemRd and MemRdData, MemWr and MemWrPtl, MemInv and MemInvNT, and any other request,
which reads or writes nothing. -/
inductive HostKind where
  | read | write | inv | otherRead | otherWrite
deriving DecidableEq, Repr

/-- A host's request as it waits: the port it came by, its kind, its line, the bytes it writes and their data, poisoned or not (13 R400). -/
structure HostReq where
  hub : Nat
  kind : HostKind
  hpa : Nat
  mask : BitVec 64
  data : BitVec 512
  poison : Bool
deriving DecidableEq, Repr

/-- An MSI-X message as it leaves (13 R406): the port, and the address and data that the vector's table entry holds. -/
structure MsixMsg where
  port : Nat
  addr : BitVec 64
  data : BitVec 32
deriving DecidableEq, Repr

/-- The CXL state of one logical device (13 R389): allocation in 256 MiB units, decoders with Error Not Committed,
configuration space, the port of the last configuration request, pending MSI-X vectors, the count and the last message of those sent,
event logs with overflow counts, interrupt policy, QoS weight and limit, the request queue of each port, CDAT sequence number, and how
many records of the poison list have been reported. -/
structure LdS where
  alloc : Nat
  dec0 : Option HdmDec
  dec1 : Option HdmDec
  err0 : Bool
  err1 : Bool
  cfg : SMap (Option (BitVec 32))
  port : Nat
  msixPend : List Nat
  msixSent : SMap Nat
  msixMsg : SMap (Option MsixMsg)
  info : List EvRec
  warning : List EvRec
  failure : List EvRec
  fatal : List EvRec
  overflow : SMap Nat
  nextHandle : Nat
  policy : Nat
  weight : Nat
  limit : Nat
  queue0 : List HostReq
  queue1 : List HostReq
  cdatSeq : Nat
  poisonPos : Nat
deriving DecidableEq, Repr

/-- A logical device at reset: nothing allocated or committed, MSI-X masked, logs empty (13 R408); the QoS weight of one
share is a DESIGN CHOICE (assumption 7). -/
def LdS.reset : LdS :=
  { alloc := 0, dec0 := none, dec1 := none, err0 := false, err1 := false, cfg := [], port := 0, msixPend := [],
    msixSent := [], msixMsg := [], info := [], warning := [], failure := [], fatal := [], overflow := [], nextHandle := 1, policy := 0,
    weight := 1, limit := 0, queue0 := [], queue1 := [], cdatSeq := 0, poisonPos := 0 }

/-! ### DMA channels (chapter 11) -/

/-- A channel beyond its registers (11 R345-R353): a descriptor is in the active set, its failure with the fault code,
all its elements are moved or abandoned, and the completion record that waits for space. -/
structure ChanS where
  active : Bool
  bad : Option Nat
  finished : Bool
  record : Option (List Byte)
deriving DecidableEq, Repr

def ChanS.reset : ChanS := ⟨false, none, false, none⟩

/-! ### Dictionary, images and trust (chapters 14 and 16) -/

/-- An NGP request with the port that received it and its OP (14 R425). -/
structure NgpReq where
  port : Nat
  op : Nat
  msg : NgpMsg
deriving DecidableEq, Repr

/-- A dictionary access as it reaches the runtime (14 R420): a whole value written, a part written or read by a mailbox, a READ or WRITE of
NGP, a frame of the SDO server or of the long-transfer service, a read of NONCE. -/
inductive Access where
  | write (p : Path) (i sub : Nat) (data : List Byte)
  | part (p : Path) (i sub off : Nat) (last : Bool) (data : List Byte)
  | get (ld : Fin 16) (i sub off : Nat)
  | ngp (r : NgpReq)
  | sdo (f : Word)
  | long (f : BitVec 512)
  | nonce
deriving DecidableEq, Repr

/-- A dictionary transfer in parts (14 R420, R424, R428, R429): direction, entry, the value so far (or the snapshot read),
the total length announced, the toggle of SDO segments, and the sequence number of the long-transfer service. -/
structure Xfer where
  write : Bool
  idx : Nat
  sub : Nat
  data : List Byte
  total : Nat
  pos : Nat
  toggle : Bool
  seq : Nat
deriving DecidableEq, Repr

/-- The replay record of a domain's NGP key (14 R426): the highest SEQ accepted and those accepted within 64 of it. -/
structure NgpRec where
  high : Nat
  seen : List Nat
deriving DecidableEq, Repr

/-- A measurement record (16 Table 16-7). -/
structure MRec where
  ty : Nat
  dom : Nat
  slot : Nat
  time : Nat
  hash : BitVec 512
deriving DecidableEq, Repr

/-- What the device keeps of a verified image (16 Table 16-4): VERSION, SVN, the key slot that verified it, its ENTRY addresses. -/
structure RunImg where
  version : Nat
  svn : Nat
  slot : Nat
  entries : List Nat
deriving DecidableEq, Repr

/-- A loaded program of a domain (16 R476): record number, KIND, NUMBER, offset of its copy in the code store, LENGTH, ENTRY
and AREA, and a stamp that tells one load from another. -/
structure Prog where
  num0 : Nat
  kind : Nat
  num : Nat
  off : Nat
  len : Nat
  entry : Nat
  area : Nat
  ver : Nat
deriving DecidableEq, Repr

/-- The live update (15 R454): UPDSTAT, UPDUNIT, the units still to be updated as core indices, and whether a stop waits. -/
structure UpdS where
  stat : Nat
  unit : Nat
  todo : List Nat
  stop : Bool
deriving DecidableEq, Repr

def UpdS.reset : UpdS := ⟨0, 0, [], false⟩

/-! ### Scenes, laws and stream pairs (chapter 05) -/

/-- The scene store of a domain (05 R157): object records by OBJ, the loudspeaker records, law records by number, the tick of
the last accepted frame; and a frame that passed and waits for later entries of its tick: SCENE, COOKIE and bytes. -/
structure SceneS where
  objs : SMap (List Byte)
  spk : List (List Byte)
  laws : SMap (List Byte)
  tick : Option Nat
  cand : Option (Nat × Nat × List Byte)
deriving DecidableEq, Repr

def SceneS.reset : SceneS := ⟨[], [], [], none, none⟩

/-- The law window of a cluster (05 R159-R164): open, its scene tick, the law in progress (domain, number), the laws still to be called, the
domains to be reverted at the close point, and the core's step count when the present domain began. -/
structure LawS where
  opened : Bool
  tick : Nat
  cur : Option (Nat × Nat)
  todo : List (Nat × Nat)
  revert : List Nat
  start : Nat
  /-- laws wait until the first close point after an unplanned eclipse (15 R445) -/
  barred : Bool
  /-- the programs of each domain as the window opened: a law loaded since acts from the next window on (16 R476) -/
  progs : SMap (List Prog)
deriving DecidableEq, Repr

def LawS.reset : LawS := ⟨false, 0, none, [], [], 0, false, []⟩

/-- A submission to a compare unit (05 R176), with the core's processed block and its send words. -/
structure Submit where
  crc : Nat
  errf : Bool
  out : List Int
  sends : List Nat
deriving DecidableEq, Repr

/-- A checked stream-core pair (05 R176-R178, 15 R449): which cores are retired or taken out for an update, the ingress block in
work, the submissions that wait by slot, the slots resolved in it, the block last passed to the broadcast writer for each slot with
its number, whether each core was flagged, the flagged blocks in a row, the steps of the last block counted (02 R57), and the programs in force
since the block began, by slot (16 R476). -/
structure PairS where
  retA : Bool
  retB : Bool
  outA : Bool
  outB : Bool
  blk : Nat
  subA : SMap (Option Submit)
  subB : SMap (Option Submit)
  resolved : List Nat
  passed : SMap (Option (Nat × List Int))
  flagA : Bool
  flagB : Bool
  rowA : Nat
  rowB : Nat
  spent : Nat
  inForce : List (Nat × Prog)
deriving DecidableEq, Repr

def PairS.reset : PairS := ⟨false, false, false, false, 0, [], [], [], [], false, false, 0, 0, 0, []⟩

/-- The stream programs of a core in the running block (05 R174, 02 R57): the program in progress and those to come, by slot and
program number; the core's step count when it was entered, the steps of the programs that have ended, and whether an error of the
core waits for its next submission (05 R176). -/
structure StrmS where
  cur : Option (Nat × Nat)
  todo : List (Nat × Nat)
  start : Nat
  used : Nat
  err : Bool
deriving DecidableEq, Repr

def StrmS.reset : StrmS := ⟨none, [], 0, 0, false⟩

/-! ### Media network (chapter 12) -/

/-- A leg of an ingress stream (12 R371, R373, R375): the last sequence number and first position accepted, and the block of its
last packet. -/
structure LegS where
  seq : Option Nat
  p0 : Option Nat
  heard : Option Nat
deriving DecidableEq, Repr

def LegS.reset : LegS := ⟨none, none, none⟩

/-- An ingress stream on a hub: its first accepted position, the positions marked present, its legs, and for concealment the
last value delivered per channel and whether the last completed block was concealed; and the block in which EN was set. -/
structure IngS where
  first : Option Nat
  marks : List Nat
  legA : LegS
  legB : LegS
  prev : List Int
  missed : Bool
  since : Nat
  /-- the block of the last accepted packet (Table 12-6 RUN) -/
  ran : Option Nat
deriving DecidableEq, Repr

def IngS.reset : IngS := ⟨none, [], LegS.reset, LegS.reset, [], false, 0, none⟩

/-- An egress stream on a hub: SEQ0 and the first position it may send (12 R380). -/
structure EgS where
  seq0 : Nat
  since : Nat
deriving DecidableEq, Repr

def EgS.reset : EgS := ⟨0, 0⟩

/-- A media port (12 R362-R366, R385): Sync messages in a row as the selected port, the grandmaster it last saw, the groups joined with
the sources they include (none: EXCLUDE of none), the IGMP version of their queriers, the addresses that ARP found, as MAC + 1, and those
asked for, a two-step Sync that waits for its Follow_Up, a delay request without an answer, and asCapable. -/
structure PortS where
  syncs : Nat
  gm : Option Nat
  groups : List (Nat × List Nat)
  igmp : Nat
  arp : SMap Nat
  asked : List Nat
  followUp : Bool
  delayReq : Bool
  asCapable : Bool
deriving DecidableEq, Repr

def PortS.reset : PortS :=
  { syncs := 0, gm := none, groups := [], igmp := 3, arp := [], asked := [], followUp := false, delayReq := false, asCapable := false }

/-- A port whose link is gone: only its memberships stay. -/
def PortS.unlinked (x : PortS) : PortS := { PortS.reset with groups := x.groups }

/-- A packet sent (12 R380): port, stream, header fields and payload. -/
structure PktOut where
  port : Nat
  stream : Nat
  aaf : Bool
  seq : Nat
  stampField : Nat
  ssrc : Nat
  /-- the timestamp-valid bit of AAF, the EID word, and the other header fields -/
  tv : Bool
  id : Word
  dmac : Nat
  smac : Nat
  sip : Nat
  pcp : Nat
  dscp : Nat
  vid : Nat
  pt : Nat
  payload : List Byte
deriving DecidableEq, Repr

/-- A source's input (03 R84-R86, 12 R377, R378): the map entry and the delay in force, and the sixteen words delivered for the
last block. The bulk-delay ring lies in DRAM. -/
structure SrcIn where
  map : Nat
  delay : Nat
  block : List Int
  fadeIn : Bool
deriving DecidableEq, Repr

def SrcIn.reset : SrcIn := ⟨0, 0, [], false⟩

/-! ### Links, collector and test access (01 R13-R15, 17) -/

/-- A link block in a replay buffer (01 R13, R14): its sequence number, its flits, and the links that it still has to cross
after this one, as 2 l + direction. -/
structure LinkBlk where
  seq : Nat
  data : Flits
  via : List Nat
deriving DecidableEq, Repr

/-- One direction of a die link (01 R13, R14): the next sequence number, the blocks sent and not acknowledged, the next number
expected by the receiver, replays in a row that no acknowledge has ended, and the block last delivered. -/
structure LinkS where
  next : Nat
  unacked : List LinkBlk
  expect : Nat
  replays : Nat
  got : Option Flits
deriving DecidableEq, Repr

def LinkS.reset : LinkS := ⟨0, [], 0, 0, none⟩

/-- A snapshot in progress (17 R488): its start time and the entries read. -/
structure ColS where
  first : Nat
  entries : List Nat
  trunc : Bool
  lost : Bool
deriving DecidableEq, Repr

/-- The test access port (17 R497-R500): DBGCTL, the last address and data, BUSY, ERR, EXTREF, the boundary-scan cells driven,
the running mode (0 none, 1 EXTEST, 2 CLAMP, 3 HIGHZ), the challenge, the unlock, and the wait after a refusal. -/
structure TapS where
  dbgctl : Nat
  addr : Nat
  data : Word
  busy : Bool
  err : Nat
  extref : Bool
  cells : List Bool
  mode : Nat
  chal : Option Nat
  unlocked : Bool
  wait : Bool
deriving DecidableEq, Repr

def TapS.reset : TapS := ⟨0, 0, 0, false, 0, false, [], 0, none, false, false⟩

/-! ### The device -/

set_option maxRecDepth 4000 in
/-- The whole device. -/
structure State where
  /-- the commands that are waiting, first in first out -/
  pending : List Instr
  /-- every byte of every memory by package physical address: DRAM as software sees it, on-die SRAM, windows, pair tables, staging areas, mirror arrays, egress words -/
  mem : List Host.Cell
  /-- granules (address / 16) whose tag is 1 (08 R270) -/
  tags : List Nat
  /-- 64-byte words (address / 64) uncorrectable in every copy in service (10 R320) -/
  poison : List Nat
  /-- memory-mapped registers by package physical address of their 8-byte word; an unlisted one reads its reset value -/
  regs : SMap Word
  /-- the counter sets and meters (17 R481, R486) by package physical address -/
  ctrs : SMap Word
  /-- memory population and straps (10 R310, R312) -/
  shape : MemShape
  /-- device state, 14 Table 14-4: 0 BOOT, 1 LOADING, 2 CONFIG, 3 RUN, 4 DEGRADED, 5 HOLD -/
  dev : Nat
  /-- the state that HOLD returns to (14 R418) -/
  devBack : Nat
  /-- the media sample rate selected: 96 kHz rather than 48 kHz (00 R1) -/
  rate96 : Bool
  /-- the hub whose tide generator, runtime and collector are active (02 R46) -/
  active : Nat
  /-- the model's own field: the argument of the next free value (assumption 1) -/
  fresh : Nat
  /-- the model's own field: register writes whose effects are still to be performed: those of the running command, and those that a
  fixed engine made into register space, which take effect with the next command that performs any (assumption 1) -/
  posted : List Posted
  /-- trouble-record sets on their way to the authoritative copy, oldest first (15 R459) -/
  troubles : List TroubleMsg
  /-- the last response the device gave -/
  resp : Reply
  /-- the cores by core index (11 R330); an unlisted core is at reset -/
  cores : SMap CoreS
  /-- tide generators by hub (02 R46) -/
  gens : SMap TideGen
  /-- dies by package die index -/
  dies : SMap DieS
  /-- package die indices that are fenced (15 R450, R453) -/
  fenced : List Nat
  /-- package die indices in HOLD (02 R73) -/
  held : List Nat
  /-- copies of block-table entries held by DMA engines and CXL ports: key (requester * 16 + domain) * 8 + i, requester 0-13 the DMA engines, 14 and 15 the CXL ports (09 R290) -/
  walkCopies : SMap (BitVec 128)
  /-- their round-robin pointers by requester * 16 + domain (09 R291) -/
  walkPtr : SMap Nat
  /-- the next 1 MiB chunk of the initialisation sweep (10 R324) -/
  sweepNext : Nat
  /-- chunks at or above sweepNext that a write has already zeroed and marked (10 R324) -/
  marked : List Nat
  /-- egress block slots latched for playout: 4 * hub + slot (04 R139) -/
  latched : List Nat
  /-- logical devices 0-14 and the FM-owned one as 15 (13 R390) -/
  lds : SMap LdS
  /-- the FM-API QoS control byte (13 R391) -/
  qosControl : Nat
  /-- DevLoad of the last 1,024 CXL.mem responses, newest first (13 R391, R401) -/
  devLoads : List Nat
  /-- logical devices of the last 1,024 requests that each port issued, newest first (13 R400) -/
  issued : SMap (List Nat)
  /-- requests that each port's link holds behind one whose queue is full, with their logical devices (13 R401) -/
  cxHeld : SMap (List (Nat × HostReq))
  /-- requests wait for the home takeover (13 R409) -/
  hostWait : Bool
  /-- DMA channels by engine * 64 + channel -/
  chans : SMap ChanS
  /-- render clusters by 25 * n + k (03, 15) -/
  cls : SMap ClS
  /-- output slots by (25 * n + k) * 64 + s (04) -/
  slots : SMap SlotS
  /-- output slots as they stood when the block under render began, from which the mirror restarts it (04 R145, 15 R443) -/
  slotsBack : SMap SlotS
  /-- clusters that BIST marked failed, by 24 n + k (01 R18) -/
  failedCl : List Nat
  /-- other units that BIST marked failed, by die (01 R18) -/
  failedUnits : List Nat
  /-- spare rows that BIST has assigned, by 1024 * unit + bank, unit 25 n + k or 150 + die (01 Table 1-3) -/
  spareRows : SMap Nat
  /-- mirror arrays lost until reset, by 6 n + j (15 R442) -/
  lostArrays : List Nat
  /-- comet clusters by lattice die number n (15) -/
  comets : SMap CometS
  /-- priority bus changes that wait for their block, by lattice die number (04 R129) -/
  busPend : SMap (List BusChange)
  /-- window writes made, by lattice die number: block * 2048 + slot (02 R56) -/
  written : SMap (List Nat)
  /-- the next source block that a die's window writer checks (02 R56) -/
  concealed : SMap Nat
  /-- playout of the outputs by 16384 * hub + output (04 R141-R144) -/
  outPlay : SMap OutPlay
  /-- egress channels by 65536 * hub + 64 * stream + channel (04 R140) -/
  chanPlay : SMap ChanPlay
  /-- the first playout block that a hub has not played, by hub (04 R141) -/
  playNext : SMap Nat
  /-- the first render block of RUN, as a block number (04 R515) -/
  runBlk : Nat
  /-- the first position of the unbroken run of positions that a hub has played, by hub -/
  playFrom : SMap Nat
  /-- dictionary values that differ from their defaults, by index * 256 + subindex (14 R411) -/
  dict : SMap (List Byte)
  /-- transfers in progress by path: logical device, 16 + domain for NGP, 32 SDO, 33 long transfers (14 R420) -/
  xfers : SMap (Option Xfer)
  /-- entries whose effect a domain's BATCH holds, by domain (14 R423) -/
  batchHeld : SMap (Option (List Nat))
  /-- entries whose stored value is to be applied at the next block boundary (14 R422) -/
  applyQ : List Nat
  /-- register writes of the runtime to a die in HOLD, which wait for its rejoin: address, value, mask (02 R73, R74) -/
  rtWait : List (Nat × Word × Word)
  /-- dies in HOLD whose cores run the sequence of 06 R205 when they rejoin, after code was loaded (02 R74, 16 R476) -/
  iflushDue : List Nat
  /-- hub cores that have failed: their runtime duties are another's (15 R435) -/
  lostHc : List Nat
  /-- slots whose FIR set waits to be staged, by 25 n + k (04 R122) -/
  firQ : SMap (List Nat)
  /-- a service session is open (14 R432) -/
  session : Bool
  /-- SHA-512 of the key that opened it (14 R433) -/
  sessKey : Nat
  /-- the valid service nonce (14 R432) -/
  nonceNow : Option Nat
  /-- AUTH failures in succession (14 R432) -/
  authFails : Nat
  /-- AUTH is refused for 10 s (14 R432) -/
  authLock : Bool
  /-- TRUST or FACTORYOK has been written since power good (14 R431) -/
  trustOpen : Bool
  /-- NGP replay records by domain (14 R426) -/
  ngp : SMap NgpRec
  /-- NGPDROP (14 R426) -/
  ngpDrop : Nat
  /-- the path that owns an image load (16 R467) -/
  imgOwner : Option Nat
  /-- bytes of the image received (16 R467) -/
  imgLen : Nat
  /-- IMGSTAT (16 R468) -/
  imgStat : Nat
  /-- bytes of the staged image received (16 R478) -/
  stageLen : Nat
  /-- the staged image (16 R478) -/
  stageBuf : List Byte
  /-- the path that owns the staged load (16 R467, R478) -/
  stageOwner : Option Nat
  /-- STAGESTAT (16 R478) -/
  stageStat : Nat
  /-- the verified image, running from CONFIG on (16 R469) -/
  runImg : Option RunImg
  /-- the verified staged image (16 R478) -/
  stagedImg : Option RunImg
  /-- the measurement log (16 R473) -/
  mlog : List MRec
  /-- a record was dropped (16 R473) -/
  mlogOvf : Bool
  /-- the attestation snapshot: its nonce and the signed log (16 R475) -/
  attSnap : Option (Nat × List Byte)
  /-- DBGUNLOCK (16 R471) -/
  dbgUnlock : Bool
  /-- the path, by its number, whose COMMAND = 1 was accepted; RUN begins at the next block boundary (14 R419) -/
  runReq : Option Nat
  /-- the accesses that reached the dictionary since, in order (14 R419, R420) -/
  accWait : List Access
  /-- the answers of the accesses that waited for the last RUN, in order (14 R420) -/
  also : List Reply
  /-- the hubs whose media ports carried the NGP transfer of a domain (14 R420, 16 R467) -/
  ngpHubs : SMap (List Nat)
  /-- the NGP request of a domain that is answered later (14 R419, 16 R468) -/
  ngpReq : SMap (Option NgpReq)
  /-- the lifecycle state in force (16 R470) -/
  lifecycle : Nat
  /-- loaded programs by domain (16 R476) -/
  progs : SMap (List Prog)
  /-- the live update (15 R454) -/
  update : UpdS
  /-- scene stores by domain (05 R157) -/
  scenes : SMap SceneS
  /-- law windows by 25 n + k, k the cluster whose core runs the laws (05 R159) -/
  lawS : SMap LawS
  /-- checked pairs by 6 n + p (05 R176) -/
  pairS : SMap PairS
  /-- stream programs by core index (05 R174) -/
  strm : SMap StrmS
  /-- sources moved to another pair after a die loss, as pair + 1, or 37 where none was found (15 R453) -/
  srcPair : SMap Nat
  /-- sums of the sends to a bus, sixteen 32-bit words, by 2048 * the ingress block they are the input of + slot (05 R175) -/
  busSums : SMap (List Nat)
  /-- the capabilities derived for each host domain at RUN entry: data root, code root, gate authority, type authority (08 R266,
  R268) -/
  roots : SMap (List Cap)
  /-- source inputs by slot (12 R378) -/
  srcIn : SMap SrcIn
  /-- ingress streams by 512 hub + n (12 R371-R376) -/
  ing : SMap IngS
  /-- egress streams by 1024 hub + e (12 R380) -/
  egs : SMap EgS
  /-- media ports 0-3 (12 R362) -/
  ports : SMap PortS
  /-- the last egress packet sent (12 R380) -/
  sent : Option PktOut
  /-- hubs whose 1PPS output has risen and is still high (12 R367) -/
  pps : List Nat
  /-- die links by 2 l + direction, 1 towards the hub (or from H0 to H1) (01 R13) -/
  links : SMap LinkS
  /-- links declared down (01 R14) -/
  linksDown : List Nat
  /-- the model's own field: a transaction of the running command met a die in HOLD, which takes no new work (02 R73); false between commands -/
  stalled : Bool
  /-- bit errors held in SRAM words, and in the words of the tag region in every copy, by address / 8 (01 R16, R17, 08 R277) -/
  upsets : SMap Nat
  /-- the address that a unit recorded last of an uncorrectable word, plus one, by 256 * die + gate (01 R17) -/
  ueAddr : SMap Nat
  /-- fenced planes of the region switches, by 8 n + 2 g + plane (01 Table 1-6) -/
  planes : List Nat
  /-- tag lines (address / 8192) in the hubs' tag caches, by 1024 * hub + set (08 R276) -/
  tagCache : SMap (List Nat)
  /-- bit errors of the words in tag-cache lines, by 2 * (address of the tag word / 8) + hub (08 R277) -/
  tagUpset : SMap Nat
  /-- the observation points that were high on a die when it stopped, by die, after an entry of 512 (17 R496) -/
  pointStop : SMap (List Nat)
  /-- the block of a hub's last periodic trigger, plus one (17 R488) -/
  snapBlk : SMap Nat
  /-- request-line assertions of an ingress stream that a channel has not counted yet, by 64 * engine + channel (12 R377) -/
  lineDue : SMap Nat
  /-- the position at which a channel's tide or egress line asserted last, plus one, by 64 * engine + channel (11 R350, 12 R383) -/
  lineAt : SMap Nat
  /-- counter collectors by hub (17 R488) -/
  col : SMap (Option ColS)
  /-- the test access port (17 R497) -/
  tap : TapS
  /-- the strap balls and the board as latched at power good (16 R461) -/
  straps : Straps
  /-- CAN controllers that are bus off (14 Table 14-9) -/
  busOff : List Nat
  /-- the hub whose CAN controller serves the service port (14 R427) -/
  canActive : Nat
  /-- media ports whose link is up (12 Table 12-2) -/
  up : List Nat
  /-- THERMTRIP_N is asserted (18 R508) -/
  thermtrip : Bool
  /-- the OTP fuses by 64 * hub + word: 0 LC, 1 REVOKED, 2 FLOOR, 3 SERIAL, 4 MACBASE, 5 + 8i key slot i, 37 + 8j factory key j (16 R465); they survive every reset -/
  fuses : SMap Word
  /-- the LAST part of an image waits for its verification (16 R468) -/
  imgWait : Bool
  /-- the path whose LAST part of a staged image waits for its verification (16 R478) -/
  stageWait : Option Nat
  /-- dictionary values in force: applied to the hardware, where they differ from their defaults (14 R422) -/
  force : SMap (List Byte)
  /-- PROTECTED as evaluated at RUN entry and at each change of coverage (15 R436) -/
  prot : Bool
  /-- corrected errors of every memory controller since reset (13 Table 13-3) -/
  ceTotal : Nat
  /-- the ingress block delivered last (12 R377) -/
  delivered : Option Nat
  /-- meters, by 64 * die + meter, whose running window is not whole (17 R487) -/
  meterCut : List Nat
  /-- words found uncorrectable in a channel's own copy since reset, by 4 * hub + channel (10 R323) -/
  ueWords : SMap (List Nat)
  /-- hubs whose SerDes supplies have been out of range; their ports stay down until reset (18 R506) -/
  sdDown : List Nat
deriving DecidableEq, Repr

/-- Why a step stops with a fault. -/
inductive Fault where
  /-- Raised by no command: the spec gives each an effect, an exception or an error response. -/
  | none
deriving DecidableEq, Repr

/-- Why a step is refused. -/
inductive Refusal where
  /-- Raised by an arm of `exec` that has no meaning yet. Safe: the model stops. -/
  | notModelled (mnemonic : String)
deriving DecidableEq, Repr

/-- The device right after power good with every strap ball open (16 R461-R463, 18 Table 18-6). -/
def State.reset : State :=
  { pending := [],
    mem := [],
    tags := [],
    poison := [],
    regs := [],
    ctrs := [],
    shape := ⟨4398046511104, true, 0, false, true, 8⟩,
    dev := 0,
    devBack := 3,
    rate96 := false,
    active := 0,
    fresh := 0,
    posted := [],
    troubles := [],
    resp := .none,
    cores := [],
    gens := [],
    dies := [],
    fenced := [],
    held := [],
    walkCopies := [],
    walkPtr := [],
    sweepNext := 0,
    marked := [],
    latched := [],
    lds := [],
    qosControl := 3,
    devLoads := [],
    issued := [],
    cxHeld := [],
    hostWait := false,
    chans := [],
    cls := [],
    slots := [],
    slotsBack := [],
    failedCl := [],
    failedUnits := [],
    spareRows := [],
    lostArrays := [],
    comets := [],
    busPend := [],
    written := [],
    concealed := [],
    outPlay := [],
    chanPlay := [],
    playNext := [],
    runBlk := 0,
    playFrom := [],
    dict := [],
    xfers := [],
    batchHeld := [],
    applyQ := [], rtWait := [], iflushDue := [], lostHc := [],
    firQ := [],
    session := false,
    sessKey := 0,
    nonceNow := none,
    authFails := 0,
    authLock := false,
    trustOpen := false,
    ngp := [],
    ngpDrop := 0,
    imgOwner := none,
    imgLen := 0,
    imgStat := 0,
    stageLen := 0,
    stageBuf := [],
    stageOwner := none,
    stageStat := 0,
    runImg := none,
    stagedImg := none,
    mlog := [],
    mlogOvf := false,
    attSnap := none,
    dbgUnlock := false,
    runReq := none,
    accWait := [],
    also := [],
    ngpHubs := [],
    ngpReq := [],
    lifecycle := 0,
    progs := [],
    update := UpdS.reset,
    scenes := [],
    lawS := [],
    pairS := [],
    strm := [],
    srcPair := [],
    busSums := [],
    roots := [],
    srcIn := [],
    ing := [],
    egs := [],
    ports := [],
    sent := none,
    pps := [],
    links := [],
    linksDown := [],
    stalled := false,
    upsets := [],
    ueAddr := [],
    planes := [],
    tagCache := [],
    tagUpset := [],
    pointStop := [],
    snapBlk := [],
    lineDue := [],
    lineAt := [],
    col := [],
    tap := TapS.reset,
    straps := { node := 0, canRate := 0, memMir := true, memIlv := 0, bootSrc := 0, dpc2 := true, msize := 8, uniform := true, otp := [], otpH1 := [] },
    busOff := [],
    canActive := 0,
    up := [],
    thermtrip := false,
    fuses := [],
    imgWait := false,
    stageWait := none,
    force := [],
    prot := false,
    ceTotal := 0,
    delivered := none,
    meterCut := [],
    ueWords := [],
    sdDown := [] }

end Sys2Proof.Machine
end

