-- ==== Sys2Proof/Machine/Ops.lean ====
section
/-! DEFINITION. The named operations over registers, memory, tags and units that every family uses: fields, trouble
record, counters, target gates and bus transactions (00 R11, 01 R31-R35, 08 R270-R273, 09 R300-R308, 15 R459, 17 R483). -/

namespace Sys2Proof.Machine
open Sys2Proof

/-! ### Registers -/

/-- A register word. -/
def State.rg (s : State) (a : Nat) : Word := SMap.get regReset s.regs a

/-- A register word replaced. -/
def State.setRg (s : State) (a : Nat) (v : Word) : State := { s with regs := SMap.set regReset s.regs a v }

/-- A field of a register. -/
def State.fld (s : State) (a lsb w : Nat) : Nat := getBits (s.rg a) lsb w

/-- A field of a register replaced. -/
def State.setFld (s : State) (a lsb w x : Nat) : State := s.setRg a (putBits (s.rg a) lsb w x)

/-- One bit of a register set or cleared. -/
def State.setBit (s : State) (a i : Nat) (b : Bool) : State := s.setFld a i 1 (b2n b)

/-- One bit of a register. -/
def State.bit (s : State) (a i : Nat) : Bool := s.fld a i 1 == 1

/-- A counting field raised by `n`, saturating. -/
def State.addSat (s : State) (a lsb w n : Nat) : State := s.setFld a lsb w (min (2 ^ w - 1) (s.fld a lsb w + n))

/-- A word of the counter sets and meters, held apart so that counting leaves the other registers alone. -/
def State.ctr (s : State) (a : Nat) : Word := SMap.get regReset s.ctrs a

def State.setCtr (s : State) (a : Nat) (v : Word) : State := { s with ctrs := SMap.set regReset s.ctrs a v }

/-- The reset value of a table entry. -/
def dflt {α : Type} (v : α) (_ : Nat) : α := v

/-- A core that has not been touched: HC0 of each hub runs the boot ROM, HC1-HC3 wait in WFI until the runtime releases them, and
lattice cores are held in reset (16 R462). Where in the ROM that WFI stands is not said: PCC keeps the start address (assumption 92). -/
def coreDefault (c : Nat) : CoreS :=
  { CoreS.reset 0xF0000000000 (c < 8) with waiting := decide (c < 8) && c % 4 != 0 }

def State.core (s : State) (c : Nat) : CoreS := SMap.get coreDefault s.cores c
def State.setCore (s : State) (c : Nat) (x : CoreS) : State := { s with cores := SMap.set coreDefault s.cores c x }
def State.modCore (s : State) (c : Nat) (f : CoreS → CoreS) : State := s.setCore c (f (s.core c))

def State.die (s : State) (d : Nat) : DieS := SMap.get (dflt DieS.reset) s.dies d
def State.setDie (s : State) (d : Nat) (x : DieS) : State := { s with dies := SMap.set (dflt DieS.reset) s.dies d x }
def State.modDie (s : State) (d : Nat) (f : DieS → DieS) : State := s.setDie d (f (s.die d))

def State.gen (s : State) (h : Nat) : TideGen := SMap.get (dflt TideGen.reset) s.gens h
def State.setGen (s : State) (h : Nat) (x : TideGen) : State := { s with gens := SMap.set (dflt TideGen.reset) s.gens h x }

/-- A render cluster's work, by lattice die number and cluster; the comet of a lattice die. -/
def State.cl (s : State) (n k : Nat) : ClS := SMap.get (dflt ClS.reset) s.cls (25 * n + k)
def State.setCl (s : State) (n k : Nat) (x : ClS) : State := { s with cls := SMap.set (dflt ClS.reset) s.cls (25 * n + k) x }
def State.modCl (s : State) (n k : Nat) (f : ClS → ClS) : State := s.setCl n k (f (s.cl n k))
def State.comet (s : State) (n : Nat) : CometS := SMap.get (dflt CometS.reset) s.comets n
def State.setComet (s : State) (n : Nat) (x : CometS) : State := { s with comets := SMap.set (dflt CometS.reset) s.comets n x }
def State.modComet (s : State) (n : Nat) (f : CometS → CometS) : State := s.setComet n (f (s.comet n))

/-- The device renders: RUN, DEGRADED or HOLD (14 Table 14-4). -/
def State.live (s : State) : Bool := s.dev == 3 || s.dev == 4 || s.dev == 5

/-- A unit of a die acts: the die is neither fenced nor in HOLD (02 R74, 15 R453). -/
def State.dieActs (s : State) (d : Nat) : Bool := !nsMem s.fenced d && !nsMem s.held d

/-- The next free value (assumption 1). -/
def State.draw (s : State) : Word × State := (Config.freeWord s.fresh, { s with fresh := s.fresh + 1 })

/-- The sample rate in hertz (00 R1). -/
def State.rateHz (s : State) : Nat := if s.rate96 then 96000 else 48000

/-- Slots, window depth, output slots per cluster at the selected rate (00 Table 0-1, 03 Table 3-1). -/
def State.nSlots (s : State) : Nat := if s.rate96 then 1024 else 2048
def State.depth (s : State) : Nat := if s.rate96 then 32768 else 16384
def State.nOut (s : State) : Nat := if s.rate96 then 32 else 64

/-- The device timescale in nanoseconds at the active generator's position (02 R44), plus a free part of one period
(assumption 12). -/
def State.nowNs (s : State) : Nat :=
  (s.gen s.active).pos * 1000000000 / s.rateHz + Config.subPeriodNs s.fresh % (1000000000 / s.rateHz)

/-! ### Trouble record (15 R459) -/

/-- A setting event: a message with its stamp starts for the authoritative copy. -/
def State.trouble (s : State) (g b : Nat) : State :=
  { s with troubles := s.troubles ++ [⟨g, b, s.nowNs % 2 ^ 63⟩], fresh := s.fresh + 1 }

/-- The trouble bits of units (15 Table 15-7). -/
def State.troubleCluster (s : State) (d k : Nat) : State :=
  if k = 24 then s.trouble (18 + (d - 2)) 0 else s.trouble ((24 * (d - 2) + k) / 8) ((24 * (d - 2) + k) % 8)
def State.troubleDie (s : State) (d b : Nat) : State := s.trouble (18 + (d - 2)) b
def State.troublePair (s : State) (d p : Nat) : State := s.trouble (24 + (6 * (d - 2) + p) / 8) ((6 * (d - 2) + p) % 8)
def State.troubleHub (s : State) (h grp b : Nat) : State := s.trouble (34 + 3 * h + grp) b

/-- The gate, walk-fault and DMA bits of a die or hub. -/
def State.troubleGate (s : State) (d : Nat) : State := if d < 2 then s.troubleHub d 0 4 else s.troubleDie d 5
def State.troubleWalk (s : State) (d : Nat) : State := if d < 2 then s.troubleHub d 0 5 else s.troubleDie d 6
def State.troubleDma (s : State) (d : Nat) : State := if d < 2 then s.troubleHub d 0 3 else s.troubleDie d 7

/-- The trouble bit of a core's unit: its cluster, its pair, or the hub-core bit (06 R212). -/
def State.troubleCore (s : State) (c : Nat) : State :=
  let d := coreDie c
  if coreKind c = 3 then s.troubleHub d 0 6
  else if coreKind c = 2 then s.troublePair d ((coreLocal c - 25) / 2)
  else s.troubleCluster d (coreLocal c)

/-! ### Counters (17 R482-R485) -/

/-- The attributes an event carries (17 R483): those it does not carry are none. -/
structure EvAttr where
  master : Option Nat
  priv : Option Nat
  addr : Option Nat

def EvAttr.none : EvAttr := ⟨Option.none, Option.none, Option.none⟩

/-- A value of an attribute passes a test; an event that does not carry it does not (17 R483). -/
def optTest (o : Option Nat) (f : Nat → Bool) : Bool := match o with | some x => f x | none => false

/-- The filters of a counter accept an event (17 R483). -/
def counterAccepts (cfg midw lo hi : Word) (cls ev : Nat) (at_ : EvAttr) : Bool :=
  let e := getBits cfg 2 8
  let pm := getBits cfg 10 4
  bitOf cfg.toNat 0 && e / 32 == cls && (bitOf cfg.toNat 16 || e % 32 == ev) &&
  (pm == 15 || optTest at_.priv (fun p => bitOf pm p)) &&
  (!bitOf cfg.toNat 14 ||
    optTest at_.master (fun m => (m &&& getBits midw 16 16) == (getBits midw 0 16 &&& getBits midw 16 16))) &&
  (!bitOf cfg.toNat 15 || optTest at_.addr (fun a => decide (getBits lo 0 44 ≤ a) && decide (a < getBits hi 0 44)))

/-- CTRVAL after adding `n` events: modulo 2^48, OVF set on a wrap (17 R484). -/
def counterAdd (v : Word) (n : Nat) : Word :=
  let x := getBits v 0 48 + n
  putBits (if x < 2 ^ 48 then v else putBits v 48 1 1) 0 48 (x % 2 ^ 48)

/-- One counter of a set meets an event. -/
def State.countOne (s : State) (base cls ev n : Nat) (at_ : EvAttr) : State :=
  if counterAccepts (s.ctr base) (s.ctr (base + 8)) (s.ctr (base + 0x10)) (s.ctr (base + 0x18)) cls ev at_ then
    s.setCtr (base + 0x20) (counterAdd (s.ctr (base + 0x20)) n)
  else s

/-- `n` events of a class at unit `u` of a die or hub meet the unit's four counters, unless the block is frozen (17 R482,
R485). While no counter or meter of the device has been written none is enabled. -/
def State.count (s : State) (d u cls ev n : Nat) (at_ : EvAttr) : State :=
  if s.ctrs.isEmpty || s.bit (counterBlock d + 0xE000) 0 || n == 0 then s
  else
    let b := counterBlock d + 0x100 * u
    (((s.countOne b cls ev n at_).countOne (b + 0x40) cls ev n at_).countOne (b + 0x80) cls ev n at_).countOne
      (b + 0xC0) cls ev n at_

/-- Bytes through a bandwidth meter (17 R486): direction 0 is A, 1 is B. -/
def State.meter (s : State) (d m dir n : Nat) : State :=
  let b := counterBlock d + 0x8000 + 0x40 * m
  if bitOf (s.ctr b).toNat 16 then
    let r := b + 0x20 + 8 * dir
    s.setCtr r (putBits (s.ctr r) 0 48 (getBits (s.ctr r) 0 48 + n))
  else s

/-- The counted unit of a core (17 Table 17-1). -/
def coreUnit (c : Nat) : Nat :=
  if coreKind c = 3 then coreLocal c else if coreKind c = 2 then 25 + (coreLocal c - 25) / 2 else coreLocal c

/-- The target-gate unit of a die or hub. -/
def gateUnit (d : Nat) : Nat := if d < 2 then 15 else 40

/-! ### Target gates (09 R303-R308) -/

/-- A transaction's attributes as numbers (01 R25, R26). -/
structure Attr where
  master : Nat
  dom : Nat
  priv : Nat
  tc : Nat
deriving DecidableEq, Repr

def busAttrOf (b : BusAttr) : Attr := ⟨b.master.toNat, b.dom.toNat, b.priv.toNat, b.tc.toNat⟩

/-- Kinds of transaction as GVINFO.KIND codes them (09 Table 9-7). -/
def kRead : Nat := 0
def kWrite : Nat := 1
def kFetch : Nat := 2
def kAtomic : Nat := 3
def kWriteBack : Nat := 4
def kWalkRead : Nat := 5
def kWalkUpdate : Nat := 6

/-- The transaction needs read permission, write permission (09 R304 step 4). -/
def kindReads (k : Nat) : Bool := k == 0 || k == 2 || k == 3 || k == 5 || k == 6
def kindWrites (k : Nat) : Bool := k == 1 || k == 3 || k == 4 || k == 6

/-- The lattice registers a fixed rule needs: PTSTAT and FIRSTAT of a cluster. -/
def State.ptActive (s : State) (d k : Nat) : Nat := s.fld (clRegBase d k) 0 1
def State.shState (s : State) (d k : Nat) : Nat := s.fld (clRegBase d k) 1 2
def State.firPending (s : State) (d k : Nat) : Bool := s.bit (clRegBase d k + 0x1010) 0

/-- The fixed rules of 09 Table 9-9 deny a transaction. -/
def State.fixedDeny (s : State) (l : Loc) (b : Attr) (kind : Nat) : Bool :=
  let w := kindWrites kind
  let trusted := b.priv == 2 || b.priv == 3
  match l with
  | .window d _ => w && b.master != mid d 31 2 0
  | .mirror d _ =>
    w && !(bitsOf b.master 13 3 == d && bitsOf b.master 6 2 == 2 && bitsOf b.master 8 5 ≤ 24 &&
      (bitsOf b.master 0 6 == 1 || bitsOf b.master 0 6 == 2))
  | .pairHalf d k h _ => w && s.live && (s.ptActive d k == h || s.shState d k != 0)
  | .staging d k _ => w && s.firPending d k
  | .clSram _ _ off => 0x7F800 ≤ off && !trusted
  | .spSram _ _ off => 0x7F000 ≤ off && !trusted
  | .spRegs d p off =>
    w && ((off / 8 == 0 && b.master != mid d (25 + p) 0 0) || (off / 8 == 1 && b.master != mid d (25 + p) 0 1))
  | .hubSram _ off => 0x3FE000 ≤ off && !trusted
  | .bootRom _ _ => w
  | _ => false

/-- A region contains an address, holes left out (09 R303). -/
def regionHolds (cfg base : Word) (a : Nat) : Bool :=
  let sz := getBits cfg 16 6
  let b := getBits base 0 44 / 2 ^ sz * 2 ^ sz
  bitOf cfg.toNat 0 && b ≤ a && a < b + 2 ^ sz && !bitOf (getBits cfg 8 8) ((a - b) / 2 ^ (sz - 3))

/-- A region matches a transaction (09 R303, 01 R28). -/
def regionMatches (cfg base midw : Word) (b : Attr) (a : Nat) : Bool :=
  regionHolds cfg base a && ((b.master &&& getBits midw 16 16) == (getBits midw 0 16 &&& getBits midw 16 16)) &&
    bitOf (getBits cfg 32 16) b.dom

/-- The words of region r of a gate. -/
def State.rgnCfg (s : State) (d g r : Nat) : Word := s.rg (gateReg d g + 0x80 + 0x18 * r)
def State.rgnBase (s : State) (d g r : Nat) : Word := s.rg (gateReg d g + 0x88 + 0x18 * r)
def State.rgnMid (s : State) (d g r : Nat) : Word := s.rg (gateReg d g + 0x90 + 0x18 * r)

/-- The regions of a gate that match. -/
def State.matching (s : State) (d g : Nat) (b : Attr) (a : Nat) : List Nat :=
  (upTo 16).filter (fun r => regionMatches (s.rgnCfg d g r) (s.rgnBase d g r) (s.rgnMid d g r) b a)

/-- A region's rights permit a transaction (09 R304 step 4). -/
def regionPermits (cfg : Word) (priv kind : Nat) : Bool :=
  let r := if priv = 0 then bitOf cfg.toNat 2 else bitOf cfg.toNat 4
  let w := if priv = 0 then bitOf cfg.toNat 3 else bitOf cfg.toNat 5
  (!kindReads kind || r) && (!kindWrites kind || w)

/-- The gate's decision (09 R304): none permits, otherwise the REASON of the denial. -/
def State.gateReason (s : State) (d g : Nat) (l : Loc) (b : Attr) (kind a : Nat) : Option Nat :=
  if s.fixedDeny l b kind then some 18
  else if b.priv = 3 ∧ ((upTo 16).any fun r => bitOf (s.rgnCfg d g r).toNat 1 &&
      regionHolds (s.rgnCfg d g r) (s.rgnBase d g r) a) = true then some 19
  else
    match s.matching d g b a with
    | [] => if b.priv = 0 then some 16 else none
    | [r] => if regionPermits (s.rgnCfg d g r) b.priv kind then none else some r
    | _ => some 17

/-- A denial is recorded or counted (09 R306). -/
def State.gateRecord (s : State) (d g : Nat) (b : Attr) (kind a reason : Nat) : State :=
  let r := gateReg d g
  let s := s.count d (gateUnit d) 7 1 1 ⟨some b.master, some b.priv, some a⟩
  if s.bit (r + 0x18) 63 then
    if s.fld (r + 0x20) 0 32 = 2 ^ 32 - 1 then s.setBit (r + 0x20) 32 true
    else s.setFld (r + 0x20) 0 32 (s.fld (r + 0x20) 0 32 + 1)
  else
    let s := s.setFld (r + 0x10) 0 44 a
    let s := s.setRg (r + 0x18) (BitVec.ofNat 64
      (b.master + 2 ^ 16 * b.dom + 2 ^ 20 * b.priv + 2 ^ 22 * kind + 2 ^ 25 * reason + 2 ^ 63))
    s.troubleGate d

/-! ### Bus transactions -/

/-- How a transaction ends: performed, denied by a gate, decode or error response, uncorrectable data, or not taken by a die in
HOLD. -/
inductive BusRes where
  | ok | denied | decode | uncorr | held
deriving DecidableEq, Repr

/-- A DRAM address (01 R29, R30). -/
def State.inDram (s : State) (a : Nat) : Bool := decide (a < 0x40000000000) && decide (a < s.shape.usable)

/-- The hub that serves a DRAM address: its home, or the other hub when the home is fenced or in HOLD (10 R314, R315,
02 R77, 15 R451). -/
def State.homeHub (s : State) (a : Nat) : Nat :=
  let h := s.shape.home a
  if s.dieActs h then h else if s.dieActs (1 - h) then 1 - h else h

/-- Where an address lies on this device. -/
def State.loc (s : State) (a : Nat) : Loc := locate s.shape.usable a

/-- The die or hub that holds a place, none for an unmapped address. -/
def State.placeDie (s : State) (l : Loc) : Option Nat := (gateOf s.shape s.homeHub l).map (·.1)

/-- The region switch of a cluster: G0-G3, six clusters each (01 Table 1-6; assumption 76). -/
def regionOf (k : Nat) : Nat := k % 24 / 6

/-- A boundary in front of a place is closed: the port of a cluster that is lost or carried after a fault, or both planes of its
region switch (01 R22, Table 1-6; 15 R444, R446). -/
def State.portClosed (s : State) (l : Loc) : Bool :=
  let closed (d k : Nat) : Bool :=
    k < 24 && ((s.cl (d - 2) k).cond == 1 || (s.cl (d - 2) k).cond == 2 ||
      (nsMem s.planes (8 * (d - 2) + 2 * regionOf k) && nsMem s.planes (8 * (d - 2) + 2 * regionOf k + 1)))
  match l with
  | .clSram d k _ => closed d k
  | .pairHalf d k _ _ => closed d k
  | .staging d k _ => closed d k
  | .clRegs d k _ => closed d k
  | _ => false

/-- The cluster whose port a place lies behind, and the one whose port a master issues through: its core, its walker, its lattice engine
and its output stage (01 Tables 1-6, 1-10). -/
def placeCluster : Loc → Option (Nat × Nat)
  | .clSram d k _ | .pairHalf d k _ _ | .staging d k _ | .clRegs d k _ => some (d, k)
  | _ => none
def masterCluster (m : Nat) : Option (Nat × Nat) :=
  let d := bitsOf m 13 3
  let k := bitsOf m 8 5
  if 2 ≤ d ∧ k < 25 ∧ bitsOf m 6 2 % 2 = 0 then some (d, k) else none

/-- A master's own boundary is closed: its die is fenced, or its cluster's port is closed. Its requests are discarded (01 R22). -/
def State.masterClosed (s : State) (m : Nat) : Bool :=
  nsMem s.fenced (bitsOf m 13 3) ||
    (match masterCluster m with | some (d, k) => s.portClosed (.clRegs d k 0) | none => false)

/-- A hub withholds T4 credits: its last block reading is below 0x0C00 (02 R71). -/
def State.t4Withheld (s : State) (d : Nat) : Bool :=
  d < 2 && (match (s.die d).g1 with | some g => decide (g < 0xC00) | none => false)

/-- The region switch of a cluster as a counted unit, G0-G3 (17 Table 17-1). -/
def regionUnit : Option (Nat × Nat) → List (Nat × Nat)
  | some (d, k) => if k < 24 then [(d, 31 + regionOf k)] else []
  | none => []

/-- The die crossbar of a lattice die as a counted unit. -/
def crossbar (d : Nat) : List (Nat × Nat) := if 2 ≤ d then [(d, 35)] else []

/-- The link ends that take a flit on its way from die `x` to die `y`: over the direct link or, between lattice dies, over the nearer hub
that works; over the other hub where the link is down (01 Tables 1-1, 1-2; 17 Table 17-1; DEDUCED, assumption 60). -/
def State.linkHops (s : State) (x y : Nat) : List (Nat × Nat) :=
  let down (n h : Nat) : Bool := nsMem s.linksDown (6 * h + n)
  let toHub (d h : Nat) : List (Nat × Nat) := if down (d - 2) h then [(1 - h, 14 + d), (h, 22)] else [(h, 14 + d)]
  let toDie (h d : Nat) : List (Nat × Nat) := if down (d - 2) h then [(1 - h, 22), (d, 42 - h)] else [(d, 41 + h)]
  if x = y then []
  else if x < 2 then (if y < 2 then [(y, 22)] else toDie x y)
  else if y < 2 then toHub x y
  else
    let h := if x < 5 then 0 else 1
    let h := if nsMem s.fenced h then 1 - h else h
    toHub x h ++ toDie h y

/-- `n` flits of class `tc` accepted by units in turn (17 Table 17-3, class 3). -/
def State.flits (s : State) (tc n : Nat) (ev : EvAttr) (us : List (Nat × Nat)) : State :=
  if s.ctrs.isEmpty then s else us.foldl (fun s u => s.count u.1 u.2 3 tc n ev) s

/-- The attributes of a transaction as an event carries them (17 R483). -/
def Attr.ev (b : Attr) (a : Nat) : EvAttr := ⟨some b.master, some b.priv, some a⟩

/-- Flits of a transaction on their way to the place `l` of die `d`, in its class: the switches and links between, and the target gates
(17 Table 17-3, class 3; assumption 60). -/
def State.request (s : State) (b : Attr) (l : Loc) (d a n : Nat) : State :=
  if s.ctrs.isEmpty then s else
  let x := bitsOf b.master 13 3
  s.flits b.tc n (b.ev a) (regionUnit (masterCluster b.master) ++ crossbar x ++ s.linkHops x d ++
    (if x = d then [] else crossbar d) ++ regionUnit (placeCluster l) ++ [(d, gateUnit d)])

/-- Flits of its response on their way back. A response always travels as T2, class 2 (01 R23). -/
def State.respond (s : State) (b : Attr) (l : Loc) (d a n : Nat) : State :=
  if s.ctrs.isEmpty then s else
  let x := bitsOf b.master 13 3
  s.flits 2 n (b.ev a) (regionUnit (placeCluster l) ++ crossbar d ++ s.linkHops d x ++
    (if x = d then [] else crossbar x) ++ regionUnit (masterCluster b.master))

/-- The flits of `n` bytes (01 R13, R20). -/
def flitsOf (n : Nat) : Nat := (n + 63) / 64

/-- An error response sent by a unit, and its one flit (17 Table 17-3, class 3 event 6). -/
def State.errorSent (s : State) (b : Attr) (l : Loc) (d u a : Nat) : State :=
  (s.count d u 3 6 1 (b.ev a)).respond b l d a 1

/-- The unit that answers for a part behind a closed boundary: the region switch of a closed cluster port, and for a fenced die the link
end that faces it (01 R22). -/
def State.facing (s : State) (l : Loc) (d : Nat) : Nat × Nat :=
  if nsMem s.fenced d then
    (if d < 2 then (1 - d, 22) else if nsMem s.fenced 0 then (1, 14 + d) else (0, 14 + d))
  else match regionUnit (placeCluster l) with
    | u :: _ => u
    | [] => (d, gateUnit d)

/-- A message over T0, which carries no address: the tide generator's tick messages, takeover and eclipse messages (01 Table 1-7). -/
def State.message (s : State) (m d : Nat) : State :=
  let x := bitsOf m 13 3
  s.flits 0 1 ⟨some m, some 1, none⟩ (crossbar x ++ s.linkHops x d ++ (if x = d then [] else crossbar d))

/-- The attributes of a hub's tide generator and egress playout engine: domain 0, PRIV S (01 Tables 1-7, 1-10, 1-14). The class of the
playout engine's reads, which no table names, is that of output blocks (DESIGN CHOICE, assumption 99). -/
def tideAttr (h : Nat) : Attr := ⟨mid h 5 2 0, 0, 1, 0⟩
def playAttr (h : Nat) : Attr := ⟨mid h 6 2 0, 0, 1, 1⟩

/-- Decode, containment and gate of one transaction at a package address after self-alias replacement (01 R31-R35,
09 R304, 15 R451). A die in HOLD takes no new work, and a hub short of speed gives no T4 credits, and the requester waits (02 R71,
R73). -/
def State.reaches (s : State) (b : Attr) (kind a : Nat) : BusRes × State :=
  let l := s.loc a
  let x := bitsOf b.master 13 3
  if s.masterClosed b.master then (.decode, s)
  else
    match gateOf s.shape s.homeHub l with
    | none => (.decode, (s.count x (gateUnit x) 7 4 1 (b.ev a)).errorSent b l x (gateUnit x) a)
    | some (d, g) =>
      if nsMem s.fenced d || s.portClosed l then
        (.decode, s.errorSent b l (s.facing l d).1 (s.facing l d).2 a)
      else if nsMem s.held d || (b.tc == 4 && s.t4Withheld d) then (.held, { s with stalled := true })
      else
        let s := (s.request b l d a 1).count d (gateUnit d) 7 0 1 (b.ev a)
        match s.gateReason d g l b kind a with
        | none => (.ok, s)
        | some r => (.denied, (s.gateRecord d g b kind a r).errorSent b l d (gateUnit d) a)

/-- The flits of a transaction that was performed, beyond its first: `out` bytes brought to the target, `back` bytes read. -/
def State.performed (s : State) (b : Attr) (a out back : Nat) : State :=
  if s.ctrs.isEmpty then s else
  let l := s.loc a
  match gateOf s.shape s.homeHub l with
  | some (d, _) => (s.request b l d a (flitsOf out - 1)).respond b l d a (max 1 (flitsOf back))
  | none => s

/-- The register block base of the controller of channel M(m) of hub h (10 R327). -/
def mcReg (h m : Nat) : Nat := hubReg h m

/-- A channel is failed (10 R323). -/
def State.chanFailed (s : State) (h m : Nat) : Bool := s.fld (mcReg h m + 8) 0 2 == 2

/-- A channel carries data: its hub is not fenced and it is not failed. -/
def State.chanServes (s : State) (h m : Nat) : Bool := !nsMem s.fenced h && !s.chanFailed h m

/-- MCSTAT.SOLE of every channel: in mirrored mode, the only one of its pair in service (10 R317, R323). -/
def State.soleShow (s : State) : State :=
  (upTo 2).foldl (fun s h => (upTo 4).foldl (fun s m =>
    if s.shape.mirrored && s.chanServes h m && !s.chanServes (1 - h) m then s.setBit (mcReg h m + 8) 2 true else s) s) s

/-- No channel in service holds a DRAM address (10 R317, R323). -/
def State.dramDown (s : State) (a : Nat) : Bool :=
  let p := s.shape.pair a
  if s.shape.mirrored then !(s.chanServes 0 p || s.chanServes 1 p) else !s.chanServes (s.shape.home a) p

/-- The 64-byte words that a range of bytes touches. -/
def wordsOf (a n : Nat) : List Nat := (upTo ((a + n - 1) / 64 + 1 - a / 64)).map (a / 64 + ·)

/-- The granules that a range of bytes touches. -/
def granulesOf (a n : Nat) : List Nat := (upTo ((a + n - 1) / 16 + 1 - a / 16)).map (a / 16 + ·)

/-- A chunk is marked in the initialisation map; reads of one that is not are answered with zeros and reach no DRAM (10 R324). -/
def State.chunkMarked (s : State) (a : Nat) : Bool := decide (a / 2 ^ 20 < s.sweepNext) || nsMem s.marked (a / 2 ^ 20)

/-- The 8-byte words that a range of bytes touches. -/
def sramWordsOf (a n : Nat) : List Nat := (upTo ((a + n - 1) / 8 + 1 - a / 8)).map (a / 8 + ·)

/-- The bit errors that an SRAM word holds. -/
def State.upsetsAt (s : State) (w : Nat) : Nat := SMap.get (dflt 0) s.upsets w

/-- Some byte of a range is uncorrectable: in DRAM poisoned, or on channels out of service; in an SRAM a word with two bit errors
(01 R17, 10 R320, R323). -/
def State.uncorr (s : State) (a n : Nat) : Bool :=
  match s.loc a with
  | .dram _ => (s.chunkMarked a && s.dramDown a) || (wordsOf a n).any (nsMem s.poison)
  | _ => (sramWordsOf a n).any fun w => 2 ≤ s.upsetsAt w

/-- The trouble bit of the unit that holds a place (15 R458, Table 15-7). -/
def State.troubleAt (s : State) (l : Loc) : State :=
  match l with
  | .dram a => s.troubleHub (s.homeHub a) 1 (s.shape.pair a)
  | .window d _ => s.troubleDie d 4
  | .mirror d off => s.trouble (44 + (6 * (d - 2) + off / 0x300000) / 8) ((6 * (d - 2) + off / 0x300000) % 8)
  | .clSram d k _ => s.troubleCluster d k
  | .pairHalf d k _ _ => s.troubleCluster d k
  | .staging d k _ => s.troubleCluster d k
  | .clRegs d k _ => s.troubleCluster d k
  | .spSram d p _ => s.troublePair d p
  | .spRegs d p _ => s.troublePair d p
  | .dieRegs d _ _ => s.troubleDma d
  | .bootRom h _ => s.troubleHub h 0 6
  | .hubSram h _ => s.troubleHub h 0 6
  | .egress h _ => s.troubleHub h 0 1
  | .hubRegs h _ _ => s.troubleHub h 0 6
  | .unmapped => s

/-- The addresses under which a fault of cluster 25 n + k, and the loss of mirror array 6 n + j, are posted: they are no
registers'. -/
def clusterPost (q : Nat) : Posted := ⟨2 ^ 61 + q, 0, 0, 0, 0, 0, 0, 0⟩
def arrayPost (q : Nat) : Posted := ⟨2 ^ 62 + q, 0, 0, 0, 0, 0, 0, 0⟩

/-- A transaction meets uncorrectable data: its target sets its trouble bit and records the address (01 R17). A mirror array with
such a word is lost (15 R442). -/
def State.ueMet (s : State) (a : Nat) : State :=
  let l := s.loc a
  match gateOf s.shape s.homeHub l with
  | some (d, g) =>
    let s := { s with ueAddr := SMap.set (dflt 0) s.ueAddr (256 * d + g) (a + 1) }.troubleAt l
    match l with
    | .mirror d off => { s with posted := s.posted ++ [arrayPost (6 * (d - 2) + off / 0x300000)] }
    | _ => s
  | none => s

/-- The counted unit of an SRAM (17 Table 17-1), none for one that is not counted. -/
def sramUnit : Loc → Option (Nat × Nat)
  | .window d _ => some (d, 38)
  | .mirror d _ => some (d, 39)
  | .clSram d k _ => some (d, k)
  | .pairHalf d k _ _ => some (d, k)
  | .staging d k _ => some (d, k)
  | .spSram d p _ => some (d, 25 + p)
  | .egress h _ => some (h, 11)
  | _ => none

/-- Memory events of an SRAM access (17 Table 17-3, class 4): 8-byte words read or written, and of a read the errors corrected and the
words uncorrectable. -/
def State.countSram (s : State) (b : Attr) (a n : Nat) (write : Bool) : State :=
  if s.ctrs.isEmpty then s
  else
    match sramUnit (s.loc a) with
    | none => s
    | some (d, u) =>
      let ws := sramWordsOf a n
      let s := s.count d u 4 (b2n write) ws.length (b.ev a)
      if write then s
      else (s.count d u 4 2 (ws.filter fun w => s.upsetsAt w == 1).length (b.ev a)).count d u 4 3
        (ws.filter fun w => 2 ≤ s.upsetsAt w).length (b.ev a)

/-- Memory events of a DRAM access (17 Table 17-3, class 4; Table 17-5 hub 0-3): at the home controller, and where its channel is failed
at the partner's, which carries the pair alone. A read of an unmarked chunk does not reach DRAM, and a failed channel is neither read nor
written (10 R323, R324). -/
def State.countDram (s : State) (b : Attr) (a n : Nat) (write : Bool) : State :=
  match s.loc a with
  | .dram _ =>
    if s.ctrs.isEmpty || s.dramDown a || !(write || s.chunkMarked a) then s else
    let p := s.shape.pair a
    let h := if s.chanServes (s.homeHub a) p then s.homeHub a else 1 - s.homeHub a
    let w := (wordsOf a n).length
    let s := s.count h (4 + p) 4 (b2n write) w (b.ev a)
    let s := s.meter h p (b2n write) (64 * w)
    if write && s.shape.mirrored && s.chanServes (1 - h) p then s.meter (1 - h) p 1 (64 * w) else s
  | _ => s

/-- The tag of the granule at an address (08 R270). -/
def State.tagAt (s : State) (a : Nat) : Bool := nsMem s.tags (a / 16)

/-- Tags of granules cleared, set (08 R272, R273). -/
def State.clearTags (s : State) (gs : List Nat) : State := { s with tags := gs.foldl nsDel s.tags }
def State.setTag (s : State) (g : Nat) : State := { s with tags := nsAdd s.tags g }

/-- The tags of every granule that a range touches cleared, for a long range (08 R273). -/
def State.untag (s : State) (a n : Nat) : State :=
  if n = 0 then s else { s with tags := s.tags.filter fun g => !(decide (a / 16 ≤ g) && decide (g ≤ (a + n - 1) / 16)) }

/-- The set of a tag line in a tag cache: 512 KiB of 64-byte lines, 8 ways (08 R276). -/
def tagSet (t : Nat) : Nat := t % 1024

/-- An uncorrectable word of the tag region: its tags are 0 and are written back as 0 (08 R277). `a` is its address. -/
def State.tagWordLost (s : State) (a : Nat) : State :=
  let lo := (a - s.shape.usable) * 8
  let h := s.homeHub a
  let m := s.shape.pair a
  let s := { s with tags := s.tags.filter fun t => !(decide (lo ≤ t) && decide (t < lo + 512)),
                    upsets := s.upsets.filter fun p => p.1 / 8 != a / 64,
                    ueAddr := SMap.set (dflt 0) s.ueAddr (256 * h + m) (a + 1) }
  (s.setBit (mcReg h m + 0x10) 4 true).troubleHub h 1 m

/-- The memory trouble bit of a controller. -/
def State.mcSticky (s : State) (h m i : Nat) : State := (s.setBit (mcReg h m + 0x10) i true).troubleHub h 1 m

/-- An error corrected by a controller. -/
def State.corrected (s : State) (h m : Nat) (b : EvAttr) : State :=
  let s := { s with ceTotal := s.ceTotal + 1 }
  ((s.addSat (mcReg h m + 0x20) 0 32 1).setBit (mcReg h m + 0x10) 0 true).count h (4 + m) 4 2 1 b

/-- The address of a tag line in the tag region (08 R271), and its bit errors as the tag cache of a hub holds it. -/
def State.tagLine (s : State) (t : Nat) : Nat := s.shape.usable + 64 * t
def State.tagUpsetAt (s : State) (h w : Nat) : Nat := SMap.get (dflt 0) s.tagUpset (2 * w + h)

/-- One 64-byte word of the tag region read or written by its controller, with its mirror copy (08 R276; 17 Tables 17-3, 17-5). -/
def State.tagWordMove (s : State) (w : Nat) (write : Bool) (ev : EvAttr) : State :=
  if s.ctrs.isEmpty then s else
  let p := s.shape.pair w
  let h := if s.chanServes (s.homeHub w) p then s.homeHub w else 1 - s.homeHub w
  let s := (s.count h (4 + p) 4 (b2n write) 1 ev).meter h p (b2n write) 64
  if write && s.shape.mirrored && s.chanServes (1 - h) p then s.meter (1 - h) p 1 64 else s

/-- A tag-cache line filled from the tag region, in a place whose choice is free when the set is full: a miss, counted. A word with one
bit error is corrected as a DRAM word is, and one that is uncorrectable loses its tags (08 R276, R277). -/
def State.tagFill (s : State) (b : Attr) (a : Nat) : State :=
  let h := s.homeHub a
  let t := a / 8192
  let key := 1024 * h + tagSet t
  let ls := SMap.get (dflt []) s.tagCache key
  let s := s.count h 8 4 4 1 (b.ev a)
  let ls := if ls.length < 8 then ls else ls.eraseIdx (Config.tagVictim s.fresh).val
  let w := s.tagLine t
  let ws := sramWordsOf w 64
  let s := { s with tagCache := SMap.set (dflt []) s.tagCache key (nsAdd ls t), fresh := s.fresh + 1,
                    tagUpset := s.tagUpset.filter fun p => !(p.1 % 2 == h && ws.contains (p.1 / 2)) }
  let s := s.tagWordMove w false (b.ev a)
  if ws.any (fun i => 2 ≤ s.upsetsAt i) then s.tagWordLost w
  else if ws.any (fun i => s.upsetsAt i == 1) then
    let m := s.shape.pair w
    (({ s with upsets := s.upsets.filter fun p => p.1 / 8 != w / 64 }.corrected h m (b.ev a)).tagWordMove w true (b.ev a))
  else s

/-- A DRAM transaction goes through the tag cache of its home hub (08 R276, R277, 10 R315; 17 Table 17-3; assumption 78). A line held
there with one bit error in a word is corrected; one with two, whose word is still good in DRAM, is fetched again. -/
def State.tagTouch (s : State) (b : Attr) (a : Nat) : State :=
  match s.loc a with
  | .dram _ =>
    let h := s.homeHub a
    let t := a / 8192
    if nsMem (SMap.get (dflt []) s.tagCache (1024 * h + tagSet t)) t then
      let ws := sramWordsOf (s.tagLine t) 64
      if ws.all (fun w => s.tagUpsetAt h w == 0) then s
      else
        let s := (s.count h 8 4 2 (ws.filter fun w => s.tagUpsetAt h w == 1).length (b.ev a)).count h 8 4 3
          (ws.filter fun w => 2 ≤ s.tagUpsetAt h w).length (b.ev a)
        if ws.any (fun w => 2 ≤ s.tagUpsetAt h w) then
          let ls := nsDel (SMap.get (dflt []) s.tagCache (1024 * h + tagSet t)) t
          State.tagFill { s with tagCache := SMap.set (dflt []) s.tagCache (1024 * h + tagSet t) ls } b a
        else s
    else s.tagFill b a
  | _ => s

/-- A write that changed tags of a range writes their tag lines through to the tag region, in every copy: the words have fresh check bits
there and in the tag cache (08 R276, R277). `old` is the state before the write. -/
def State.tagsThrough (s old : State) (b : Attr) (a n : Nat) : State :=
  match s.loc a with
  | .dram _ =>
    let gs := (granulesOf a n).filter fun g => nsMem s.tags g != nsMem old.tags g
    match gs with
    | [] => s
    | g :: _ =>
      let w := s.tagLine (g / 512)
      { s with upsets := s.upsets.filter (fun p => p.1 / 8 != w / 64),
               tagUpset := s.tagUpset.filter (fun p => p.1 / 16 != w / 64) }.tagWordMove w true (b.ev a)
  | _ => s

/-- The bytes of a 1 MiB chunk that lie on the channel pair p with home h: a chunk is cut into granules of at most 8 KiB. -/
def MemShape.chunkPart (m : MemShape) (c h p : Nat) : Nat :=
  let g := min m.gran 13
  2 ^ g * ((upTo (2 ^ (20 - g))).filter fun i => let a := c * 2 ^ 20 + i * 2 ^ g; m.pair a == p && m.home a == h).length

/-- A chunk is zeroed in every copy; the writes pass the meters (10 R324, 17 Table 17-5). -/
def State.meterChunk (s : State) (c : Nat) : State :=
  (upTo 2).foldl (fun s h => (upTo 4).foldl (fun s p =>
    if bitOf (s.ctr (counterBlock h + 0x8000 + 0x40 * p)).toNat 16 && s.chanServes h p then
      s.meter h p 1 (s.shape.chunkPart c h p + if s.shape.mirrored then s.shape.chunkPart c (1 - h) p else 0)
    else s) s) s

/-- A chunk of DRAM that a write has zeroed and marked (10 R324). -/
def State.markChunk (s : State) (a : Nat) : State :=
  if s.chunkMarked a then s else { s.meterChunk (a / 2 ^ 20) with marked := nsAdd s.marked (a / 2 ^ 20) }

/-- The chunks that a range touches are marked, where it lies in DRAM (10 R324). -/
def State.markRange (s : State) (a n : Nat) : State :=
  if s.inDram a then
    (upTo ((a + n - 1) / 2 ^ 20 + 1 - a / 2 ^ 20)).foldl (fun s i => s.markChunk (a + 2 ^ 20 * i)) s
  else s

/-- Bytes of memory read, written, with no check. A word written whole has fresh check bits. -/
def State.peek (s : State) (a n : Nat) : List Byte := memReadN s.mem a n
def State.poke (s : State) (a : Nat) (bs : List Byte) : State :=
  let s := s.markRange a bs.length
  { s with mem := memWriteN s.mem a bs,
           upsets := s.upsets.filter fun p => !(decide (a ≤ 8 * p.1) && decide (8 * p.1 + 8 ≤ a + bs.length)) }

/-- Poison of a word that a whole-word write clears leaves the list that holds it, whichever hub was its home when it was listed
(10 R321). -/
def State.unlistPoison (s : State) (w : Nat) : State :=
  let a := 64 * w
  let s := { s with poison := nsDel s.poison w }
  (upTo 2).foldl (fun s h =>
    let base := mcReg h (s.shape.pair a)
    if s.fld (base + 0x30) 0 9 = 0 then s
    else (upTo 256).foldl (fun s i =>
      if s.bit (base + 0x100 + 8 * i) 63 && s.fld (base + 0x100 + 8 * i) 0 44 == a then
        (s.setRg (base + 0x100 + 8 * i) 0).setFld (base + 0x30) 0 9 (s.fld (base + 0x30) 0 9 - 1)
      else s) s) s

/-- A write to the egress words that playout no longer takes: to a latched slot, or to a cluster's words or completion word
after its completion word is written (04 R138, R139). -/
def State.egressLate (s : State) (h off : Nat) : Bool :=
  if off < 0x240000 then
    let q := off / 0x90000
    let o := off % 0x90000 / 64
    let c := 24 * (o / 1536) + o % 1536 / 64
    nsMem s.latched (4 * h + q) || memRead s.mem (dieBase h + 0x10000000 + 0x240000 + q * 0x800 + 8 * c) != 0
  else if off < 0x242000 then
    let q := (off - 0x240000) / 0x800
    nsMem s.latched (4 * h + q) || memRead s.mem (dieBase h + 0x10000000 + off / 8 * 8) != 0
  else true

/-- Setting an egress sticky bit also sets the hub's egress trouble bit (04 R150). -/
def State.egressSticky (s : State) (h i : Nat) : State :=
  (s.setBit (dieBase h + 0x103F0000) i true).troubleHub h 0 1

/-- The 64 bytes of a word take free values: a capability write clears the poison of its word and the spec does not state
what the other bytes then hold (10 R321; assumption 1). -/
def State.scramble (s : State) (a : Nat) : State :=
  { s.poke a ((upTo 8).flatMap fun i => natLE 8 (Config.freeWord (s.fresh + i)).toNat) with fresh := s.fresh + 8 }

/-- The poison of the words that a range touches is cleared by a write that counts as one of all 64 bytes, though it brings fewer: a CSC
or CCOPY (10 R321). -/
def State.healed (s : State) (a n : Nat) : State :=
  (wordsOf a n).foldl (fun s w => if nsMem s.poison w then (s.scramble (64 * w)).unlistPoison w else s) s

/-- A memory write at the target: poison rules (10 R321, R323), bytes, and tags (08 R272, R273). `tag` is the tag of a
16-byte capability write, none for any other write. -/
def State.store (s : State) (a : Nat) (bs : List Byte) (tag : Option Bool) : State :=
  let n := bs.length
  let l := s.loc a
  let dram := match l with | .dram _ => true | _ => false
  let late := match l with | .egress h off => s.egressLate h off | _ => false
  if dram && s.dramDown a then s
  else if late then (match l with | .egress h off => if off < 0x242000 then s.egressSticky h 3 else s | _ => s)
  else if (wordsOf a n).any (nsMem s.poison) && !(a % 64 == 0 && n == 64) then
    (s.setBit (mcReg (s.homeHub a) (s.shape.pair a) + 0x10) 3 true).troubleHub (s.homeHub a) 1 (s.shape.pair a)
  else
    let s := (wordsOf a n).foldl (fun s w => if nsMem s.poison w then s.unlistPoison w else s) s
    let s := (s.poke a bs).clearTags (granulesOf a n)
    match tag with
    | some true => if l.tagged then s.setTag (a / 16) else s
    | _ => s

/-! ### Register writes -/

/-- The register words that a lock, a state or a unit protects from a write, and the sticky bit that records it
(09 R308, 15 R456, 11 R345, 17 R495). -/
def State.writeGuard (s : State) (l : Loc) (a : Nat) : Option State :=
  let gate (d off : Nat) : Option State :=
    if off < 0xF000 && off % 0x200 ≥ 0x80 && s.bit (gateReg d (off / 0x200) + 0x80 + 0x18 * ((off % 0x200 - 0x80) / 0x18)) 1
    then some (s.setBit (gateReg d (off / 0x200) + 8) 0 true) else none
  let dma (off : Nat) : Option State :=
    if off < 0x8000 && off % 0x200 < 0x40 then
      let ch := a - off % 0x200
      if s.bit (ch + 0x110) 2 || s.bit (ch + 0x100) 3 then some (s.setBit (ch + 0x110) 3 true) else none
    else none
  match l with
  | .dieRegs d b off => if b = 8 then gate d off else if b < 2 then dma off else none
  | .hubRegs h b off => if b = 16 then gate h off else if b = 5 then dma off else none
  | .clRegs _ _ off => if 0x8100 ≤ off && s.live then some s else none
  | _ => none

/-- OUT of an output-map entry names an output at the selected rate (04 R136, R140). -/
def State.outOk (s : State) (o : Nat) : Bool := o < 9216 && (!s.rate96 || o % 64 < 32)

/-- A write to a stream entry whose EN is 1 changes only EN (12 R370, R379); `w0` is the entry's first word. -/
def streamFix (o : Nat) (w0 old new : Word) : Word :=
  if bitOf w0.toNat 0 = false then new else if o = 0 then putBits old 0 1 (getBits new 0 1) else old

/-- Field checks that depend on other state: output-map entries, PTPCFG, source-map entries, whose words hold those of two slots, and
stream entries (04 R140, 12 Table 12-3, R378, R370). -/
def State.regFix (s : State) (l : Loc) (old new : Word) : Word :=
  match l with
  | .egress _ off =>
    if 0x300000 ≤ off ∧ off < 0x340000 then
      let f (v : Word) (lsb : Nat) : Word :=
        if s.outOk (getBits v lsb 14) then v else putBits v lsb 14 (getBits old lsb 14)
      f (f new 0) 32
    else new
  | .hubRegs h b off =>
    if b = 7 ∧ off = 0x1000 ∧ getBits new 0 1 = 1 ∧ getBits new 1 8 ≠ 0 then putBits new 1 8 (getBits old 1 8)
    else if b = 7 ∧ 0x6000 ≤ off ∧ off < 0x8000 ∧ s.nSlots ≤ (off - 0x6000) / 4 then old
    else if (b = 7 ∧ 0x2000 ≤ off ∧ off < 0x6000) ∨ (b = 8 ∧ 0x2000 ≤ off ∧ off < 0xA000) then
      streamFix (off % 32) (s.rg (hubReg h b + off / 32 * 32)) old new
    else new
  | _ => new

/-- Counter sets and meters are held in `ctrs`. -/
def isCtr : Loc → Bool
  | .dieRegs _ b off => b == 9 && off < 0xA000
  | .hubRegs _ b off => b == 14 && off < 0xA000
  | _ => false

/-- A register word as a bus read sees it: WO fields read 0 because nothing is stored in them (00 R10). CNTOVF is computed
(17 Table 17-4). -/
def State.regRead (s : State) (a : Nat) : Word :=
  let l := s.loc a
  if isCtr l then s.ctr a
  else
    let ovf (d : Nat) : Word := BitVec.ofNat 64 ((upTo 43).foldl (fun n u =>
      if (upTo 4).any (fun i => bitOf (s.ctr (counterBlock d + 0x100 * u + 0x40 * i + 0x20)).toNat 48) then n + 2 ^ u else n) 0)
    match l with
    | .dieRegs d b off => if b = 9 ∧ off = 0xE008 then ovf d else s.rg a
    | .hubRegs h b off => if b = 14 ∧ off = 0xE008 then ovf h else s.rg a
    | _ => s.rg a

/-- What a register read clears (RC fields, 00 R10). -/
def State.regReadDone (s : State) (a : Nat) : State :=
  let fs := regFields (s.loc a)
  if fs.any (fun f => f.acc == .rc) then s.setRg a (regAfterRead fs (s.rg a)) else s

/-- 1 written to GVINFO.VALID clears COUNT and SAT with it, at the write itself: a denial checked later is a new first violation
(09 R306). -/
def State.gvWritten (s : State) (l : Loc) (a : Nat) (v : Word) : State :=
  let gv (off : Nat) : Bool := decide (off < 0xF000) && off % 0x200 == 0x18 && bitOf v.toNat 63
  match l with
  | .dieRegs _ b off => if b == 8 && gv off then s.setRg (a + 8) 0 else s
  | .hubRegs _ b off => if b == 16 && gv off then s.setRg (a + 8) 0 else s
  | _ => s

/-- A write of the bits `mask` of a register word: fields by access code, reserved encodings keep the field, and the
effects beyond the stored fields are posted (00 R11). A capability register loses its tag (08 R273). -/
def State.regWrite (s : State) (b : Attr) (a : Nat) (v mask : Word) : State :=
  let l := s.loc a
  let fs := regFields l
  if fs.isEmpty then s
  else
    match s.writeGuard l a with
    | some s' => s'
    | none =>
      if isCtr l then
        let x := regStore fs (s.ctr a) v mask
        { s.setCtr a x with posted := s.posted ++ [⟨a, v &&& mask, mask, s.ctr a, x, b.master, b.dom, b.priv⟩] }
      else
        let x := s.regFix l (s.rg a) (regStore fs (s.rg a) v mask)
        let s' : State := { s.setRg a x with posted := s.posted ++ [⟨a, v &&& mask, mask, s.rg a, x, b.master, b.dom, b.priv⟩] }
        if l.capReg then s'.clearTags [a / 16] else s'.gvWritten l a (v &&& mask)

/-- A place is a register word rather than memory bytes. -/
def isRegPlace : Loc → Bool
  | .egress _ off => 0x300000 ≤ off
  | l => l.isReg

/-- The mask and value of bytes written at an address within its 8-byte word. -/
def byteMask (a n : Nat) : Word := BitVec.ofNat 64 ((2 ^ (8 * n) - 1) * 2 ^ (8 * (a % 8)))
def byteValue (a : Nat) (bs : List Byte) : Word := BitVec.ofNat 64 (leNat bs * 2 ^ (8 * (a % 8)))

/-- Register words covered by `n` bytes at `a`, read as bytes. -/
def State.regBytes (s : State) (a n : Nat) : List Byte :=
  let first := a / 8 * 8
  let cnt := (a + n - 1) / 8 - a / 8 + 1
  (((upTo cnt).flatMap fun i => natLE 8 (s.regRead (first + 8 * i)).toNat).drop (a - first)).take n

/-- Bytes written to register words, each word once. -/
def State.regPoke (s : State) (b : Attr) (a : Nat) (bs : List Byte) : State :=
  let first := a / 8 * 8
  let cnt := (a + bs.length - 1) / 8 - a / 8 + 1
  (upTo cnt).foldl (fun s i =>
    let lo := max a (first + 8 * i)
    let part := (bs.drop (lo - a)).take (first + 8 * i + 8 - lo)
    s.regWrite b (first + 8 * i) (byteValue lo part) (byteMask lo part.length)) s

/-- A read transaction of `n` bytes: admission, then the bytes or an uncorrectable outcome (01 R17, R32, 09 R305). -/
def State.busRead (s : State) (b : Attr) (kind a n : Nat) : (BusRes × List Byte) × State :=
  match s.reaches b kind a with
  | (.ok, s) =>
    let l := s.loc a
    if isRegPlace l then
      let bs := s.regBytes a n
      let s := s.performed b a 0 n
      ((.ok, bs), (upTo ((a + n - 1) / 8 - a / 8 + 1)).foldl (fun s i => s.regReadDone (a / 8 * 8 + 8 * i)) s)
    else
      let s := (((s.countDram b a n false).countSram b a n false).tagTouch b a).performed b a 0 n
      if s.uncorr a n then ((.uncorr, []), s.ueMet a) else ((.ok, s.peek a n), s)
  | (r, s) => ((r, []), s)

/-- A write transaction (01 R32, 08 R273, 09 R305); one to a DRAM address that no channel in service holds has the outcome of
01 R17 (10 R323). `tag` as in `State.store`; a capability written to a capability register keeps its tag (08 R270). `heal` marks a CSC
or CCOPY (10 R321). -/
def State.busWriteAs (s : State) (b : Attr) (kind a : Nat) (bs : List Byte) (tag : Option Bool) (heal : Bool) : BusRes × State :=
  match s.reaches b kind a with
  | (.ok, s) =>
    let l := s.loc a
    if isRegPlace l then
      let guarded := (s.writeGuard l (a / 8 * 8)).isSome
      let s1 := (s.performed b a bs.length 0).regPoke b a bs
      (.ok, if l.capReg && !guarded && tag == some true then s1.setTag (a / 16) else s1)
    else if s.inDram a && s.dramDown a then (.uncorr, s.ueMet a)
    else
      let s := (((s.countDram b a bs.length true).countSram b a bs.length true).tagTouch b a).performed b a bs.length 0
      (.ok, ((if heal then s.healed a bs.length else s).store a bs tag).tagsThrough s b a bs.length)
  | (r, s) => (r, s)

/-- A write transaction of anything but CSC and CCOPY. -/
def State.busWrite (s : State) (b : Attr) (kind a : Nat) (bs : List Byte) (tag : Option Bool) : BusRes × State :=
  s.busWriteAs b kind a bs tag false

/-! ### Transactions that wait, and fixed engines -/

/-- A command whose transactions meet a die in HOLD has no effect yet: its requester waits (02 R73, R74). -/
def State.attempt (s : State) (f : State → State) : State :=
  let t := f { s with stalled := false }
  if t.stalled then s else t

/-- The attributes of a fixed engine: domain 0, PRIV S (01 Table 1-14). -/
def engAttr (master tc : Nat) : Attr := ⟨master, 0, 1, tc⟩

/-- A write of a fixed engine: one that its gate denies is dropped and sets the engine's trouble bit, and one that gets an error
response is dropped (09 Table 9-10, 01 R35). One that meets a die in HOLD is dropped too: that die's stages are at rest. -/
def State.engWrite (s : State) (b : Attr) (a : Nat) (bs : List Byte) (trouble : State → State) : State :=
  match s.busWrite b kWrite a bs none with
  | (.denied, t) => trouble t
  | (_, t) => { t with stalled := s.stalled }

/-- A run of bytes cut where a transaction must end, at 256-byte boundaries (09 R300). -/
def cut256 (a : Nat) (bs : List Byte) : List (Nat × List Byte) :=
  if bs.isEmpty then []
  else (upTo ((a + bs.length - 1) / 256 + 1 - a / 256)).map fun i =>
    let lo := max a (256 * (a / 256 + i))
    (lo, (bs.drop (lo - a)).take (256 * (a / 256 + i) + 256 - lo))

/-- A run of bytes written by a fixed engine. -/
def State.engRun (s : State) (b : Attr) (a : Nat) (bs : List Byte) (trouble : State → State) : State :=
  (cut256 a bs).foldl (fun s p => s.engWrite b p.1 p.2 trouble) s

/-- A read of a fixed engine, cut at 256-byte boundaries: none where a piece is denied or answered with an error. -/
def State.engRead (s : State) (b : Attr) (a n : Nat) (trouble : State → State) : Option (List Byte) × State :=
  (cut256 a (List.replicate n 0)).foldl (fun r p =>
    match r.2.busRead b kRead p.1 p.2.length with
    | ((.ok, bs), t) => (r.1.map (· ++ bs), t)
    | ((.denied, _), t) => (none, trouble t)
    | (_, t) => (none, { t with stalled := s.stalled })) (some [], s)

/-- Runs of an engine's SRAM accesses, as address and length, whose words the engine moves itself: the 256-byte blocks of which a piece was
denied or answered with an error. -/
def State.engPass (s : State) (b : Attr) (write : Bool) (runs : List (Nat × Nat)) (trouble : State → State) : List Nat × State :=
  (runs.flatMap fun r => cut256 r.1 (List.replicate r.2 0)).foldl (fun r p =>
    match r.2.reaches b (if write then kWrite else kRead) p.1 with
    | (.ok, t) =>
      let n := p.2.length
      (r.1, (t.countSram b p.1 n write).performed b p.1 (if write then n else 0) (if write then 0 else n))
    | (.denied, t) => (nsAdd r.1 (p.1 / 256), trouble t)
    | (_, t) => (nsAdd r.1 (p.1 / 256), { t with stalled := s.stalled })) ([], s)

/-- The reads, and the writes, of such an engine. -/
def State.engLost (s : State) (b : Attr) (runs : List (Nat × Nat)) (trouble : State → State) : List Nat × State :=
  s.engPass b false runs trouble
def State.engPut (s : State) (b : Attr) (runs : List (Nat × Nat)) (trouble : State → State) : List Nat × State :=
  s.engPass b true runs trouble

/-- The addresses of the SRAM words of some runs that are uncorrectable (01 R17). -/
def State.badWords (s : State) (runs : List (Nat × Nat)) : List Nat :=
  s.upsets.filterMap fun p =>
    if 2 ≤ p.2 ∧ runs.any (fun r => decide (r.1 < 8 * p.1 + 8) && decide (8 * p.1 < r.1 + r.2)) then some (8 * p.1) else none

/-- A lattice engine or output stage that reads uncorrectable words takes a cluster fault; `k` is the cluster that works, 24 for the comet
(01 R17). -/
def State.clusterUe (s : State) (n k : Nat) (ws : List Nat) : State :=
  let s := ws.foldl (fun s a => s.ueMet a) s
  { s with posted := s.posted ++ [clusterPost (25 * n + k)] }

end Sys2Proof.Machine
end

