-- ==== Sys2Proof/Machine/Caps.lean ====
section
/-! DEFINITION. Capabilities: fields, bounds, rights, representable lengths and derivation (08 R257-R268). -/

namespace Sys2Proof.Machine
open Sys2Proof

/-- Fields (08 Table 8-1). -/
def Cap.cur (c : Cap) : Nat := c.field 0 44
def Cap.base (c : Cap) : Nat := c.field 44 44
def Cap.lmant (c : Cap) : Nat := c.field 88 16
def Cap.lexp (c : Cap) : Nat := c.field 104 6
def Cap.rights (c : Cap) : Nat := c.field 110 8
def Cap.dom (c : Cap) : Nat := c.field 118 4
def Cap.otype (c : Cap) : Nat := c.field 122 6

/-- Length and top, exact (08 R258). -/
def Cap.len (c : Cap) : Nat := c.lmant * 2 ^ c.lexp
def Cap.top (c : Cap) : Nat := c.base + c.len

/-- A right by its bit: 0 LD, 1 ST, 2 EX, 3 LC, 4 SC, 5 SL, 6 GL, 7 SE (08 Table 8-2). -/
def Cap.has (c : Cap) (r : Nat) : Bool := bitOf c.rights r

def Cap.sealed (c : Cap) : Bool := c.otype != 0

/-- The value with one field replaced, tag kept. -/
def Cap.put (c : Cap) (lsb w x : Nat) : Cap :=
  let n := c.bits.toNat
  ⟨BitVec.ofNat 128 (n - (n / 2 ^ lsb % 2 ^ w) * 2 ^ lsb + x % 2 ^ w * 2 ^ lsb), c.tag⟩

/-- The cursor replaced, modulo 2^44. -/
def Cap.setCur (c : Cap) (x : Nat) : Cap := c.put 0 44 x
def Cap.setRights (c : Cap) (x : Nat) : Cap := c.put 110 8 x
def Cap.setDom (c : Cap) (x : Nat) : Cap := c.put 118 4 x
def Cap.setOtype (c : Cap) (x : Nat) : Cap := c.put 122 6 x

/-- The cursor advanced, modulo 2^44. -/
def Cap.adv (c : Cap) (i : Int) : Cap := c.setCur (unsigned 44 ((c.cur : Int) + i))

/-- The lowest of `n` bytes at `a` that lies outside the bounds (08 R258). -/
def Cap.outside (c : Cap) (a n : Nat) : Option Nat :=
  if n = 0 then none
  else if a < c.base then some a
  else if c.top < a + n then some (max a c.top)
  else none

/-- Least e with ceil(L / 2^e) at most 65535, searched from `e` (08 R260). -/
def lexpFrom : Nat → Nat → Nat → Nat
  | 0, e, _ => e
  | n + 1, e, l => if cdiv l (2 ^ e) ≤ 65535 then e else lexpFrom n (e + 1) l

/-- The exponent and mantissa of a requested length (08 R260). -/
def encodeLen (l : Nat) : Nat × Nat :=
  if l ≤ 65535 then (0, l) else (lexpFrom 64 0 l, cdiv l (2 ^ lexpFrom 64 0 l))

/-- A capability at a memory address, with its tag (08 R257). -/
def State.capAt (s : State) (a : Nat) : Cap := ⟨BitVec.ofNat 128 (leNat (s.peek a 16)), s.tagAt a⟩

/-- The bytes of a capability (08 R257). -/
def Cap.bytes (c : Cap) : List Byte := natLE 16 c.bits.toNat

/-- A capability register of a register block: two words and the granule's tag (08 R270). -/
def State.capReg (s : State) (a : Nat) : Cap := ⟨s.rg (a + 8) ++ s.rg a, s.tagAt a⟩

def State.setCapReg (s : State) (a : Nat) (c : Cap) : State :=
  let s := (s.setRg a (c.bits.setWidth 64)).setRg (a + 8) ((c.bits >>> 64).setWidth 64)
  if c.tag then s.setTag (a / 16) else { s with tags := nsDel s.tags (a / 16) }

/-- The capability checks of R233 but for alignment: tag, seal, rights, bounds; the cause and EVAL of the first failure. -/
def Cap.check (c : Cap) (need : Nat) (a n : Nat) : Option (Nat × Nat) :=
  if !c.tag then some (0x01, a)
  else if c.sealed then some (0x04, a)
  else if c.rights &&& need != need then some (0x03, a)
  else match c.outside a n with
    | some x => some (0x02, x)
    | none => none

end Sys2Proof.Machine
end

