-- ==== Sys2Proof/Machine/Notify.lean ====
section
/-! DEFINITION. MSI-X messages and event records of the logical devices (13 R404, R406, R410). -/

namespace Sys2Proof.Machine
open Sys2Proof

def State.ld (s : State) (k : Nat) : LdS := SMap.get (dflt LdS.reset) s.lds k
def State.setLd (s : State) (k : Nat) (x : LdS) : State := { s with lds := SMap.set (dflt LdS.reset) s.lds k x }
def State.modLd (s : State) (k : Nat) (f : LdS → LdS) : State := s.setLd k (f (s.ld k))

/-- Setting a CXSTICKY bit sets the hub's CXL trouble bit (13 R410). -/
def State.cxSticky (s : State) (h i : Nat) : State := (s.setBit (hubReg h 9 + 8) i true).troubleHub h 1 5

/-- The configuration words whose values the spec gives, read-only: in the DVSEC for CXL Devices, Cache_Capable 0, Mem_Capable 1,
Mem_HwInit_Mode 0 and HDM_Count 0b10 (13 R387), and in the GPF DVSEC the durations of both phases, 0 (13 R407). Their places, and the
other fields of the first, are PRESUMED from CXL 2.0 (assumption 8). -/
def dvsecWord (reg : Nat) : Option (BitVec 32) :=
  if reg = 0x108 then some 0x00260000 else if reg = 0x148 then some 0x00000005 else if reg = 0x14C then some 0 else none

/-- A configuration-space word of a logical device; an unwritten vector control word reads as masked (13 R408). -/
def LdS.cfgWord (x : LdS) (reg : Nat) : BitVec 32 :=
  match dvsecWord reg with
  | some v => v
  | none => (SMap.get (dflt none) x.cfg reg).getD (if 0x800 ≤ reg ∧ reg < 0x900 ∧ reg % 16 = 12 then 1 else 0)

/-- A host writes a configuration word; the read-only ones keep theirs. -/
def LdS.cfgPut (x : LdS) (reg : Nat) (v : BitVec 32) : LdS :=
  if (dvsecWord reg).isSome then x else { x with cfg := SMap.set (dflt none) x.cfg reg (some v) }

/-- The MSI-X message that a vector's table entry holds: address, data (13 R389, R406; assumption 8). -/
def LdS.msixEntry (x : LdS) (v : Nat) : MsixMsg :=
  ⟨x.port, x.cfgWord (0x804 + 16 * v) ++ x.cfgWord (0x800 + 16 * v), x.cfgWord (0x808 + 16 * v)⟩

/-- MSI-X is enabled and the vector unmasked. The places of the enable bit, the function mask and the vector control words
in the configuration space are the model's (assumption 8). -/
def LdS.msixOpen (x : LdS) (v : Nat) : Bool :=
  bitOf (x.cfgWord 0x40).toNat 31 && !bitOf (x.cfgWord 0x40).toNat 30 && !bitOf (x.cfgWord (0x80C + 16 * v)).toNat 0

/-- A vector is signalled: its message leaves by the port of the last configuration request when open, as 4 bytes of CXL.io payload,
else it is held pending (13 R406, 17 Table 17-5). -/
def State.msixSignal (s : State) (k v : Nat) : State :=
  let x := s.ld k
  if x.msixOpen v then
    (s.setLd k { x with msixSent := SMap.set (dflt 0) x.msixSent v (SMap.get (dflt 0) x.msixSent v + 1),
                        msixMsg := SMap.set (dflt none) x.msixMsg v (some (x.msixEntry v)) }).meter x.port 4 1 4
  else s.setLd k { x with msixPend := nsAdd x.msixPend v }

/-- A queue notification's vector (13 R406): 0 and those above 15 are not sent and set NOVEC. -/
def State.msixNotify (s : State) (k v : Nat) : State :=
  if v = 0 ∨ 15 < v then s.cxSticky (s.ld k).port 6 else s.msixSignal k v

def logNum : EvLog → Nat
  | .info => 0
  | .warning => 1
  | .failure => 2
  | .fatal => 3

def LdS.log (x : LdS) : EvLog → List EvRec
  | .info => x.info
  | .warning => x.warning
  | .failure => x.failure
  | .fatal => x.fatal

def LdS.setLog (x : LdS) (l : EvLog) (r : List EvRec) : LdS :=
  match l with
  | .info => { x with info := r }
  | .warning => { x with warning := r }
  | .failure => { x with failure := r }
  | .fatal => { x with fatal := r }

/-- A record is posted to one logical device's log, or dropped with its overflow counted; vector 0 under the policy
(13 R404, R406). -/
def State.postEvent (s : State) (k : Nat) (l : EvLog) (media : Bool) (a b : Nat) : State :=
  let x := s.ld k
  if 64 ≤ (x.log l).length then
    (s.setLd k { x with overflow := SMap.set (dflt 0) x.overflow (logNum l) (SMap.get (dflt 0) x.overflow (logNum l) + 1) }).cxSticky
      x.port 5
  else
    let r : EvRec := ⟨x.nextHandle, media, a, b, s.nowNs⟩
    let x := { x.setLog l (x.log l ++ [r]) with nextHandle := x.nextHandle % 65535 + 1 }
    let s := { s.setLd k x with fresh := s.fresh + 1 }
    if bitOf x.policy (logNum l) then s.msixSignal k 0 else s

/-- A record posted to several logical devices. -/
def State.postAll (s : State) (ks : List Nat) (l : EvLog) (a b : Nat) : State :=
  ks.foldl (fun s k => s.postEvent k l false a b) s

/-- The device changes state; changes to RUN, DEGRADED and HOLD post an Informational event to every host logical device
(13 Table 13-4, 14 R418). -/
def State.setDev (s : State) (v : Nat) : State :=
  let s' := { s with dev := v }
  if v ≠ s.dev ∧ (v = 3 ∨ v = 4 ∨ v = 5) then s'.postAll (upTo 15) .info v 0 else s'

/-- A hub fenced or a channel failed: a Failure event in every log owner, the FM-owned one included (13 Table 13-4). -/
def State.postFailure (s : State) (what unit : Nat) : State := s.postAll (upTo 16) .failure what unit

/-- The device enters DEGRADED from RUN; in HOLD it is where HOLD will return to (15 R437, 14 R418). -/
def State.degrade (s : State) : State :=
  if s.dev = 3 then s.setDev 4 else if s.dev = 5 then { s with devBack := 4 } else s

end Sys2Proof.Machine
end

