-- ==== Sys2Proof/Machine/Walk.lean ====
section
/-! DEFINITION. Block translation: table entries, copies, the walk, permissions, A and D updates, and the commands of
chapter 09 (09 R285-R299, R306). -/

namespace Sys2Proof.Machine
open Sys2Proof

/-! ### Entries and copies -/

/-- A field of a block-table entry or copy (09 Table 9-2). -/
def btField (e : BitVec 128) (lsb w : Nat) : Nat := bitsOf e.toNat lsb w
def btV (e : BitVec 128) : Bool := btField e 0 1 == 1
def btSize (e : BitVec 128) : Nat := btField e 10 6
def btDom (e : BitVec 128) : Nat := btField e 16 4
/-- Virtual and physical base, the bits below SIZE taken as 0 (09 R292). -/
def btVBase (e : BitVec 128) : Nat := btField e 32 32 * 4096 / 2 ^ btSize e * 2 ^ btSize e
def btPBase (e : BitVec 128) : Nat := btField e 64 32 * 4096 / 2 ^ btSize e * 2 ^ btSize e
def btIndex (e : BitVec 128) : Nat := btField e 96 8

/-- An address lies in the entry's block. -/
def btHolds (e : BitVec 128) (va : Nat) : Bool := btVBase e ≤ va && va < btVBase e + 2 ^ btSize e

/-- A valid entry of domain `dom`'s table is malformed (09 R289). -/
def btMalformed (e : BitVec 128) (dom : Nat) : Bool :=
  btSize e < 12 || 42 < btSize e || btField e 32 32 * 4096 % 2 ^ btSize e != 0 ||
  btField e 64 32 * 4096 % 2 ^ btSize e != 0 || btDom e != dom || btField e 20 12 != 0 || btField e 96 32 != 0

/-- An entry with one of its low bits set: A is bit 1, D is bit 2. -/
def btSet (e : BitVec 128) (i : Nat) : BitVec 128 := e ||| BitVec.ofNat 128 (2 ^ i)
def btClear (e : BitVec 128) (i : Nat) : BitVec 128 := e &&& ~~~BitVec.ofNat 128 (2 ^ i)

/-- An entry as a copy with its INDEX (09 R290). -/
def btCopy (e : BitVec 128) (i : Nat) : BitVec 128 := BitVec.ofNat 128 (e.toNat % 2 ^ 96 + 2 ^ 96 * (i % 256))

/-- Requesters are numbered: 0-13 the DMA engines, 14 and 15 the CXL ports, 16 + c core c. -/
def walkerReq : Walker → Nat
  | .dma e => e.val
  | .cxl h => 14 + h.val
  | .core c => 16 + c.val

/-- The die or hub of a DMA engine: engines 0 and 1 are the hubs', 2 + 2n + j engine j of Ln (11 R344). -/
def engDie (e : Nat) : Nat := if e < 2 then e else 2 + (e - 2) / 2

/-- The register base of a DMA engine (11 R344). -/
def engBase (e : Nat) : Nat := if e < 2 then hubReg e 5 else dieReg (engDie e) ((e - 2) % 2)

/-- The die whose DTB registers a requester's walker uses (09 R285). -/
def reqDie (r : Nat) : Nat := if r < 14 then engDie r else if r < 16 then r - 14 else coreDie (r - 16)

/-- A requester's walker's master ID (01 Table 1-10). -/
def reqWalkMid (r : Nat) : Nat :=
  if r < 2 then mid r 7 2 0
  else if r < 14 then mid (engDie r) 31 2 (1 + (r - 2) % 2)
  else if r < 16 then mid (r - 14) 12 2 0
  else walkerMid (r - 16)

/-- Copy `i` of a requester for a domain; a core's block registers serve every domain (09 R290). -/
def State.copyAt (s : State) (r dom i : Nat) : BitVec 128 :=
  if r < 16 then SMap.get (dflt 0) s.walkCopies ((r * 16 + dom) * 8 + i)
  else
    let c := s.core (r - 16)
    SMap.get sysReset c.sys (0x181 + 2 * i) ++ SMap.get sysReset c.sys (0x180 + 2 * i)

def State.setCopy (s : State) (r dom i : Nat) (e : BitVec 128) : State :=
  if r < 16 then { s with walkCopies := SMap.set (dflt 0) s.walkCopies ((r * 16 + dom) * 8 + i) e }
  else
    s.modCore (r - 16) fun c =>
      { c with sys := SMap.set sysReset (SMap.set sysReset c.sys (0x180 + 2 * i) (e.setWidth 64)) (0x181 + 2 * i)
                 ((e >>> 64).setWidth 64) }

def State.copyPtr (s : State) (r dom : Nat) : Nat :=
  if r < 16 then SMap.get (dflt 0) s.walkPtr (r * 16 + dom) else (s.core (r - 16)).btPtr

def State.setCopyPtr (s : State) (r dom p : Nat) : State :=
  if r < 16 then { s with walkPtr := SMap.set (dflt 0) s.walkPtr (r * 16 + dom) p }
  else s.modCore (r - 16) fun c => { c with btPtr := p }

/-- The lowest-numbered copy that serves an access (09 R291). -/
def State.findCopy (s : State) (r dom va : Nat) : Option Nat :=
  (upTo 8).find? fun i => let e := s.copyAt r dom i; btV e && btDom e == dom && btHolds e va

/-- A walked entry is placed: lowest-numbered invalid copy, else the round-robin victim (09 R291). -/
def State.placeCopy (s : State) (r dom : Nat) (e : BitVec 128) : State :=
  match (upTo 8).find? (fun i => !btV (s.copyAt r dom i)) with
  | some i => s.setCopy r dom i e
  | none => (s.setCopy r dom (s.copyPtr r dom) e).setCopyPtr r dom ((s.copyPtr r dom + 1) % 8)

/-! ### The walk (09 R293, R294) -/

/-- The walker's attributes (09 R294). -/
def walkAttr (r dom : Nat) : Attr := ⟨reqWalkMid r, dom, 1, 3⟩

/-- How a walk ends: an entry with its index, or a reason and a walk address (09 Table 9-3). -/
inductive WalkRes where
  | hit (i : Nat) (e : BitVec 128)
  | fail (reason addr : Nat)
deriving DecidableEq, Repr

/-- The scan of entries `i` up to COUNT, `n` of them left; each 64-byte line is one read (09 R293). -/
def State.walkScan (r dom tbase va : Nat) : Nat → Nat → Option (Nat × BitVec 128) → State → WalkRes × State
  | 0, i, hit, s =>
    match hit with
    | none => (.fail 1 (tbase + 16 * i), s)
    | some (j, e) => (.hit j e, s)
  | n + 1, i, hit, s =>
    let a := tbase + 16 * i
    if !(s.inDram a && s.inDram (a + 15)) then (.fail 6 a, s)
    else
      let line (s : State) : BusRes × State :=
        if i % 4 = 0 then
          let (res, s) := s.busRead (walkAttr r dom) kWalkRead a (16 * min 4 (n + 1))
          (res.1, s)
        else (.ok, s)
      match line s with
      | (.ok, s) =>
        let e : BitVec 128 := BitVec.ofNat 128 (leNat (s.peek a 16))
        if !btV e then State.walkScan r dom tbase va n (i + 1) hit s
        else if btMalformed e dom then (.fail 3 a, s)
        else if btHolds e va then
          match hit with
          | some _ => (.fail 2 a, s)
          | none => State.walkScan r dom tbase va n (i + 1) (some (i, e)) s
        else State.walkScan r dom tbase va n (i + 1) hit s
      | (.uncorr, s) => (.fail 9 a, s)
      | (_, s) => (.fail 5 a, s)

/-- How an update of an entry ends: made, not made because the compare failed, or refused with a reason of 09 Table 9-3. -/
inductive UpdRes where
  | made | differs
  | refused (reason : Nat)
deriving DecidableEq, Repr

/-- A compare-and-set of one entry: place, gate, read, compare, write (09 R293, R294, R297). -/
def State.entryUpdate (s : State) (r dom a : Nat) (old new : BitVec 128) : UpdRes × State :=
  if !(s.inDram a && s.inDram (a + 15)) then (.refused 6, s)
  else
    match s.reaches (walkAttr r dom) kWalkUpdate a with
    | (.ok, s) =>
      if s.uncorr a 16 then (.refused 9, s.ueMet a)
      else if BitVec.ofNat 128 (leNat (s.peek a 16)) = old then
        (.made,
          let s := ((s.countDram (walkAttr r dom) a 16 true).tagTouch (walkAttr r dom) a).performed (walkAttr r dom) a 16 16
          (s.store a (natLE 16 new.toNat) none).tagsThrough s (walkAttr r dom) a 16)
      else (.differs, s)
    | (_, s) => (.refused 7, s)

/-- DTBd of a requester's die (09 Table 9-1). -/
def State.dtb (s : State) (d dom : Nat) : Word := s.rg (gateBlock d + 0xF000 + 8 * dom)

/-- The walk fault is counted, recorded if it is the die's first, and reported (09 R295). -/
def State.walkFault (s : State) (r dom va reason addr : Nat) : State :=
  let d := reqDie r
  let g := gateBlock d
  let s := s.count d (gateUnit d) 7 3 1 ⟨some (reqWalkMid r), some 1, some addr⟩
  let s :=
    if s.bit (g + 0xF110) 63 then s
    else ((s.setRg (g + 0xF100) (BitVec.ofNat 64 (va % 2 ^ 44))).setRg (g + 0xF108) (BitVec.ofNat 64 (addr % 2 ^ 44))).setRg
      (g + 0xF110) (BitVec.ofNat 64 (reqWalkMid r + 2 ^ 16 * dom + 2 ^ 20 * reason + 2 ^ 63))
  s.troubleWalk d

/-- A walk for a domain whose table is enabled: scan, A update, placement (09 R293). `none` is a success. -/
def State.walk (s : State) (r dom va : Nat) : Option (Nat × Nat) × State :=
  let d := reqDie r
  let s := s.count d (gateUnit d) 7 2 1 ⟨some (reqWalkMid r), some 1, some va⟩
  let dtb := s.dtb d dom
  let fail (reason addr : Nat) (s : State) : Option (Nat × Nat) × State :=
    (some (reason, addr), s.walkFault r dom va reason addr)
  if getBits dtb 63 1 = 0 then fail 4 0 s
  else
    let tbase := getBits dtb 12 32 * 4096
    match State.walkScan r dom tbase va (getBits dtb 0 9) 0 none s with
    | (.fail reason addr, s) => fail reason addr s
    | (.hit i e, s) =>
      if btField e 1 1 = 1 then (none, s.placeCopy r dom (btCopy e i))
      else
        match s.entryUpdate r dom (tbase + 16 * i) e (btSet e 1) with
        | (.made, s) => (none, s.placeCopy r dom (btCopy (btSet e 1) i))
        | (.refused reason, s) => fail reason (tbase + 16 * i) s
        | (.differs, s) => fail 8 (tbase + 16 * i) s

/-- The address of the entry that a copy names (09 R297). -/
def State.entryOf (s : State) (r dom i : Nat) : Nat :=
  getBits (s.dtb (reqDie r) dom) 12 32 * 4096 + 16 * btIndex (s.copyAt r dom i)

/-- The D update of copy `i` (09 R297): done; refused; or the compare failed and the copy is discarded. -/
def State.dirty (s : State) (r dom i : Nat) : UpdRes × State :=
  let e := s.copyAt r dom i
  let mem : BitVec 128 := BitVec.ofNat 128 (e.toNat % 2 ^ 96)
  match s.entryUpdate r dom (s.entryOf r dom i) (btClear mem 2) (btSet mem 2) with
  | (.made, s) => (.made, s.setCopy r dom i (btSet e 2))
  | (.differs, s) => (.differs, s.setCopy r dom i (btClear e 0))
  | (res, s) => (res, s)

/-! ### Translation (09 R287, R296) -/

/-- What an access needs of its block (09 Table 9-4). -/
inductive Need where
  | read | write | both | exec | latch | any
deriving DecidableEq, Repr

/-- A translated access, or its cause and EVAL. -/
inductive XRes where
  | ok (phys : Nat) (device : Bool)
  | fault (cause addr : Nat)
deriving DecidableEq, Repr

/-- Identity translation's memory type: device for the die register blocks, hub offsets 0x01_0000_0000 and above, and the register
part of every cluster, comet and stream-pair window; normal everywhere else (09 R287). -/
def identityDevice (a : Nat) : Bool :=
  if 0xC0000000000 ≤ a ∧ a < 0xC6000000000 then
    let off := a % 0x1000000000
    (0xF00000000 ≤ off && off < 0xF00000000 + 11 * 0x10000) ||
      (((0x100000000 ≤ off && off < 0x100000000 + 25 * 0x1000000) || (0x200000000 ≤ off && off < 0x200000000 + 6 * 0x1000000)) &&
        0xF00000 ≤ off % 0x1000000)
  else if 0xE0000000000 ≤ a ∧ a < 0xF0000000000 then 0x100000000 ≤ a % 0x8000000000
  else false

/-- The permission bits of a block for an access (09 R296, Table 9-4). -/
def permits (e : BitVec 128) (priv : Nat) (n : Need) : Bool :=
  let b := if priv = 0 then 4 else 7
  let bit (i : Nat) : Bool := btField e i 1 == 1
  let dev := bit 3
  match n with
  | .read => bit b
  | .write => bit (b + 1)
  | .both => bit b && bit (b + 1) && !dev
  | .exec => bit (b + 2) && !dev
  | .latch => bit (b + 1) && !dev
  | .any => true

/-- The access writes, so that a copy with D = 0 is updated first (09 R297). -/
def Need.writes : Need → Bool
  | .write | .both => true
  | _ => false

/-- One access through copies and walks (09 R291, R296, R297). Each retry but the first follows the loss of a stale copy, of which
there are at most eight, so `fuel` never runs out. -/
def State.translateGo (r dom priv va : Nat) (n : Need) : Nat → State → XRes × State
  | 0, s => (.fault 0x06 0, s)
  | fuel + 1, s =>
    match s.findCopy r dom va with
    | none =>
      match s.walk r dom va with
      | (none, s) => State.translateGo r dom priv va n fuel s
      | (some (_, addr), s) => (.fault 0x06 addr, s)
    | some i =>
      let e := s.copyAt r dom i
      if !permits e priv n then (.fault 0x07 va, s)
      else
        let phys := btPBase e + (va - btVBase e)
        let dev := btField e 3 1 == 1
        if n.writes && btField e 2 1 == 0 then
          let a := s.entryOf r dom i
          match s.dirty r dom i with
          | (.made, s) => (.ok phys dev, s)
          | (.differs, s) =>
            match s.walk r dom va with
            | (none, s) => State.translateGo r dom priv va n fuel s
            | (some (_, addr), s) => (.fault 0x06 addr, s)
          | (.refused reason, s) => (.fault 0x06 a, s.walkFault r dom va reason a)
        else (.ok phys dev, s)

/-- Block translation of one access of a requester (09 R287, R291). Self aliases are replaced in the result (01 R31). -/
def State.translate (s : State) (r dom priv va : Nat) (n : Need) : XRes × State :=
  let m := if r < 16 then reqWalkMid r else coreMid (r - 16)
  if dom = 0 ∧ getBits (s.dtb (reqDie r) 0) 63 1 = 0 then
    let a := selfAlias m va
    let dev := identityDevice a
    if dev && (n == .both || n == .exec || n == .latch) then (.fault 0x07 va, s) else (.ok a dev, s)
  else
    match State.translateGo r dom priv va n 18 s with
    | (.ok a dev, s) => (.ok (selfAlias m a) dev, s)
    | x => x

/-! ### The commands -/

/-- BLOCK_WALK (09 R293): a requester walks for an address; with identity translation in force it makes no walk. -/
def execBlockWalk (w : Walker) (dom : BitVec 4) (va : BitVec 44) (s : State) : Host.Outcome State Fault Refusal :=
  let r := walkerReq w
  if dom.toNat = 0 ∧ getBits (s.dtb (reqDie r) 0) 63 1 = 0 then .next s
  else .next (s.attempt fun s => (s.walk r dom.toNat va.toNat).2)

/-- The D update of a copy before the write that needs it leaves; after a failed compare the requester walks again (09 R297). The
command names no address: the walk, and a record of TFVA, have the base of the copy's block (DESIGN CHOICE, assumption 100). -/
def State.dirtyStep (s : State) (r d i : Nat) : State :=
  let va := btVBase (s.copyAt r d i)
  let a := s.entryOf r d i
  match s.dirty r d i with
  | (.made, s) => s
  | (.differs, s) => (s.walk r d va).2
  | (.refused reason, s) => s.walkFault r d va reason a

/-- DIRTY_UPDATE (09 R297): the first write through a copy whose D bit is 0 updates the entry before it leaves; a copy that is
invalid or already dirty makes no update. A copy stays in use though DTBd has changed (09 R298); while DTB0.EN is 0 domain 0 has
identity translation and uses no copy (09 R287). -/
def execDirtyUpdate (w : Walker) (dom : BitVec 4) (copy : Fin 8) (s : State) : Host.Outcome State Fault Refusal :=
  let r := walkerReq w
  let e := s.copyAt r dom.toNat copy.val
  let d := btDom e
  if !btV e || btField e 2 1 == 1 then .next s
  else if d = 0 ∧ getBits (s.dtb (reqDie r) d) 63 1 = 0 then .next s
  else .next (s.attempt fun s => s.dirtyStep r d copy.val)

/-- GVINFO_CLEAR (09 R306): 1 written to GVINFO.VALID clears VALID, COUNT and SAT together. -/
def State.gvinfoClear (s : State) (d g : Nat) : State :=
  (s.setBit (gateReg d g + 0x18) 63 false).setRg (gateReg d g + 0x20) 0

/-- GVINFO_CLEAR as a command of its own; a gate number that the die or hub does not have changes nothing. -/
def execGvinfoClear (d : Fin 8) (g : Fin 100) (s : State) : Host.Outcome State Fault Refusal :=
  if (d.val < 2 ∧ 24 ≤ g.val) ∨ s.dieActs d.val = false then .next s else .next (s.gvinfoClear d.val g.val)

/-- The requesters of a die or hub that XBINV names: its DMA engines and, on a hub, its CXL port. -/
def xbinvReqs (d : Nat) : List Nat := if d < 2 then [d, 14 + d] else [2 * d - 2, 2 * d - 1]

/-- XBINV (09 Table 9-8): the copies of the named domains held by the die's engines are discarded. -/
def State.xbinv (s : State) (d doms : Nat) : State :=
  { s with walkCopies := s.walkCopies.filter fun p =>
      !((xbinvReqs d).contains (p.1 / 128) && bitOf doms (p.1 / 8 % 16)) }

/-- XBINV as a command. -/
def execXbinv (d : Fin 8) (doms : BitVec 16) (s : State) : Host.Outcome State Fault Refusal :=
  if s.dieActs d.val then .next (s.xbinv d.val doms.toNat) else .next s

end Sys2Proof.Machine
end

