-- ==== Sys2Proof/Machine/Dram.lean ====
section
/-! DEFINITION. The memory controllers: errors, poison, patrol scrub, failed channels and the initialisation sweep
(10 R316-R324), and what the hubs show of the logical devices (13 R388, R401). -/

namespace Sys2Proof.Machine
open Sys2Proof

/-! ### Allocations and mappings (13 R388, R392, R393) -/

/-- A CXL port's link is up, with a switch partner or not. -/
def State.cxlUp (s : State) (h : Nat) : Bool := s.dieActs h && s.bit (hubReg h 9) 0
def State.cxlMld (s : State) (h : Nat) : Bool := s.bit (hubReg h 9) 7

/-- Some port operates as a Multi-Logical Device. -/
def State.mldUp (s : State) : Bool := (upTo 2).any fun h => s.cxlUp h && s.cxlMld h

/-- Ak in units of 256 MiB: LD 0 of a single logical device has the whole usable capacity (13 R388). -/
def State.ak (s : State) (k : Nat) : Nat :=
  if k = 0 ∧ !s.mldUp ∧ (s.cxlUp 0 || s.cxlUp 1) = true then s.shape.usable / 2 ^ 28 else (s.ld k).alloc

/-- The valid entries of a domain's block table, as the active hub's DTB register points at it. -/
def State.tableEntries (s : State) (d : Nat) : List (BitVec 128) :=
  let r := s.dtb s.active d
  if getBits r 63 1 = 0 then []
  else
    ((upTo (getBits r 0 9)).map fun i => BitVec.ofNat 128 (leNat (s.peek (getBits r 12 32 * 4096 + 16 * i) 16))).filter fun e =>
      btV e && !btMalformed e d

/-- The DPAs of logical device k at which its domain's table maps a physical word, below Ak. -/
def State.dpasOf (s : State) (k a : Nat) : List Nat :=
  (s.tableEntries (k + 1)).filterMap fun e =>
    let v := btVBase e + (a - btPBase e)
    if btPBase e ≤ a ∧ a < btPBase e + 2 ^ btSize e ∧ v < s.ak k * 2 ^ 28 then some v else none

/-! ### Errors (10 R319-R321, R323) -/

/-- A channel fails (10 R323). -/
def State.chanFail (s : State) (h m : Nat) : State :=
  if s.chanFailed h m then s
  else ((((s.setFld (mcReg h m + 8) 0 3 2).mcSticky h m 5).soleShow).postFailure 2 (4 * h + m)).degrade

/-- A copy of the word at `a` found uncorrectable on a controller; the sixty-fourth distinct word fails the channel. -/
def State.uncorrected (s : State) (h m a : Nat) (dev : Nat) (sub dimm : Bool) (rank : Nat) (b : EvAttr) : State :=
  let r := mcReg h m
  let s := ((s.addSat (r + 0x20) 32 32 1).mcSticky h m 1).count h (4 + m) 4 3 1 b
  let s := if s.bit (r + 0x18) 63 then s
    else s.setRg (r + 0x18) (BitVec.ofNat 64 (a + 2 ^ 48 * dev + 2 ^ 52 * b2n sub + 2 ^ 53 * b2n dimm + 2 ^ 54 * rank + 2 ^ 63))
  let ws := nsAdd (SMap.get (dflt []) s.ueWords (4 * h + m)) (a / 64)
  let s := { s with ueWords := SMap.set (dflt []) s.ueWords (4 * h + m) ws }
  if 64 ≤ ws.length then s.chanFail h m else s

/-- A word is poisoned (10 R320): the home controller lists it, and a logical device that maps it has a Failure event. A word
already poisoned stays as it is. -/
def State.poisonWord (s : State) (a : Nat) : State :=
  let w := a / 64
  let h := s.homeHub a
  let m := s.shape.pair a
  let r := mcReg h m
  if nsMem s.poison w then s
  else
    let s := ({ s with poison := nsAdd s.poison w }.clearTags (granulesOf (64 * w) 64)).mcSticky h m 2
    match (upTo 256).find? fun i => !s.bit (r + 0x100 + 8 * i) 63 with
    | none => s.mcSticky h m 6
    | some i =>
      let s := (s.setRg (r + 0x100 + 8 * i) (BitVec.ofNat 64 (64 * w + 2 ^ 63))).setFld (r + 0x30) 0 9 (s.fld (r + 0x30) 0 9 + 1)
      (upTo 15).foldl (fun s k => match s.dpasOf k (64 * w) with
        | [] => s
        | dpa :: _ => s.postEvent k .failure true dpa 0) s

/-- How a controller meets a copy: whether it holds good data after correction. -/
def State.meetCopy (s : State) (h m a : Nat) (e : Ecc) (b : EvAttr) : Bool × State :=
  match e with
  | .good => (true, s)
  | .corrected => (true, (s.corrected h m b).meter h m 1 64)
  | .bad dev sub dimm rank => (false, s.uncorrected h m a dev.toNat sub dimm rank.toNat b)

/-- The copies of a word in service, the home hub's first: the hubs whose channel holds one. -/
def State.copiesOf (s : State) (a : Nat) : List Nat :=
  let p := s.shape.pair a
  let h := s.homeHub a
  if s.shape.mirrored then [h, 1 - h].filter fun x => s.chanServes x p
  else [s.shape.home a].filter fun x => s.chanServes x p

/-- A word is read from its copies in turn: the first good one serves and repairs those before it (10 R318). `partnerRead` says that
the copy is not the first, and passes the meters. -/
def State.serveCopies (a : Nat) (b : EvAttr) : List (Nat × Ecc) → List Nat → State → Bool × State
  | [], _, s => (false, s)
  | (h, e) :: rest, bads, s =>
    let p := s.shape.pair a
    let s := if bads.isEmpty then s else s.meter h p 0 64
    match s.meetCopy h p a e b with
    | (true, s) => (true, bads.foldl (fun s x => if s.chanServes x p then s.meter x p 1 64 else s) s)
    | (false, s) => State.serveCopies a b rest (bads ++ [h]) s

/-- A word is read at its home controller: an unmarked chunk reads as zeros without DRAM; else the first good copy serves, and a word
with none is poisoned (10 R315-R320, R324). None is the outcome of 01 R17. -/
def State.wordRead (s : State) (b : Attr) (a : Nat) (home partner : Ecc) : Option (List Byte) × State :=
  let ev : EvAttr := ⟨some b.master, some b.priv, some a⟩
  let h := s.homeHub a
  let fail (s : State) : Option (List Byte) × State := (none, (s.count h (4 + s.shape.pair a) 4 5 1 ev).ueMet a)
  if !s.chunkMarked a then (some (natLE 64 0), s)
  else
    let s := (s.countDram b a 64 false).tagTouch b a
    if nsMem s.poison (a / 64) then fail s
    else
      match s.copiesOf a with
      | [] => fail s
      | cs =>
        match State.serveCopies a ev (cs.map fun x => (x, if x = h then home else partner)) [] s with
        | (true, s) => (some (s.peek a 64), s)
        | (false, s) => fail (s.poisonWord a)

/-- DRAM_READ (10 R315-R320): one word read at its home controller; `home` and `partner` are the states of the home hub's copy and
of the other. -/
def execDramRead (b : BusAttr) (a : BitVec 44) (home partner : Ecc) (s : State) : Host.Outcome State Fault Refusal :=
  let a := a.toNat / 64 * 64
  if !s.inDram a then .next s
  else
    .next (s.attempt fun s =>
      match s.reaches (busAttrOf b) kRead a with
      | (.ok, s) =>
        match s.wordRead (busAttrOf b) a home partner with
        | (some bs, s) => { s.performed (busAttrOf b) a 0 64 with resp := .bus true bs }
        | (none, s) => { s with resp := .bus false [] }
      | (_, s) => { s with resp := .bus false [] })

/-! ### Writes (10 R317, R321, R324) -/

/-- The runs of enabled bytes of a line: offset and length. -/
def maskRuns (mask : Nat) : Nat → Nat → List (Nat × Nat)
  | 0, _ => []
  | n + 1, i =>
    match maskRuns mask n (i + 1) with
    | (o, l) :: rest => if bitOf mask i then (if o = i + 1 then (i, l + 1) :: rest else (i, 1) :: (o, l) :: rest) else (o, l) :: rest
    | [] => if bitOf mask i then [(i, 1)] else []

/-- The enabled bytes of a line are written as one transaction: memory, or register words, whose effects are posted. A DRAM address
that no channel in service holds has the outcome of 01 R17 (10 R323). -/
def State.maskWrite (s : State) (b : Attr) (a mask : Nat) (data : BitVec 512) : BusRes × State :=
  match s.reaches b kWrite a with
  | (.ok, s) =>
    let runs := maskRuns mask 64 0
    let bs := natLE 64 data.toNat
    let part (r : Nat × Nat) : List Byte := (bs.drop r.1).take r.2
    if runs.isEmpty then (.ok, s)
    else if isRegPlace (s.loc a) then (.ok, runs.foldl (fun s r => s.regPoke b (a + r.1) (part r)) (s.performed b a 64 0))
    else if s.inDram a && s.dramDown a then (.uncorr, s.ueMet a)
    else
      let s := (((s.countDram b a 64 true).countSram b a 64 true).tagTouch b a).performed b a 64 0
      (.ok, (runs.foldl (fun s r => s.store (a + r.1) (part r) none) s).tagsThrough s b a 64)
  | (r, s) => (r, s)

/-- A partial write reads the word first; one that finds every copy in service uncorrectable poisons it (10 R320). -/
def State.partialCheck (s : State) (b : Attr) (a : Nat) (home partner : Ecc) : State :=
  if nsMem s.poison (a / 64) || !s.chunkMarked a then s
  else
    match s.copiesOf a with
    | [] => s
    | cs =>
      match State.serveCopies a ⟨some b.master, some b.priv, some a⟩ (cs.map fun x => (x, if x = s.homeHub a then home else partner)) [] s with
      | (true, s) => s
      | (false, s) => s.poisonWord a

/-- DRAM_WRITE (10 R316, R317, R320, R321): the enabled bytes of one word written at its home controller, into every copy in
service. -/
def execDramWrite (b : BusAttr) (a : BitVec 44) (mask : BitVec 64) (data : LineWrite) (s : State) : Host.Outcome State Fault Refusal :=
  let a := a.toNat / 64 * 64
  if !s.inDram a then .next s
  else
    .next (s.attempt fun s =>
      let partly := mask != 0 && mask != BitVec.allOnes 64
      let s := match s.reaches (busAttrOf b) kWrite a with
        | (.ok, _) => if partly then s.partialCheck (busAttrOf b) a data.home data.partner else s
        | _ => s
      let (r, s) := s.maskWrite (busAttrOf b) a mask.toNat data.bits
      { s with resp := .bus (r == .ok) [] })

/-! ### Patrol scrub (10 R322) -/

/-- The logical address at a channel offset of controller (h, m): the one whose pair, home and offset are these. -/
def MemShape.addrAt (x : MemShape) (h m off : Nat) : Nat :=
  let g := x.gran
  let hb := max (g + 2) 13
  let up (lsb w v ins : Nat) : Nat := v / 2 ^ lsb * 2 ^ (lsb + w) + ins * 2 ^ lsb + v % 2 ^ lsb
  let cands := if x.mirrored then (upTo 4).map fun i => up g 2 off i
    else (upTo 8).map fun i => up g 2 (up (hb - 2) 1 off (i / 4)) (i % 4)
  (cands.find? fun a => x.pair a == m && (x.mirrored || x.home a == h) && x.chanOff a == off).getD 0

/-- PATROL_SCRUB_WORD (10 R322): the next word of a channel; `own` and `partner` are the states of its copies. -/
def execPatrolScrubWord (h : Fin 2) (m : Fin 4) (own partner : Ecc) (s : State) : Host.Outcome State Fault Refusal :=
  let r := mcReg h.val m.val
  if !s.dieActs h.val || !s.chanServes h.val m.val then .next s
  else
    let pos := s.fld (r + 0x28) 0 44
    let a := s.shape.addrAt h.val m.val pos
    let ev : EvAttr := ⟨some (mid h.val 11 2 0), some 1, some a⟩
    let next := pos + 64
    let s := if s.shape.raw / 8 ≤ next then (s.setFld (r + 0x28) 0 44 0).addSat (r + 0x28) 48 16 1 else s.setFld (r + 0x28) 0 44 next
    if !s.chunkMarked a && decide (a < s.shape.usable) then .next s
    else
      let s := s.meter h.val m.val 0 64
      let cs := if s.shape.mirrored && s.chanServes (1 - h.val) m.val then [(h.val, own), (1 - h.val, partner)] else [(h.val, own)]
      if nsMem s.poison (a / 64) then .next s
      else
        match State.serveCopies a ev cs [] s with
        | (true, s) => .next s
        | (false, s) =>
          if s.shape.usable ≤ a then .next (s.tagWordLost a) else .next ((s.poisonWord a).mcSticky h.val m.val 2)

/-! ### Failed channels and the sweep (10 R323, R324) -/

/-- CHANNEL_FAIL (10 R323). -/
def execChannelFail (h : Fin 2) (m : Fin 4) (s : State) : Host.Outcome State Fault Refusal :=
  if nsMem s.fenced h.val then .next s else .next (s.chanFail h.val m.val)

/-- PHY_OR_COMMAND_PARITY_FAULT (10 R323): retraining clears it, or the channel fails. -/
def execPhyOrCommandParityFault (h : Fin 2) (m : Fin 4) (clears : Bool) (s : State) : Host.Outcome State Fault Refusal :=
  if clears || nsMem s.fenced h.val then .next s else .next (s.chanFail h.val m.val)

/-- INIT_SWEEP_CHUNK (10 R324): the next chunk that no write has marked is zeroed and marked; after the last, INITDONE. -/
def execInitSweepChunk (s : State) : Host.Outcome State Fault Refusal :=
  let n := s.shape.cap / 2 ^ 20
  if n ≤ s.sweepNext then .next s
  else
    let c := s.sweepNext
    let s := if nsMem s.marked c then s
      else { s.meterChunk c with mem := memZero s.mem (c * 2 ^ 20) (2 ^ 20), tags := s.tags.filter fun t => t / 2 ^ 16 != c }
    let s := { s with sweepNext := c + 1, marked := nsDel s.marked c }
    if c + 1 = n then
      .next ((upTo 2).foldl (fun s h => (upTo 4).foldl (fun s m => s.setBit (mcReg h m) 9 true) s) s)
    else .next s

/-! ### Which logical devices answer (13 R388) -/

def cxReg (h : Nat) : Nat := hubReg h 9

/-- A logical device answers on a port: the FM-owned one and LDs above 0 only behind a switch (13 R388). -/
def State.ldOn (s : State) (h k : Nat) : Bool := s.cxlUp h && (s.cxlMld h || k == 0)
def State.ldUp (s : State) (k : Nat) : Bool := s.ldOn 0 k || s.ldOn 1 k

/-! ### What LDSTAT shows (13 Table 13-6) -/

/-- Issue from a hub's port is paused by R71. -/
def State.cxPaused (s : State) (h : Nat) : Bool := s.bit (cxReg h + 0x100) 3

/-- DevLoad of a queue depth (13 R401). -/
def devLoad (depth : Nat) (paused : Bool) : Nat :=
  if paused ∨ 56 ≤ depth then 3 else if 40 ≤ depth then 2 else if 16 ≤ depth then 1 else 0

/-- A port's request queue of a logical device (13 R400). -/
def LdS.queue (x : LdS) (h : Nat) : List HostReq := if h = 0 then x.queue0 else x.queue1
def LdS.setQueue (x : LdS) (h : Nat) (q : List HostReq) : LdS := if h = 0 then { x with queue0 := q } else { x with queue1 := q }

/-- LDSTAT of a logical device on both hubs. -/
def State.ldShow (s : State) (k : Nat) : State :=
  let x := s.ld k
  (upTo 2).foldl (fun s h =>
    if nsMem s.fenced h then s
    else
      let a := cxReg h + 0x100 + 8 * k
      let p := s.bit a 3
      let n := (x.queue h).length
      s.setRg a (BitVec.ofNat 64 (b2n (bitOf (x.cfgWord 4).toNat 1) + 2 * (b2n x.dec0.isSome + b2n x.dec1.isSome) + 8 * b2n p +
        16 * min 64 n + 2 ^ 11 * (s.ak k % 2 ^ 15) + 2 ^ 26 * devLoad n p))) s

/-- A change of Ak moves the CDAT sequence number on (13 R407). -/
def State.akMoved (s : State) (old : List Nat) : State :=
  (upTo 15).foldl (fun s k =>
    let s := if s.ak k = old.getD k 0 then s else s.modLd k fun x => { x with cdatSeq := x.cdatSeq + 1 }
    s.ldShow k) s

def State.aks (s : State) : List Nat := (upTo 15).map s.ak

end Sys2Proof.Machine
end

