-- ==== Sys2Proof/Machine/Queue.lean ====
section
/-! DEFINITION. The queue engine: descriptors, doorbells, notification, links (11 R328-R343). Descriptors are read and
written in DRAM at once, so caching never shows. -/

namespace Sys2Proof.Machine
open Sys2Proof

/-- A little-endian number in memory. -/
def State.memNat (s : State) (a n : Nat) : Nat := leNat (s.peek a n)

/-- The descriptor of queue (d, q) (11 R328); both hubs hold the same QTBASE (11 R342). A self alias is replaced by the engine half that
issues it (01 R31). -/
def State.qAddr (s : State) (d q : Nat) : Nat :=
  let a := s.fld (hubReg s.active 4 + 0x1010) 24 20 * 2 ^ 24 + 64 * (16384 * d + q)
  selfAlias (mid (s.homeHub a) 4 2 0) a

/-- The queue's home hub (11 R328). -/
def State.qHome (s : State) (d q : Nat) : Nat := s.homeHub (s.qAddr d q)

/-- A queue descriptor as the engine reads it (11 Table 11-1). -/
structure QDesc where
  ring : Cap
  head : Nat
  tail : Nat
  esz : Nat
  logn : Nat
  flags : Nat
  mode : Nat
  thresh : Nat
  notify : Nat
  link : Nat
  linkseq : Nat
  chan : Nat
  phys : Nat
deriving DecidableEq, Repr

def State.qDesc (s : State) (d q : Nat) : QDesc :=
  let a := s.qAddr d q
  { ring := s.capAt a, head := s.memNat (a + 0x10) 4, tail := s.memNat (a + 0x14) 4, esz := s.memNat (a + 0x18) 1,
    logn := s.memNat (a + 0x19) 1, flags := s.memNat (a + 0x1A) 1, mode := s.memNat (a + 0x1B) 1,
    thresh := s.memNat (a + 0x1C) 4, notify := s.memNat (a + 0x20) 4, link := s.memNat (a + 0x24) 4,
    linkseq := s.memNat (a + 0x28) 4, chan := s.memNat (a + 0x2C) 2, phys := s.memNat (a + 0x30) 8 }

/-- Entry size, ring length, count, modes (11 Table 11-1, R332). -/
def QDesc.entry (q : QDesc) : Nat := 16 * 2 ^ q.esz
def QDesc.n (q : QDesc) : Nat := 2 ^ q.logn
def QDesc.count (q : QDesc) : Nat := (q.tail + 2 ^ 32 - q.head) % 2 ^ 32
def QDesc.en (q : QDesc) : Bool := bitOf q.flags 0
def QDesc.armed (q : QDesc) : Bool := bitOf q.flags 1
def QDesc.npend (q : QDesc) : Bool := bitOf q.flags 2
def QDesc.pmode (q : QDesc) : Nat := bitsOf q.mode 0 2
def QDesc.cmode (q : QDesc) : Nat := bitsOf q.mode 2 2

/-- The address of the entry with an index (11 R332). -/
def QDesc.slot (q : QDesc) (j : Nat) : Nat := q.phys + 64 + q.entry * (j % q.n)

/-- The queue engine's attributes for a domain's queue (01 Table 1-14). -/
def qAttr (h d : Nat) : Attr := ⟨mid h 4 2 0, d, 1, 3⟩

/-- What a dropped transaction noted of a die in HOLD is forgotten. -/
def State.unstalled (s old : State) : State := { s with stalled := old.stalled }

/-- The home half reads a descriptor, as a transaction of its own: an operation on a queue whose descriptor it cannot read ends
with the error response (01 R35, 09 Table 9-10; assumption 79). -/
def State.qOpen (s : State) (d q : Nat) : Bool × State :=
  let a := s.qAddr d q
  match s.busRead (qAttr (s.homeHub a) d) kRead a 64 with
  | ((.ok, _), t) => (true, t)
  | (_, t) => (false, t.unstalled s)

/-- Granules of a ring read one by one, each with its tag (08 R274). -/
def State.qGranules (s : State) (b : Attr) (a : Nat) : Nat → Option (List Cap) × State
  | 0 => (some [], s)
  | n + 1 =>
    match State.qGranules s b a n with
    | (none, t) => (none, t)
    | (some gs, t) =>
      match t.busRead b kRead (a + 16 * n) 16 with
      | ((.ok, _), u) => (some (gs ++ [u.capAt (a + 16 * n)]), u)
      | (_, u) => (none, u)

/-- The engine writes bytes of a queue of domain `d`, behind the gate; one that gets an error response is dropped (01 R35, 09 Table 9-10). -/
def State.qWrite (s : State) (d a : Nat) (bs : List Byte) (tag : Option Bool) : State :=
  (s.busWrite (qAttr (s.homeHub a) d) kWrite a bs tag).2.unstalled s

/-- HEAD and TAIL written into the ring header, bytes 0-3 and 4-7 (11 R332). -/
def State.qHeader (s : State) (d q : Nat) : State :=
  let x := s.qDesc d q
  s.qWrite d x.phys (natLE 4 x.head ++ natLE 4 x.tail) none

/-- The engine writes HEAD or TAIL in the descriptor, then the ring header (11 R332). -/
def State.setHead (s : State) (d q v : Nat) : State :=
  (s.qWrite d (s.qAddr d q + 0x10) (natLE 4 (v % 2 ^ 32)) none).qHeader d q
def State.setTail (s : State) (d q v : Nat) : State :=
  (s.qWrite d (s.qAddr d q + 0x14) (natLE 4 (v % 2 ^ 32)) none).qHeader d q
def State.setQFlags (s : State) (d q v : Nat) : State := s.qWrite d (s.qAddr d q + 0x1A) (natLE 1 v) none

/-- An event of the queue engine half (17 Table 17-3 class 6). -/
def State.qCount (s : State) (d q ev : Nat) : State :=
  s.count (s.qHome d q) 9 6 ev 1 ⟨some (mid (s.qHome d q) 4 2 0), some 1, some (s.qAddr d q)⟩

/-- A queue can take an entry from the engine as producer of PMODE 1. -/
def QDesc.takes (q : QDesc) : Bool := q.en && q.pmode == 1 && q.count < q.n

/-- The sixteen bytes of a notice (11 R337). -/
def State.noticeBytes (s : State) (d q tail : Nat) : List Byte :=
  let t := s.die (s.qHome d q)
  natLE 2 q ++ natLE 1 d ++ natLE 1 0 ++ natLE 4 tail ++ natLE 8 (t.tide + 2 ^ 63 * b2n t.tideValid)

/-- The notify queue of a core, if notices for it are posted (11 Table 11-3 CORENQ). -/
def State.notifyQueue (s : State) (core : Nat) : Option Nat :=
  let v := s.rg (hubReg s.active 4 + 0x2000 + 8 * core)
  if bitOf v.toNat 15 then some (getBits v 0 14) else none

/-- Notification of a queue that may be due, and the append of an engine entry, which may make its own queue due;
`fuel` bounds that chain (11 R337). A notify queue whose descriptor the engine cannot read takes no notice, which waits (assumption 79). -/
def State.notifyGo : Nat → Nat → Nat → State → State
  | 0, _, _, s => s
  | fuel + 1, d, q, s =>
    let x := s.qDesc d q
    if x.en && x.armed && x.thresh ≤ x.count then
      let s := s.setQFlags d q (x.flags - 2)
      let s := s.qCount d q 2
      if bitsOf x.notify 0 2 = 2 then (if d = 0 then s else s.msixNotify (d - 1) (bitsOf x.notify 10 16))
      else if bitsOf x.notify 0 2 = 1 then
        match s.notifyQueue (bitsOf x.notify 2 8) with
        | none => s
        | some nq =>
          let (got, s) := s.qOpen 0 nq
          let y := s.qDesc 0 nq
          if got && y.takes then
            let s := s.qWrite 0 (y.slot y.tail) (s.noticeBytes d q x.tail) none
            State.notifyGo fuel 0 nq (s.setTail 0 nq (y.tail + 1))
          else
            ((s.setQFlags d q (x.flags - 2 + (if x.npend then 0 else 4))).setBit (hubReg (s.qHome d q) 4 + 0x1018) 1 true)
      else s
    else s

/-- Notification of a queue whose TAIL or ARM changed. Every queue of a chain but the first is a core's notify queue and loses
ARMED, so a chain ends within the 230 cores. -/
def State.notify (s : State) (d q : Nat) : State := State.notifyGo 232 d q s

/-- An entry written at TAIL as a producer of PMODE 1 (11 R352); none where the queue does not take it. -/
def State.qAppend (s : State) (d q : Nat) (bs : List Byte) : Option State :=
  match s.qOpen d q with
  | (false, _) => none
  | (true, s) =>
    let x := s.qDesc d q
    if x.takes then some (((s.qWrite d (x.slot x.tail) bs none).setTail d q (x.tail + 1)).notify d q) else none

/-! ### Doorbells (11 R333-R335) -/

/-- A doorbell that is not valid is discarded and recorded (11 R334, R343). -/
def State.badDoorbell (s : State) (d q op reason : Nat) : State :=
  let r := hubReg (s.qHome d q) 4
  let s := (s.setBit (r + 0x1018) 0 true).troubleHub (s.qHome d q) 0 2
  let s := s.addSat (r + 0x1028) 0 32 1
  if s.bit (r + 0x1020) 63 then s
  else s.setRg (r + 0x1020) (BitVec.ofNat 64 (q + 2 ^ 14 * d + 2 ^ 18 * op + 2 ^ 20 * reason + 2 ^ 63))

/-- One doorbell at its home half, once it has the descriptor (11 Table 11-2). -/
def State.doorbellAct (s : State) (d q op v : Nat) : State :=
  let s := s.qCount d q 0
  let x := s.qDesc d q
  let fromHead := (v + 2 ^ 32 - x.head) % 2 ^ 32
  if !x.en then s.badDoorbell d q op 1
  else if op = 3 then s.badDoorbell d q op 4
  else if op = 0 then
    if x.pmode ≠ 0 then s.badDoorbell d q op 3
    else if x.n < fromHead ∨ fromHead < (v + 2 ^ 32 - x.tail) % 2 ^ 32 then s.badDoorbell d q op 2
    else (s.setTail d q v).notify d q
  else if op = 1 then
    if x.cmode ≠ 0 then s.badDoorbell d q op 3
    else if x.count < fromHead then s.badDoorbell d q op 2
    else s.setHead d q v
  else
    let t := v % 2 ^ 20
    if x.n < t then s.badDoorbell d q op 2
    else
      let s := if t = 0 then s else s.qWrite d (s.qAddr d q + 0x1C) (natLE 4 t) none
      (s.setQFlags d q (x.flags + (if x.armed then 0 else 2))).notify d q

/-- One doorbell at its home half; it is dropped where the half cannot read the descriptor. -/
def State.doorbell (s : State) (d q op v : Nat) : State :=
  match s.qOpen d q with
  | (true, s) => s.doorbellAct d q op v
  | (false, s) => s

/-- A write of QDB on either hub (11 R333): the domain is the DOM attribute of the write. -/
def State.qdbWrite (s : State) (dom : Nat) (v : Word) : State :=
  s.doorbell dom (getBits v 0 14) (getBits v 14 2) (getBits v 32 32)

/-- PRODUCE (11 Table 11-2). -/
def execProduce (dom : BitVec 4) (q : BitVec 14) (v : BitVec 32) (s : State) : Host.Outcome State Fault Refusal :=
  .next (s.doorbell dom.toNat q.toNat 0 v.toNat)

/-- CONSUME (11 Table 11-2). -/
def execConsume (dom : BitVec 4) (q : BitVec 14) (v : BitVec 32) (s : State) : Host.Outcome State Fault Refusal :=
  .next (s.doorbell dom.toNat q.toNat 1 v.toNat)

/-- ARM (11 Table 11-2). -/
def execArm (dom : BitVec 4) (q : BitVec 14) (v : BitVec 32) (s : State) : Host.Outcome State Fault Refusal :=
  .next (s.doorbell dom.toNat q.toNat 2 v.toNat)

/-- A doorbell with the reserved OP 3: discarded and recorded (11 R334). -/
def execDoorbellReservedOp (dom : BitVec 4) (q : BitVec 14) (v : BitVec 32) (s : State) :
    Host.Outcome State Fault Refusal :=
  .next (s.doorbell dom.toNat q.toNat 3 v.toNat)

/-- DEFERRED_NOTICE_POST (11 R337): a notice that waits with NPEND is posted once its notify queue has space. NPEND is cleared before the
post, which may make the queue due again where it is its own notify queue. -/
def execDeferredNoticePost (dom : BitVec 4) (q : BitVec 14) (s : State) : Host.Outcome State Fault Refusal :=
  match s.qOpen dom.toNat q.toNat with
  | (false, s) => .next s
  | (true, s) =>
  let x := s.qDesc dom.toNat q.toNat
  if x.en && x.npend then
    match s.notifyQueue (bitsOf x.notify 2 8) with
    | none => .next s
    | some nq =>
      match (s.setQFlags dom.toNat q.toNat (x.flags - 4)).qAppend 0 nq (s.noticeBytes dom.toNat q.toNat x.tail) with
      | some s => .next s
      | none => .next s
  else .next s

/-! ### ENABLE and DISABLE (11 R331) -/

/-- The result of the ring translation of code 4: the physical address if the area lies wholly inside one normal block with
read and write permission at S. The hub DMA engine's walker translates. -/
def State.ringTranslate (s : State) (h d va n : Nat) : Option Nat × State :=
  match s.translate h d 1 va .read with
  | (.ok _ _, s1) =>
    match s1.translate h d 1 va .write with
    | (.ok p false, s2) =>
      match s2.translate h d 1 (va + n - 1) .write with
      | (.ok e false, s3) =>
        let oneBlock := getBits (s3.dtb (reqDie h) 0) 63 1 = 0 ∧ d = 0 ∨ s3.findCopy h d va = s3.findCopy h d (va + n - 1)
        (if e = p + n - 1 ∧ oneBlock then some p else none, s3)
      | (_, s3) => (none, s3)
    | (_, s2) => (none, s2)
  | (_, s1) => (none, s1)

/-- The checks of ENABLE but for the translation, in order (11 Table 11-5): the codes before 4 and those after. `linked` says that the
engine could read the descriptor of the queue linked to. -/
def QDesc.code123 (x : QDesc) (d : Nat) : Option Nat :=
  if x.en then some 1
  else if !x.ring.tag || x.ring.sealed || !x.ring.has 0 || !x.ring.has 1 || x.ring.dom != d then some 2
  else if x.ring.cur % 64 ≠ 0 ∨ x.ring.top < x.ring.cur + 64 + 2 ^ min x.logn 32 * 16 * 2 ^ min x.esz 2 then some 3
  else none

def State.code567 (s : State) (d q : Nat) (x : QDesc) (linked : Bool) : Option Nat :=
  let a := s.qAddr d q
  let y := s.qDesc (bitsOf x.link 14 4) (bitsOf x.link 0 14)
  if 2 < x.esz ∨ x.logn < 4 ∨ 20 < x.logn ∨ 1 < x.pmode ∨ 2 < x.cmode ∨ 16 ≤ x.mode ∨ 8 ≤ x.flags ∨
      2 ^ 26 ≤ x.notify ∨ 2 ^ 18 ≤ x.link ∨ s.memNat (a + 0x2E) 2 ≠ 0 ∨ s.memNat (a + 0x38) 8 ≠ 0 ∨ x.n < x.count then some 5
  else if x.cmode = 1 ∧ (bitsOf x.link 14 4 = d ∨ linked = false ∨ y.en = false ∨ y.pmode ≠ 1 ∨ y.esz ≠ x.esz) then some 6
  else if bitsOf x.notify 0 2 = 3 ∨ (bitsOf x.notify 0 2 = 1 ∧ 229 < bitsOf x.notify 2 8) then some 7
  else none

/-- The result code of the last ENABLE (11 Table 11-3 QCMDSTAT). -/
def State.enableCode (s : State) (h code : Nat) : State := s.setFld (hubReg h 4 + 0x1008) 1 3 code

/-- ENABLE (11 R331), once the home half has the descriptor. -/
def State.qEnableAct (s : State) (h d q : Nat) : State :=
  let x := s.qDesc d q
  match x.code123 d with
  | some c => s.enableCode h c
  | none =>
    match s.ringTranslate (s.qHome d q) d x.ring.cur (64 + 2 ^ min x.logn 32 * 16 * 2 ^ min x.esz 2) with
    | (none, s) => s.enableCode h 4
    | (some p, s) =>
      let (linked, s) := if x.cmode = 1 then s.qOpen (bitsOf x.link 14 4) (bitsOf x.link 0 14) else (true, s)
      match s.code567 d q x linked with
      | some c => s.enableCode h c
      | none =>
        ((s.qWrite d (s.qAddr d q + 0x30) (natLE 8 p) none).setQFlags d q (x.flags + 1)).enableCode h 0

/-- ENABLE (11 R331). -/
def State.qEnable (s : State) (h d q : Nat) : State :=
  match s.qOpen d q with
  | (true, s) => s.qEnableAct h d q
  | (false, s) => s

/-- DISABLE (11 R331). -/
def State.qDisable (s : State) (d q : Nat) : State :=
  match s.qOpen d q with
  | (true, s) =>
    let x := s.qDesc d q
    if x.en then s.setQFlags d q (x.flags - 1) else s
  | (false, s) => s

/-- ENABLE through QCMD of a hub. -/
def execEnable (h : Fin 2) (dom : BitVec 4) (q : BitVec 14) (s : State) : Host.Outcome State Fault Refusal :=
  .next (s.qEnable h.val dom.toNat q.toNat)

/-- DISABLE through QCMD of a hub. -/
def execDisable (_ : Fin 2) (dom : BitVec 4) (q : BitVec 14) (s : State) : Host.Outcome State Fault Refusal :=
  .next (s.qDisable dom.toNat q.toNat)

/-- A write of QCMD (11 Table 11-3): OP 2 and 3 are reserved and do nothing (00 R11). -/
def State.qcmdWrite (s : State) (h : Nat) (v : Word) : State :=
  if getBits v 18 2 = 0 then s.qEnable h (getBits v 14 4) (getBits v 0 14)
  else if getBits v 18 2 = 1 then s.qDisable (getBits v 14 4) (getBits v 0 14)
  else s

/-! ### Links (11 R339, R340) -/

/-- The granules of an entry written into a receive ring: a tag stays only on a sealed capability (11 R339). -/
def State.putGranules (s : State) (dd dst : Nat) (gs : List Cap) : State :=
  (upTo gs.length).foldl (fun s i =>
    let c := gs.getD i Cap.null
    s.qWrite dd (dst + 16 * i) c.bytes (some (c.tag && c.sealed))) s

/-- TAIL and LINKSEQ of a receive queue advance together in one descriptor write (11 R339). -/
def State.qTake (s : State) (d q tail seq : Nat) : State :=
  let a := s.qAddr d q
  (s.qWrite d (a + 0x14) (natLE 4 (tail % 2 ^ 32) ++ s.peek (a + 0x18) 16 ++ natLE 4 (seq % 2 ^ 32)) none).qHeader d q

/-- The move of one entry, or HEAD catching up with LINKSEQ (11 R339, R340), once both descriptors are read. -/
def State.linkMove (s : State) (d q : Nat) : State :=
  let x := s.qDesc d q
  let td := bitsOf x.link 14 4
  let tq := bitsOf x.link 0 14
  let y := s.qDesc td tq
  if y.en && y.linkseq ≠ x.head && 0 < x.count && (y.linkseq + 2 ^ 32 - x.head) % 2 ^ 32 ≤ x.count then
    s.setHead d q y.linkseq
  else if 0 < x.count && y.takes then
    let s := s.qCount d q 1
    match s.qGranules (qAttr (s.qHome d q) d) (x.slot x.head) (x.entry / 16) with
    | (some gs, t) =>
      let t := (t.putGranules td (y.slot y.tail) gs).qTake td tq (y.tail + 1) (x.head + 1)
      (t.setHead d q (x.head + 1)).notify td tq
    | (none, t) => t.unstalled s
  else s

/-- LINK_ENTRY_MOVE (11 R339, R340): HEAD catches up with LINKSEQ, else the next entry moves. -/
def execLinkEntryMove (dom : BitVec 4) (q : BitVec 14) (s : State) : Host.Outcome State Fault Refusal :=
  let d := dom.toNat
  match s.qOpen d q.toNat with
  | (false, s) => .next s
  | (true, s) =>
    let x := s.qDesc d q.toNat
    if !(x.en && x.cmode == 1) then .next s
    else
      match s.qOpen (bitsOf x.link 14 4) (bitsOf x.link 0 14) with
      | (false, s) => .next s
      | (true, s) => .next (s.linkMove d q.toNat)

/-! ### Hub loss (11 R341) -/

/-- The queues that are ARMED and due, of those whose FLAGS byte is not 0. -/
def State.dueQueues (s : State) : List (Nat × Nat) :=
  let base := s.fld (hubReg s.active 4 + 0x1010) 24 20 * 2 ^ 24
  (s.mem.filterMap fun c =>
    if base ≤ c.1 ∧ c.1 < base + 64 * 262144 ∧ (c.1 - base) % 64 = 0x1A then
      some ((c.1 - base) / 64 / 16384, (c.1 - base) / 64 % 16384) else none).filter fun p =>
    let x := s.qDesc p.1 p.2
    x.en && x.armed && x.thresh ≤ x.count

/-- The surviving half raises the notices and vectors again that were due when the other hub was lost. -/
def State.renotify (s : State) : State := s.dueQueues.foldl (fun s p => s.notify p.1 p.2) s

end Sys2Proof.Machine
end

