-- ==== Sys2Proof/Machine/Dma.lean ====
section
/-! DEFINITION. DMA channels (11 R344-R356, 08 R282). A channel is named by its engine (0, 1 the hubs', 2 + 2n + j engine j
of Ln) and its number. -/

namespace Sys2Proof.Machine
open Sys2Proof

def State.chan (s : State) (e c : Nat) : ChanS := SMap.get (dflt ChanS.reset) s.chans (e * 64 + c)
def State.setChan (s : State) (e c : Nat) (x : ChanS) : State :=
  { s with chans := SMap.set (dflt ChanS.reset) s.chans (e * 64 + c) x }

/-- Channels of an engine, and the register base of one (11 R344, R356). -/
def engChans (e : Nat) : Nat := if e < 2 then 64 else 16
def chanBase (e c : Nat) : Nat := engBase e + 0x200 * c

/-- A channel's master ID (01 Table 1-10). -/
def chanMid (e c : Nat) : Nat := if e < 2 then mid e 0 1 c else mid (engDie e) ((e - 2) % 2) 1 c

/-- The counted unit of an engine (17 Table 17-1). -/
def engUnit (e : Nat) : Nat := if e < 2 then 10 else 36 + (e - 2) % 2

/-- Register fields of a channel (11 Table 11-8). -/
def State.chEn (s : State) (e c : Nat) : Bool := s.bit (chanBase e c + 0x100) 0
def State.chPriv (s : State) (e c : Nat) : Nat := s.fld (chanBase e c + 0x100) 1 2
def State.chDqen (s : State) (e c : Nat) : Bool := s.bit (chanBase e c + 0x100) 3
def State.chReqsel (s : State) (e c : Nat) : Nat := s.fld (chanBase e c + 0x100) 41 12
def State.chShfull (s : State) (e c : Nat) : Bool := s.bit (chanBase e c + 0x110) 2
def State.chPend (s : State) (e c : Nat) : Nat := s.fld (chanBase e c + 0x110) 8 8
def State.setChState (s : State) (e c v : Nat) : State := s.setFld (chanBase e c + 0x110) 0 2 v

/-- The channel's class: T1 when a tide or media line paces it, else T4 (11 R344, Table 11-6). -/
def chClass (reqsel : Nat) : Nat := if reqsel / 512 = 1 ∨ reqsel / 512 = 2 ∨ reqsel / 512 = 3 then 1 else 4

/-- The channel acts: its engine's die acts. -/
def State.chActs (s : State) (e c : Nat) : Bool := s.dieActs (engDie e) && decide (c < engChans e)

/-! ### Descriptors (11 Table 11-4, R346) -/

/-- A descriptor's numeric fields. -/
structure DmaDesc where
  src : Cap
  dst : Cap
  count : Nat
  rows : Nat
  sstride : Int
  dstride : Int
  srow : Int
  drow : Int
  ctl : Nat
  cookie : Nat
  resv : Bool
deriving DecidableEq, Repr

/-- The descriptor held in a set whose first word is at `a`. -/
def State.descAt (s : State) (a : Nat) : DmaDesc :=
  let w4 := s.rg (a + 0x20)
  { src := s.capReg a, dst := s.capReg (a + 0x10), count := getBits w4 0 24, rows := getBits w4 32 16,
    sstride := signed 32 (getBits (s.rg (a + 0x28)) 0 32), dstride := signed 32 (getBits (s.rg (a + 0x28)) 32 32),
    srow := signed 32 (getBits (s.rg (a + 0x30)) 0 32), drow := signed 32 (getBits (s.rg (a + 0x30)) 32 32),
    ctl := getBits (s.rg (a + 0x38)) 0 32, cookie := getBits (s.rg (a + 0x38)) 32 32,
    resv := getBits w4 24 8 != 0 || getBits w4 48 16 != 0 || getBits (s.rg (a + 0x38)) 12 4 != 0 }

/-- The width that a code names (11 Table 11-4). -/
def dmaWidth (c : Nat) : Nat := if c = 0 then 1 else if c = 1 then 2 else if c = 2 then 3 else if c = 3 then 4 else 8

def DmaDesc.sw (x : DmaDesc) : Nat := dmaWidth (bitsOf x.ctl 0 3)
def DmaDesc.dw (x : DmaDesc) : Nat := dmaWidth (bitsOf x.ctl 3 3)
def DmaDesc.chk (x : DmaDesc) : Nat := bitsOf x.ctl 8 2
def DmaDesc.append (x : DmaDesc) : Bool := bitOf x.ctl 10
def DmaDesc.irq (x : DmaDesc) : Bool := bitOf x.ctl 11
def DmaDesc.burst (x : DmaDesc) : Nat := bitsOf x.ctl 16 16
def DmaDesc.total (x : DmaDesc) : Nat := x.rows * x.count

/-- A malformed descriptor (11 R346). -/
def DmaDesc.malformed (x : DmaDesc) : Bool :=
  x.count == 0 || x.rows == 0 || 5 ≤ bitsOf x.ctl 0 3 || 5 ≤ bitsOf x.ctl 3 3 || x.chk == 3 || (x.append && x.chk == 0) ||
    x.resv

/-- Source and destination address of element `j`, counted row by row (11 R347). -/
def DmaDesc.srcOf (x : DmaDesc) (j : Nat) : Nat :=
  unsigned 44 ((x.src.cur : Int) + (j / x.count : Nat) * x.srow + (j % x.count : Nat) * x.sstride)
def DmaDesc.dstOf (x : DmaDesc) (j : Nat) : Nat :=
  unsigned 44 ((x.dst.cur : Int) + (j / x.count : Nat) * x.drow + (j % x.count : Nat) * x.dstride)

/-- The conversion of the holding register (11 R347). -/
def DmaDesc.convert (x : DmaDesc) (v : List Byte) : List Byte :=
  let v := if bitOf x.ctl 7 then v.reverse else v
  let fill : Byte := if bitOf x.ctl 6 && bitOf (leNat v) (8 * x.sw - 1) then 0xFF else 0
  (v ++ List.replicate (x.dw - x.sw) fill).take x.dw

/-! ### Pieces (11 R348, R349) -/

/-- The parts of one side's elements `j .. j + n - 1`, in element order: element, address and length, an element cut at the
64-byte line it crosses. -/
def sideParts (addr : Nat → Nat) (w : Nat) (j n : Nat) : List (Nat × Nat × Nat) :=
  (upTo n).flatMap fun i =>
    let a := addr (j + i)
    let room := 64 - a % 64
    if w ≤ room then [(j + i, a, w)] else [(j + i, a, room), (j + i, (a + room) % 2 ^ 44, w - room)]

/-- Consecutive parts in one aligned line make a piece. -/
def piecesOf : List (Nat × Nat × Nat) → List (List (Nat × Nat × Nat))
  | [] => []
  | p :: ps =>
    match piecesOf ps with
    | [] => [[p]]
    | (q :: qs) :: rest => if q.2.1 / 64 = p.2.1 / 64 then (p :: q :: qs) :: rest else [p] :: (q :: qs) :: rest
    | [] :: rest => [p] :: rest

/-- Checks of one piece: capability, translation, gate; the package address of its line or the fault (08 R282, 11 R348). -/
def State.pieceAdmit (s : State) (e c : Nat) (cap : Cap) (write : Bool) (ps : List (Nat × Nat × Nat)) :
    (Nat ⊕ Nat) × State :=
  let need := if write then 2 else 1
  match ps.findSome? (fun p => cap.check need p.2.1 p.2.2) with
  | some (cause, _) => (.inr cause, s)
  | none =>
    let a := (ps.map (·.2.1)).foldl min (2 ^ 44)
    let b : Attr := ⟨chanMid e c, cap.dom, s.chPriv e c, chClass (s.chReqsel e c)⟩
    match s.translate e cap.dom b.priv a (if write then .write else .read) with
    | (.fault cause _, s) => (.inr cause, s)
    | (.ok phys _, s) =>
      match s.reaches b (if write then kWrite else kRead) phys with
      | (.ok, s) => (.inl (phys - a % 64), s)
      | (_, s) => (.inr 0x08, s)

/-- A channel's attributes on the side of a capability (11 R344). -/
def State.chAttr (s : State) (e c : Nat) (cap : Cap) : Attr := ⟨chanMid e c, cap.dom, s.chPriv e c, chClass (s.chReqsel e c)⟩

/-- The bytes of a source piece by part; an uncorrectable word is 0x13, and a register word read clears its RC fields (11 R349,
00 R10). -/
def State.pieceRead (s : State) (e c : Nat) (cap : Cap) (ps : List (Nat × Nat × Nat)) :
    (List (Nat × List Byte) ⊕ Nat) × State :=
  match s.pieceAdmit e c cap false ps with
  | (.inr f, s) => (.inr f, s)
  | (.inl line, s) =>
    let b := s.chAttr e c cap
    if isRegPlace (s.loc line) then
      (.inl (ps.map fun p => (p.1, s.regBytes (line + p.2.1 % 64) p.2.2)),
        ps.foldl (fun s p => (upTo ((p.2.1 % 64 + p.2.2 - 1) / 8 + 1 - p.2.1 % 64 / 8)).foldl (fun s i =>
          s.regReadDone (line + p.2.1 % 64 / 8 * 8 + 8 * i)) s) s)
    else
      let s := (((s.countDram b line 64 false).countSram b line 64 false).tagTouch b line).performed b line 0 64
      match ps.find? fun p => s.uncorr (line + p.2.1 % 64) p.2.2 with
      | some p => (.inr 0x13, s.ueMet (line + p.2.1 % 64))
      | none => (.inl (ps.map fun p => (p.1, s.peek (line + p.2.1 % 64) p.2.2)), s)

/-- Bytes at offsets in order, those that follow one another joined. -/
def joinParts : List (Nat × List Byte) → List (Nat × List Byte)
  | [] => []
  | (o, bs) :: ps =>
    match joinParts ps with
    | (o', bs') :: qs => if o + bs.length = o' then (o, bs ++ bs') :: qs else (o, bs) :: (o', bs') :: qs
    | [] => [(o, bs)]

/-- A destination piece written as one transaction (11 R348): in a register block its elements that follow one another make one write; a
piece of one whole line is one 64-byte write (10 R321). A write to a DRAM address that no channel in service holds has the outcome of
01 R17 (10 R323). -/
def State.pieceWrite (s : State) (e c : Nat) (cap : Cap) (ps : List (Nat × Nat × Nat × List Byte)) : Option Nat × State :=
  match s.pieceAdmit e c cap true (ps.map fun p => (p.1, p.2.1, p.2.2.1)) with
  | (.inr f, s) => (some f, s)
  | (.inl line, s) =>
    let b := s.chAttr e c cap
    let all := ps.flatMap (·.2.2.2)
    if isRegPlace (s.loc line) then
      (none, (joinParts (ps.map fun p => (p.2.1 % 64, p.2.2.2))).foldl (fun s p => s.regPoke b (line + p.1) p.2) (s.performed b line 64 0))
    else if s.inDram line && s.dramDown line then (some 0x13, s.ueMet line)
    else
      let s := (((s.countDram b line 64 true).countSram b line (all.length) true).tagTouch b line).performed b line 64 0
      let whole := all.length == 64 && (ps.foldl (fun n p => if n = some (p.2.1 % 64) then some (p.2.1 % 64 + p.2.2.1) else none)
        (some 0)) == some 64
      let t := if whole then s.store line all none
        else ps.foldl (fun s p => s.store (line + p.2.1 % 64) p.2.2.2 none) s
      (none, t.tagsThrough s b line 64)

/-- Source pieces in order until one fails; the bytes of every part read before it, and the fault. -/
def State.readPieces (e c : Nat) (cap : Cap) :
    List (List (Nat × Nat × Nat)) → List (Nat × List Byte) → State → (List (Nat × List Byte) × Option Nat) × State
  | [], got, s => ((got, none), s)
  | p :: ps, got, s =>
    match s.pieceRead e c cap p with
    | (.inl bs, s) => State.readPieces e c cap ps (got ++ bs) s
    | (.inr f, s) => ((got, some f), s)

/-- All source bytes of element `j` among the parts read. -/
def partBytes (got : List (Nat × List Byte)) (j : Nat) : List Byte := (got.filter (·.1 = j)).flatMap (·.2)

/-- Destination parts with their converted bytes. -/
def DmaDesc.fillParts (x : DmaDesc) (got : List (Nat × List Byte)) (ps : List (Nat × Nat × Nat)) :
    List (Nat × Nat × Nat × List Byte) :=
  ps.map fun p =>
    let v := x.convert (partBytes got p.1)
    let first := (p.2.1 + 2 ^ 44 - x.dstOf p.1) % 2 ^ 44
    (p.1, p.2.1, p.2.2, (v.drop first).take p.2.2)

/-- Destination pieces in order until one fails or needs a byte that no source piece brought. -/
def State.writePieces (e c : Nat) (x : DmaDesc) (got : List (Nat × List Byte)) (sf : Option Nat) :
    List (List (Nat × Nat × Nat)) → State → Option (Nat × Nat) × State
  | [], s => (none, s)
  | p :: ps, s =>
    let first := match p with | [] => 0 | q :: _ => q.1
    if p.any (fun q => (partBytes got q.1).length < x.sw) then (some (sf.getD 0x13, first), s)
    else
      match s.pieceWrite e c x.dst (x.fillParts got p) with
      | (none, s) => State.writePieces e c x got sf ps s
      | (some f, s) => (some (f, first), s)

/-- The running check over the destination bytes of elements `j .. j + n - 1` (11 R351). -/
def DmaDesc.check (x : DmaDesc) (old : Nat) (vals : List (List Byte)) : Nat :=
  if x.chk = 1 then
    (vals.flatten.foldl (fun c b => crcBits 0x82F63B78 8 (c ^^^ b.toNat)) (old ^^^ 0xFFFFFFFF)) ^^^ 0xFFFFFFFF
  else if x.chk = 2 then
    vals.foldl (fun c v => (c + leNat (v.take 4) + leNat (v.drop 4)) % 2 ^ 32) old
  else 0

/-! ### Channel commands -/

/-- Setting ENGSTICKY.BAD or REQOVR sets the DMA trouble bit (11 R356). -/
def State.engSticky (s : State) (e i : Nat) : State := (s.setBit (engBase e + 0x8008) i true).troubleDma (engDie e)

/-- A DMA event at the engine (17 Table 17-3 class 6). -/
def State.chCount (s : State) (e c ev n : Nat) : State :=
  s.count (engDie e) (engUnit e) 6 ev n ⟨some (chanMid e c), some (s.chPriv e c), none⟩

/-- The queue named for a channel is looked at through its home half; one whose descriptor cannot be read suits nothing. -/
def State.chQueue (s : State) (on : Bool) (d q : Nat) (ok : State → Bool) : Bool × State :=
  if on then (let (got, t) := s.qOpen d q; (got && ok t, t)) else (true, s)

/-- CQ suits an enabled channel: ESZ = 1 and PMODE = 1 (11 R352). -/
def State.cqOk (s : State) (d q : Nat) : Bool := let x := s.qDesc d q; x.esz == 1 && x.pmode == 1

/-- DQ suits the channel: ESZ = 2, CMODE 2 and CHAN its master ID (11 R345). -/
def State.dqOk (s : State) (d q m : Nat) : Bool := let x := s.qDesc d q; x.esz == 2 && x.cmode == 2 && x.chan == m

/-- A write of CHCTL that sets EN: refused with CFGERR where CQ or DQ is unsuitable (11 R352, Table 11-8). -/
def State.chEnable (s : State) (e c : Nat) (old v : Word) : State :=
  let a := chanBase e c
  let (cq, s) := s.chQueue (bitOf v.toNat 40) (getBits v 36 4) (getBits v 22 14) fun s => s.cqOk (getBits v 36 4) (getBits v 22 14)
  let (dq, s) := s.chQueue (bitOf v.toNat 3) (getBits v 18 4) (getBits v 4 14) fun s =>
    s.dqOk (getBits v 18 4) (getBits v 4 14) (chanMid e c)
  let bad := !cq || !dq
  let w := regStore (dmaFields (engDie e) (engChans e) (0x200 * c + 0x100)) old v (BitVec.allOnes 64)
  if bad then (s.setRg (a + 0x100) (putBits w 0 1 0)).setBit (a + 0x110) 5 true else s.setRg (a + 0x100) w

/-- CHCTL.EN = 0 drops everything; CHPROG and CHCHK are then undefined and take free values, and ABORTED is set (11 R354). A
channel that was not enabled drops nothing. -/
def State.chDisable (s : State) (e c : Nat) : State :=
  let a := chanBase e c
  if !s.chEn e c then s
  else
    let (x, s) := s.draw
    let (y, s) := s.draw
    let s := { s with lineDue := SMap.erase s.lineDue (64 * e + c), lineAt := SMap.erase s.lineAt (64 * e + c) }
    let s := (s.setBit (a + 0x100) 0 false).setRg (a + 0x110)
      (putBits (putBits (putBits (putBits (s.rg (a + 0x110)) 0 2 0) 2 1 0) 8 8 0) 4 1 1)
    ((s.setFld (a + 0x80) 0 40 x.toNat).setFld (a + 0x88) 0 32 y.toNat).setChan e c ChanS.reset

/-- A write of CHCTL (11 R354): while EN is 1 only EN changes. -/
def State.chctlWrite (s : State) (e c : Nat) (old v : Word) : State :=
  let s := s.setRg (chanBase e c + 0x100) old
  if bitOf old.toNat 0 then (if bitOf v.toNat 0 then s else s.chDisable e c)
  else if bitOf v.toNat 0 then s.chEnable e c old v
  else s.setRg (chanBase e c + 0x100) (regStore (dmaFields (engDie e) (engChans e) (0x200 * c + 0x100)) old v (BitVec.allOnes 64))

/-- CHANNEL_ENABLE: CHCTL written with EN = 1. -/
def execChannelEnable (e : Fin 14) (ch : Fin 64) (w : Word) (s : State) : Host.Outcome State Fault Refusal :=
  if s.chActs e ch then .next (s.chctlWrite e ch (s.rg (chanBase e ch + 0x100)) (w ||| 1)) else .next s

/-- CHANNEL_DISABLE: CHCTL written with EN = 0 (11 R354). -/
def execChannelDisable (e : Fin 14) (ch : Fin 64) (s : State) : Host.Outcome State Fault Refusal :=
  if s.chActs e ch then .next (s.chDisable e ch) else .next s

/-- START: the shadow set is filled (11 R345); it acts on an enabled channel with DQEN = 0 whose shadow set is empty. -/
def State.chStart (s : State) (e c : Nat) : State :=
  if s.chEn e c && !s.chDqen e c && !s.chShfull e c then s.setBit (chanBase e c + 0x110) 2 true else s

def execStart (e : Fin 14) (ch : Fin 64) (s : State) : Host.Outcome State Fault Refusal :=
  if s.chActs e ch then .next (s.chStart e ch) else .next s

/-- A request on the channel's line (11 R350): one more pending, or lost with REQOVR past 255. -/
def State.chRequest (s : State) (e c : Nat) : State :=
  if !s.chEn e c then s
  else if s.chPend e c = 255 then s.engSticky e 1
  else
    let s := s.setFld (chanBase e c + 0x110) 8 8 (s.chPend e c + 1)
    if s.fld (chanBase e c + 0x110) 0 2 = 2 then s.setChState e c 1 else s

/-- REQ: a software request, on a channel whose REQSEL selects software (11 Table 11-6). -/
def State.chReq (s : State) (e c : Nat) : State := if s.chReqsel e c = 0x800 then s.chRequest e c else s

def execReq (e : Fin 14) (ch : Fin 64) (s : State) : Host.Outcome State Fault Refusal :=
  if s.chActs e ch then .next (s.chReq e ch) else .next s

/-- The four granules of a descriptor put into a set: SRC and DST are capability registers and keep their tags, the other words
hold none (08 R270, 11 R345). -/
def State.setSet (s : State) (a : Nat) (gs : List Cap) : State :=
  (upTo 4).foldl (fun s i =>
    let g := gs.getD i Cap.null
    s.setCapReg (a + 16 * i) (if i < 2 then g else { g with tag := false })) s

/-- DMA_SHADOW_FILL (11 R345): the queue engine moves the head entry of DQ into the empty shadow set, tags with it. -/
def execDmaShadowFill (e : Fin 14) (ch : Fin 64) (s : State) : Host.Outcome State Fault Refusal :=
  let a := chanBase e ch
  let q := s.fld (a + 0x100) 4 14
  let d := s.fld (a + 0x100) 18 4
  if !(s.chActs e ch && s.chEn e ch && s.chDqen e ch && !s.chShfull e ch) then .next s
  else match s.qOpen d q with
  | (false, s) => .next s
  | (true, s) =>
  let x := s.qDesc d q
  if x.en && 0 < x.count && s.dqOk d q (chanMid e ch) then
    match s.qGranules (qAttr (s.qHome d q) d) (x.slot x.head) 4 with
    | (some gs, t) =>
      match t.reaches (qAttr (s.qHome d q) d) kWrite a with
      | (.ok, u) => .next (((u.setSet a gs).setBit (a + 0x110) 2 true).setHead d q (x.head + 1))
      | (_, u) => .next (u.unstalled s)
    | (none, t) => .next (t.unstalled s)
  else .next s

/-- DMA_SHADOW_TO_ACTIVE (11 R345, R346): the descriptor moves once the active set is idle; a malformed one is finished. -/
def execDmaShadowToActive (e : Fin 14) (ch : Fin 64) (s : State) : Host.Outcome State Fault Refusal :=
  let a := chanBase e ch
  if s.chActs e ch && s.chEn e ch && s.chShfull e ch && !(s.chan e ch).active && s.fld (a + 0x110) 0 2 == 0 then
    let s := s.setSet (a + 0x40) ((upTo 4).map fun i => s.capReg (a + 16 * i))
    let s := ((s.setBit (a + 0x110) 2 false).setRg (a + 0x80) 0).setRg (a + 0x88) 0
    let bad := (s.descAt (a + 0x40)).malformed
    let s := s.setChan e ch ⟨true, if bad then some 0x09 else none, bad, none⟩
    .next (s.setChState e ch (if bad || s.chReqsel e ch == 0 || 0 < s.chPend e ch then 1 else 2))
  else .next s

/-- The elements of one burst moved (11 R347-R351): pieces in order, the check, progress, and APPEND after the last. -/
def State.moveBurst (s : State) (e c : Nat) (x : DmaDesc) : State :=
  let a := chanBase e c
  let done := s.fld (a + 0x80) 0 40
  let n := if x.burst = 0 then x.total - done else min x.burst (x.total - done)
  let ((got, sf), s) := State.readPieces e c x.src (piecesOf (sideParts x.srcOf x.sw done n)) [] s
  let (fail, s) := State.writePieces e c x got sf (piecesOf (sideParts x.dstOf x.dw done n)) s
  let upto := match fail with | none => done + n | some (_, j) => max done j
  let vals := (upTo (upto - done)).map fun i => x.convert (partBytes got (done + i))
  let s := s.setFld (a + 0x88) 0 32 (x.check (s.fld (a + 0x88) 0 32) vals)
  let s := (s.setFld (a + 0x80) 0 40 upto).chCount e c 3 (upto - done)
  match fail with
  | some (f, _) => s.setChan e c ⟨true, some f, true, none⟩
  | none =>
    if upto < x.total then s
    else if x.append then
      let p := sideParts (fun _ => (x.dstOf (x.total - 1) + x.dw) % 2 ^ 44) 4 0 1
      let v := natLE 4 (s.fld (a + 0x88) 0 32)
      let parts := (piecesOf p).map fun ps => ps.map fun q =>
        (q.1, q.2.1, q.2.2, (v.drop ((q.2.1 + 2 ^ 44 - (x.dstOf (x.total - 1) + x.dw)) % 2 ^ 44)).take q.2.2)
      let (f, s) := parts.foldl (fun r ps => match r with
        | (none, s) => s.pieceWrite e c x.dst ps
        | r => r) (none, s)
      s.setChan e c ⟨true, f, true, none⟩
    else s.setChan e c ⟨true, none, true, none⟩

/-- The completion record of the active descriptor (11 Table 11-7). -/
def State.dmaRecord (s : State) (e c : Nat) : List Byte :=
  let a := chanBase e c
  let x := s.descAt (a + 0x40)
  let bad := (s.chan e c).bad
  let t := s.die (engDie e)
  natLE 4 x.cookie ++ natLE 2 (chanMid e c) ++ natLE 1 (b2n bad.isSome) ++ natLE 1 (bad.getD 0) ++
    natLE 8 (s.fld (a + 0x80) 0 40) ++ natLE 4 (if x.chk = 0 then 0 else s.fld (a + 0x88) 0 32) ++ natLE 4 0 ++
    natLE 8 (t.tide + 2 ^ 63 * b2n t.tideValid)

/-- The channel signals its ENGIRQ bit when IRQ is 1 or the descriptor is BAD (11 R352). -/
def State.chSignal (s : State) (e c : Nat) (bad : Bool) : State :=
  if bad || (s.descAt (chanBase e c + 0x40)).irq then s.setBit (engBase e + 0x8000) c true else s

/-- The channel is idle again. -/
def State.chIdle (s : State) (e c : Nat) : State := (s.setChan e c ChanS.reset).setChState e c 0

/-- The completion of a finished descriptor (11 R352, R353): BAD is recorded, the record is posted or waits in CQWAIT. -/
def State.chComplete (s : State) (e c : Nat) : State :=
  let a := chanBase e c
  let x := s.chan e c
  let s := s.chCount e c 4 1
  let s := match x.bad with
    | none => s
    | some f =>
      let s := (s.chCount e c 5 1).engSticky e 0
      if s.bit (engBase e + 0x8010) 63 then s
      else s.setRg (engBase e + 0x8010) (BitVec.ofNat 64 (c + 2 ^ 8 * f + 2 ^ 16 * s.fld (a + 0x80) 0 40 + 2 ^ 63))
  if s.bit (a + 0x100) 40 then
    match s.qAppend (s.fld (a + 0x100) 36 4) (s.fld (a + 0x100) 22 14) (s.dmaRecord e c) with
    | some s => (s.chSignal e c x.bad.isSome).chIdle e c
    | none => (s.setChan e c { x with record := some (s.dmaRecord e c) }).setChState e c 3
  else (s.chSignal e c x.bad.isSome).chIdle e c

/-- DMA_DESCRIPTOR_COMPLETE: a descriptor whose elements are all moved or abandoned completes. -/
def execDmaDescriptorComplete (e : Fin 14) (ch : Fin 64) (s : State) : Host.Outcome State Fault Refusal :=
  let x := s.chan e ch
  if s.chActs e ch && s.chEn e ch && x.active && x.finished && x.record.isNone then .next (s.chComplete e ch) else .next s

/-- CQWAIT_RELEASE (11 R353): the waiting record is posted once the completion queue has space. -/
def execCqwaitRelease (e : Fin 14) (ch : Fin 64) (s : State) : Host.Outcome State Fault Refusal :=
  let a := chanBase e ch
  let x := s.chan e ch
  if s.chActs e ch && s.chEn e ch then
    match x.record with
    | none => .next s
    | some r =>
      match s.qAppend (s.fld (a + 0x100) 36 4) (s.fld (a + 0x100) 22 14) r with
      | some s => .next ((s.chSignal e ch x.bad.isSome).chIdle e ch)
      | none => .next s
  else .next s

end Sys2Proof.Machine
end

