-- ==== Sys2Proof/Machine/Operands.lean ====
section
/-! DEFINITION. Core registers as operands: names to physical registers, shadows, system registers as they are read and
written, effective addresses, and the words of instructions (06 R181, R189, R193, R222-R226, 07 Tables 7-1, 7-2, R234). -/

namespace Sys2Proof.Machine
open Sys2Proof

/-! ### PSTAT and windows -/

def CoreS.sysReg (c : CoreS) (n : Nat) : Word := SMap.get sysReset c.sys n
def CoreS.setSys (c : CoreS) (n : Nat) (v : Word) : CoreS := { c with sys := SMap.set sysReset c.sys n v }
def CoreS.capSys (c : CoreS) (n : Nat) : Cap := SMap.get (dflt Cap.null) c.csys n
def CoreS.setCapSys (c : CoreS) (n : Nat) (v : Cap) : CoreS := { c with csys := SMap.set (dflt Cap.null) c.csys n v }

/-- PSTAT fields (06 Table 6-11). -/
def CoreS.pstat (c : CoreS) : Word := c.sysReg 0
def CoreS.lvl (c : CoreS) : Nat := getBits c.pstat 0 2
def CoreS.ie (c : CoreS) : Bool := getBits c.pstat 2 1 == 1
def CoreS.fe (c : CoreS) : Bool := getBits c.pstat 3 1 == 1
def CoreS.pre (c : CoreS) : Bool := getBits c.pstat 4 1 == 1
def CoreS.dze (c : CoreS) : Bool := getBits c.pstat 5 1 == 1
def CoreS.ove (c : CoreS) : Bool := getBits c.pstat 6 1 == 1
def CoreS.cwp (c : CoreS) : Nat := getBits c.pstat 8 4
def CoreS.fb (c : CoreS) : Bool := getBits c.pstat 12 1 == 1
def CoreS.old (c : CoreS) : Nat := getBits (c.sysReg 3) 0 4
def CoreS.setPs (c : CoreS) (lsb w x : Nat) : CoreS := c.setSys 0 (putBits c.pstat lsb w x)
def CoreS.setCwp (c : CoreS) (x : Nat) : CoreS := c.setPs 8 4 x

/-- The resident windows (06 R193). -/
def CoreS.resident (c : CoreS) : Nat := (c.cwp + 12 - c.old % 12) % 12 + 1

/-- The physical number of the D register that a name refers to (06 R189, R219). -/
def CoreS.physD (c : CoreS) (n : Nat) : Nat :=
  if n < 8 ∧ c.fb then 208 + n else if n < 16 then n else 16 + 16 * (c.cwp % 12) + (n - 16)

/-- The physical number of the A register that a name refers to. -/
def CoreS.physA (c : CoreS) (n : Nat) : Nat := if n < 4 ∧ c.fb then 16 + n else n

/-- A D register as an instruction reads it: writes still in their shadow do not show (06 R181). -/
def CoreS.rd (c : CoreS) (n : BitVec 5) : Word := SMap.get (dflt 0) c.d (c.physD n.toNat)

/-- An A register as an instruction reads it. -/
def CoreS.ra (c : CoreS) (n : BitVec 4) : Cap := SMap.get aReset c.a (c.physA n.toNat)

/-- The accumulator as the accumulator group reads it, and as MVAC and NORM read it (06 Table 6-2). -/
def CoreS.accNow (c : CoreS) (k : Nat) : BitVec 80 := SMap.get (dflt 0) c.acc k
def CoreS.accSeen (c : CoreS) (k : Nat) : BitVec 80 := SMap.get (dflt 0) c.accView k

/-! ### System registers -/

/-- The kind of a number: 0 unassigned, 1 a 64-bit register, 2 a capability register (06 Table 6-10). -/
def sysKind (n : Nat) : Nat :=
  if n ≤ 3 ∨ n = 8 ∨ n = 9 ∨ (0x10 ≤ n ∧ n ≤ 0x14) then 1
  else if n = 0x100 ∨ n = 0x104 ∨ n = 0x105 ∨ n = 0x106 ∨ n = 0x108 ∨ n = 0x10A then 2
  else if n = 0x101 ∨ n = 0x102 ∨ n = 0x103 ∨ n = 0x109 then 1
  else if 0x180 ≤ n ∧ n ≤ 0x18F then 1
  else if n = 0x200 ∨ n = 0x204 ∨ n = 0x205 ∨ n = 0x206 then 2
  else if n = 0x201 ∨ n = 0x202 ∨ n = 0x203 ∨ n = 0x207 then 1
  else 0

/-- The lowest level that reads, that writes; 3 where no level writes (06 Table 6-10). -/
def sysReadAt (n : Nat) : Nat := if n ≤ 2 ∨ (0x10 ≤ n ∧ n ≤ 0x14) then 0 else if 0x200 ≤ n then 2 else 1
def sysWriteAt (n : Nat) : Nat :=
  if n = 0 then 0 else if n ≤ 2 ∨ (0x10 ≤ n ∧ n ≤ 0x14) then 3 else if 0x200 ≤ n then 2 else 1

/-- The bits a write of a system register may change at a level (06 R223, Tables 6-8, 6-11 to 6-13). -/
def sysMask (n lvl : Nat) : Nat :=
  if n = 0 then (if lvl = 0 then 0x70 else 0x7C)
  else if n = 3 then 0xF
  else if n = 8 then 0x1004
  else if n = 9 then 0x1F33
  else if n = 0x101 ∨ n = 0x201 ∨ n = 0x109 then 0x1F7F
  else if n = 0x102 ∨ n = 0x202 then 0x7FF
  else if n = 0x207 then 1
  else if 0x180 ≤ n ∧ n ≤ 0x18F then (if n % 2 = 0 then 2 ^ 64 - 1 - 0xFFF00000 else 2 ^ 40 - 1)
  else 2 ^ 64 - 1

/-- The bits that a core's write of a system register may change: MEVAL has the layout of a double fault while MECAUSE.CODE is 0x12
(06 R224). -/
def CoreS.sysMaskOf (c : CoreS) (n : Nat) : Nat :=
  if n = 0x203 ∧ getBits (c.sysReg 0x202) 0 8 = 0x12 then 0x7FF else sysMask n c.lvl

/-- The bits of a register that no core of a kind has: LATTICE of IEN outside cluster and comet cores (06 Table 6-8). -/
def kindMask (kind n : Nat) : Nat := if n = 9 ∧ 2 ≤ kind then 2 ^ 64 - 1 - 2 else 2 ^ 64 - 1

/-- A 64-bit system register after a write of the bits in `mask`: W1C bits clear (IPEND.TOVR, MCTL.DFBUSY), and a reserved
encoding leaves its field (00 R11; 06 Tables 6-5, 6-8, 6-11, 6-13; 09 R292). -/
def sysStore (n : Nat) (old v mask : Word) : Word :=
  let m := (old &&& ~~~mask) ||| (v &&& mask)
  let keep (w : Word) (lsb wd : Nat) (ok : Nat → Bool) : Word :=
    if ok (getBits m lsb wd) then w else putBits w lsb wd (getBits old lsb wd)
  if n = 8 then putBits m 2 1 (b2n (getBits old 2 1 == 1 && getBits (v &&& mask) 2 1 == 0))
  else if n = 0x207 then putBits m 0 1 (b2n (getBits old 0 1 == 1 && getBits (v &&& mask) 0 1 == 0))
  else if n = 3 then keep m 0 4 (fun x => x ≤ 11)
  else if n = 9 then keep m 4 2 (fun x => x ≠ 3)
  else if n = 0x102 ∨ n = 0x202 then keep m 0 8 (fun x => x ≤ 0x13 || getBits m 10 1 == 1)
  else if n = 0x101 ∨ n = 0x201 ∨ n = 0x109 then
    let w := keep m 0 2 (fun x => x ≠ 3)
    if getBits m 8 4 ≤ 11 then w else putBits w 8 4 (getBits old 8 4)
  else if 0x180 ≤ n ∧ n ≤ 0x18F ∧ n % 2 = 0 then keep m 10 6 (fun x => 12 ≤ x && x ≤ 42)
  else m

/-! ### Shadows (06 R181) -/

/-- The write that a shadow hid takes effect. One of WSTAT.OLD that leaves more than 11 windows resident makes the result of the next
CALLW unpredictable (06 R225). -/
def CoreS.commit (c : CoreS) (x : Shadow) : CoreS :=
  match x.reg with
  | .d p => { c with d := SMap.set (dflt 0) c.d p (x.bits.setWidth 64) }
  | .a p => { c with a := SMap.set aReset c.a p ⟨x.bits, x.tag⟩ }
  | .accView k => { c with accView := SMap.set (dflt 0) c.accView k (x.bits.setWidth 80) }
  | .sys n =>
    let y := c.setSys n (sysStore n (c.sysReg n) (x.bits.setWidth 64) ((x.bits >>> 64).setWidth 64))
    if n = 3 then { y with badOld := decide (11 < y.resident) } else y
  | .csys n => c.setCapSys n ⟨x.bits, x.tag⟩

/-- Every write still in its shadow takes effect, oldest first (06 R183). -/
def CoreS.flush (c : CoreS) : CoreS :=
  { c.shadows.foldl CoreS.commit c with shadows := [], longq := c.longq.map fun o => { o with older := 0 } }

/-- One instruction passes: every shadow shortens, and those that end take effect, oldest first. -/
def CoreS.tick (c : CoreS) : CoreS :=
  let c' := (c.shadows.filter (·.left ≤ 1)).foldl CoreS.commit c
  { c' with shadows := (c.shadows.filter (fun x => 1 < x.left)).map fun x => { x with left := x.left - 1 },
            longq := c.longq.map fun o => { o with older := o.older - 1 } }

/-- A write with an exposed latency of `lat` instructions: at once when it is 0, and then it stands over older writes of the
same register; the instruction's own retirement counts as one tick. -/
def CoreS.post (c : CoreS) (r : RegRef) (bits : BitVec 128) (tag : Bool) (lat : Nat) : CoreS :=
  if lat = 0 then CoreS.commit { c with shadows := c.shadows.filter (fun x => x.reg ≠ r) } ⟨r, bits, tag, 0⟩
  else { c with shadows := c.shadows ++ [⟨r, bits, tag, lat + 1⟩] }

/-- A system register takes a value at once, over older writes still in their shadow (06 R180). -/
def CoreS.putSys (c : CoreS) (n : Nat) (v : Word) : CoreS :=
  { c with shadows := c.shadows.filter (fun x => x.reg ≠ RegRef.sys n) }.setSys n v

/-- How long a write of a physical D register that is still in its shadow can stay there. -/
def CoreS.shadowOf (c : CoreS) (p : Nat) : Nat :=
  (c.shadows.filter fun x => x.reg == RegRef.d p).foldl (fun m x => max m x.left) 0

/-- D[n] written with an exposed latency. -/
def CoreS.wd (c : CoreS) (n : BitVec 5) (v : Word) (lat : Nat) : CoreS := c.post (.d (c.physD n.toNat)) (v.setWidth 128) false lat

/-- A[n] written with an exposed latency. -/
def CoreS.wa (c : CoreS) (n : BitVec 4) (v : Cap) (lat : Nat) : CoreS := c.post (.a (c.physA n.toNat)) v.bits v.tag lat

/-- C[k] written: at once for the accumulator group, after two instructions for MVAC and NORM (06 Table 6-2). -/
def CoreS.wacc (c : CoreS) (k : Nat) (v : BitVec 80) : CoreS :=
  { c with acc := SMap.set (dflt 0) c.acc k v }.post (.accView k) (v.setWidth 128) false 2

/-! ### Effective addresses (07 R234) -/

/-- The address register, address and index form of a memory operand; `s` is the container size. -/
def memBase : MemOp → BitVec 4
  | .imm ab _ => ab
  | .idx ab _ _ => ab

def CoreS.ea (c : CoreS) (m : MemOp) (s : Nat) : Nat :=
  match m with
  | .imm ab simm => unsigned 44 (((c.ra ab).cur : Int) + simm.toInt * s)
  | .idx ab x sc => ((c.ra ab).cur + (c.rd x).toNat * 2 ^ sc.toNat) % 2 ^ 44

/-! ### Instruction words (07 Table 7-2) -/

def encR (op d a b f : Nat) : Nat := op * 2 ^ 26 + d * 2 ^ 21 + a * 2 ^ 16 + b * 2 ^ 11 + f
def encBF (d a pos len1 k : Nat) : Nat := 0x02 * 2 ^ 26 + d * 2 ^ 21 + a * 2 ^ 16 + pos * 2 ^ 10 + len1 * 2 ^ 4 + k * 2 ^ 2
def encM (store : Bool) (t : Nat) (m : MemOp) (sz : Nat) : Nat :=
  match m with
  | .imm ab simm => (if store then 0x12 else 0x10) * 2 ^ 26 + t * 2 ^ 21 + ab.toNat * 2 ^ 17 + sz * 2 ^ 14 + simm.toNat
  | .idx ab x sc =>
    (if store then 0x13 else 0x11) * 2 ^ 26 + t * 2 ^ 21 + ab.toNat * 2 ^ 17 + sz * 2 ^ 14 + x.toNat * 2 ^ 9 + sc.toNat * 2 ^ 7
def encLM (store : Bool) (ab : Nat) (w : Bool) (bank mask : Nat) : Nat :=
  (if store then 0x17 else 0x16) * 2 ^ 26 + ab * 2 ^ 22 + b2n w * 2 ^ 21 + bank * 2 ^ 19 + mask
def encC (ad aa b f : Nat) : Nat := 0x18 * 2 ^ 26 + ad * 2 ^ 22 + aa * 2 ^ 18 + b * 2 ^ 13 + f
def encCX (f p q n : Nat) : Nat := 0x1B * 2 ^ 26 + f * 2 ^ 24 + p * 2 ^ 20 + q * 2 ^ 16 + n * 2 ^ 11
def encB (a b cond : Nat) (an : Bool) (imm : Nat) : Nat :=
  0x1C * 2 ^ 26 + a * 2 ^ 21 + b * 2 ^ 16 + cond * 2 ^ 13 + b2n an * 2 ^ 12 + imm
def encBZ (a cond : Nat) (an : Bool) (imm : Nat) : Nat :=
  0x1D * 2 ^ 26 + a * 2 ^ 21 + cond * 2 ^ 18 + b2n an * 2 ^ 17 + imm
def encJ (k : Nat) (an : Bool) (imm : Nat) : Nat := 0x1E * 2 ^ 26 + k * 2 ^ 24 + b2n an * 2 ^ 23 + imm
def encJR (ar k : Nat) (an : Bool) : Nat := 0x1F * 2 ^ 26 + ar * 2 ^ 22 + k * 2 ^ 20 + b2n an * 2 ^ 19
def encS (r : Nat) (t c : Bool) (num : Nat) : Nat := 0x2C * 2 ^ 26 + r * 2 ^ 21 + b2n t * 2 ^ 20 + b2n c * 2 ^ 19 + num
def encX (f imm : Nat) : Nat := 0x2D * 2 ^ 26 + f * 2 ^ 20 + imm

end Sys2Proof.Machine
end

