-- ==== Sys2Proof/Machine/Flags.lean ====
section
/-! DEFINITION. The event conditions that instructions compute: signed overflow, long-unit events, and branch conditions.
Iakisal has no condition-code register; its status register PSTAT is written only as chapter 06 states (06 R187, R223,
07 Tables 7-3, 7-4, 7-8, R246). -/

namespace Sys2Proof.Machine
open Sys2Proof

/-- The exact signed value does not fit in 64 bits (07 ADDO, SUBO, ADDIO, MULO). -/
def overflows64 (x : Int) : Bool := x < -(2 : Int) ^ 63 || (2 : Int) ^ 63 ≤ x

/-- Signed overflow of a sum, a difference and a product. -/
def addOverflow (a b : Word) : Bool := overflows64 (a.toInt + b.toInt)
def subOverflow (a b : Word) : Bool := overflows64 (a.toInt - b.toInt)
def mulOverflow (a b : Word) : Bool := overflows64 (a.toInt * b.toInt)

/-- The event of a long operation: divide by zero is cause 0x0E, overflow 0x0F (06 R187). -/
def divEvent (isSigned : Bool) (a b : Word) : Option Nat :=
  if b = 0 then some 0x0E else if isSigned ∧ a = BitVec.ofNat 64 (2 ^ 63) ∧ b = BitVec.allOnes 64 then some 0x0F else none

/-- The new memory value of an atomic on `bits` bits of the old value and the operand, none where it writes nothing (07 Table 7-6). -/
def amoNew (op : AmoOp) (bits old v : Nat) : Option Nat :=
  match op with
  | .swap => some v
  | .add => some (old + v)
  | .and => some (old &&& v)
  | .or => some (old ||| v)
  | .min => some (if signed bits old ≤ signed bits v then old else v)
  | .max => some (if signed bits old ≤ signed bits v then v else old)
  | .cas want => if old = want.toNat % 2 ^ bits then some v else none

/-- The conditions of two-register branches by their code (07 Table 7-8). -/
def condB (cond : Nat) (a b : Word) : Bool :=
  if cond = 0 then a == b
  else if cond = 1 then a != b
  else if cond = 2 then decide (a.toInt < b.toInt)
  else if cond = 3 then decide (b.toInt ≤ a.toInt)
  else if cond = 4 then decide (a.toNat < b.toNat)
  else decide (b.toNat ≤ a.toNat)

/-- The conditions of compare-with-zero branches by their code (07 Table 7-8). -/
def condZ (cond : Nat) (a : Word) : Bool :=
  if cond = 0 then a == 0
  else if cond = 1 then a != 0
  else if cond = 2 then decide (a.toInt < 0)
  else if cond = 3 then decide (0 ≤ a.toInt)
  else if cond = 4 then decide (0 < a.toInt)
  else decide (a.toInt ≤ 0)

end Sys2Proof.Machine
end

