-- ==== Sys2Proof/Machine/CoreOps.lean ====
section
/-! DEFINITION. What every core instruction shares: caches and data accesses, fetch, the frame buffer, taking an exception
or an interrupt and returning, the long unit, the predictor, counters and sampling (06 R180-R221, 08 R279-R284,
09 R296, 17 R492-R494). -/

namespace Sys2Proof.Machine
open Sys2Proof

/-! ### The running instruction -/

/-- Why an instruction does not complete: an exception with its cause and EVAL (`win` for a fault of WSPILL or WFILL, 06 R197), or
an interrupt that abandons a multi-step instruction (06 R215). -/
inductive Stop where
  | exn (cause eval : Nat) (win : Bool)
  | abandoned
deriving DecidableEq, Repr

/-- The device while one instruction of core `c` runs, with what its sample record will say of its accesses
(17 Table 17-10) and whether an access waited. -/
structure Run where
  st : State
  c : Nat
  dc : Nat
  src : Nat
  waited : Bool
deriving DecidableEq, Repr

/-- An instruction's work: it changes the device or stops. -/
abbrev OnCore := EStateM Stop Run

def getS : OnCore State := fun r => .ok r.st r
def modS (f : State → State) : OnCore Unit := fun r => .ok () { r with st := f r.st }
def getC : OnCore CoreS := fun r => .ok (r.st.core r.c) r
def modC (f : CoreS → CoreS) : OnCore Unit := fun r => .ok () { r with st := r.st.modCore r.c f }
def coreNo : OnCore Nat := fun r => .ok r.c r
def raise {α : Type} (cause eval : Nat) : OnCore α := fun r => .error (.exn cause eval false) r
def raiseIf (b : Bool) (cause eval : Nat) : OnCore Unit := fun r => if b then .error (.exn cause eval false) r else .ok () r
/-- A free value (assumption 1). -/
def drawC : OnCore Word := fun r => .ok (r.st.draw).1 { r with st := (r.st.draw).2 }
def note (dc src : Nat) (w : Bool) : OnCore Unit := fun r =>
  .ok () { r with dc := max r.dc dc, src := max r.src src, waited := r.waited || w }

/-! ### Attributes and events of a core -/

/-- The attributes of a core's accesses through a capability of domain `dom` (01 R38, Table 1-7). -/
def coreAttr (c dom priv : Nat) : Attr := ⟨coreMid c, dom, priv, 3⟩

/-- A core's event of class 0 or 1 at its counters (17 Table 17-3): the attributes are its master ID, level and an address. -/
def State.coreEv (s : State) (c cls ev n addr : Nat) : State :=
  s.count (coreDie c) (coreUnit c) cls ev n ⟨some (coreMid c), some (s.core c).lvl, some addr⟩

/-- SREC2.SRC of a place, seen from a core (17 Table 17-10). -/
def State.srcCode (s : State) (c a : Nat) : Nat :=
  let d := coreDie c
  let near := if d < 2 then d else if d < 5 then 0 else 1
  match s.loc a with
  | .dram x => if s.homeHub x = near then 4 else 5
  | .clSram e k _ => if e = d ∧ coreKind c < 2 ∧ k = coreLocal c then 1 else 2
  | .spSram e p _ => if e = d ∧ coreKind c = 2 ∧ p = (coreLocal c - 25) / 2 then 1 else 2
  | .hubSram h _ => if h = d then 1 else 3
  | .egress _ _ | .bootRom _ _ => 3
  | .unmapped => 0
  | l => if l.isReg then 6 else 2

/-! ### Caches (06 R202-R205, 08 R275, R281) -/

/-- The lines of a set among line addresses. -/
def setOf (a : Nat) : Nat := a / 64 % 64

def CoreS.line (c : CoreS) (a : Nat) : Option DLine := (c.dcache.find? (fun p => p.1 == a / 64 * 64)).map (·.2)
def CoreS.setLine (c : CoreS) (a : Nat) (l : DLine) : CoreS :=
  { c with dcache := SMap.insert (SMap.erase c.dcache (a / 64 * 64)) (a / 64 * 64) l }
def CoreS.dropLine (c : CoreS) (a : Nat) : CoreS := { c with dcache := SMap.erase c.dcache (a / 64 * 64) }

/-- A byte list taken from a line. -/
def DLine.bytes (l : DLine) (a n : Nat) : List Byte := ((natLE 64 l.data.toNat).drop (a % 64)).take n

/-- The gate lets the line be written (08 R281). -/
def DLine.wperm (l : DLine) : Bool := l.wdeny.isNone

/-- A line after a store of bytes; `tag` is the tag of a capability store, none for any other store (08 R275). -/
def DLine.put (l : DLine) (a : Nat) (bs : List Byte) (tag : Option Bool) (dom priv : Nat) : DLine :=
  let old := natLE 64 l.data.toNat
  let new := old.take (a % 64) ++ bs ++ old.drop (a % 64 + bs.length)
  let g := a % 64 / 16
  let t := BitVec.ofNat 4 (2 ^ g)
  { l with data := BitVec.ofNat 512 (leNat new), tags := if tag = some true then l.tags ||| t else l.tags &&& ~~~t,
           dirty := true, dom := dom, priv := priv,
           upset := l.upset.filter fun p => !(sramWordsOf (a % 64) bs.length).contains p.1 }

/-- The bit errors of a word of a line. -/
def DLine.upsetAt (l : DLine) (w : Nat) : Nat := SMap.get (dflt 0) l.upset w

/-- The words of its line that an access of `n` bytes at `a` reads: a store reads those that it covers in part. -/
def lineWords (a n : Nat) (write : Bool) : List Nat :=
  (sramWordsOf (a % 64) n).filter fun w => !(write && decide (a % 64 ≤ 8 * w) && decide (8 * w + 8 ≤ a % 64 + n))

/-- A line that an access of `n` bytes at `a` finds sound: its parity is right and no word that it reads has a bit error. -/
def DLine.sound (l : DLine) (a n : Nat) (write : Bool) : Bool :=
  !l.parity && (lineWords a n write).all fun w => l.upsetAt w == 0

/-- Memory that holds no tags loses the tag of a capability stored to it (08 R270). -/
def State.keepTag (s : State) (a : Nat) (tag : Option Bool) : Option Bool :=
  if (s.loc a).tagged then tag else tag.map fun _ => false

/-- Tags of a whole line set at the target (08 R275). -/
def State.lineTags (s : State) (a : Nat) (tags : BitVec 4) : State :=
  if (s.loc a).tagged then
    (upTo 4).foldl (fun s i => if bitOf tags.toNat i then s.setTag (a / 16 + i) else s) s
  else s

/-- An uncorrectable word or a line parity error in a stream core's caches or SRAM: its next submission carries ERRF (05 R176). -/
def State.markErr (s : State) (c : Nat) : State :=
  if coreKind c = 2 then
    { s with strm := SMap.set (dflt StrmS.reset) s.strm c { SMap.get (dflt StrmS.reset) s.strm c with err := true } }
  else s

/-- A core meets an uncorrectable line or word of its own caches: its unit sets its trouble bit and records the address (01 R17), and a
stream core's next submission carries ERRF (05 R176). -/
def State.cacheUe (s : State) (c a : Nat) : State :=
  ({ s with ueAddr := SMap.set (dflt 0) s.ueAddr (256 * coreDie c + 128 + coreLocal c) (a + 1) }.troubleCore c).markErr c

/-- A dirty line is written back: checked at the gate as a write. A denied one is discarded, and so is one whose address or tags
have wrong parity or one of whose words is uncorrectable; the core sets its trouble bit (08 R281, 01 R17; assumption 93). -/
def State.writeBack (s : State) (c a : Nat) (l : DLine) : State :=
  let s := s.coreEv c 1 6 1 (s.core c).pcc.cur
  if l.parity || l.upset.any (fun p => decide (2 ≤ p.2)) then s.cacheUe c a
  else
    match s.busWrite (coreAttr c l.dom l.priv) kWriteBack a (natLE 64 l.data.toNat) none with
    | (.ok, s) => s.lineTags a l.tags
    | (_, s) => s.troubleCore c

/-- A line leaves the cache, written back if dirty. -/
def State.evict (s : State) (c a : Nat) : State :=
  match (s.core c).line a with
  | none => s
  | some l =>
    let s := if l.dirty then s.writeBack c (a / 64 * 64) l else s
    s.modCore c fun x => x.dropLine a

/-- Room for one more line of a set: the victim of a full set leaves (06 R202; assumption 11). -/
def State.makeRoom (s : State) (c a : Nat) : State :=
  let ls := (s.core c).dcache.filter fun p => setOf p.1 == setOf a
  match ls[(Config.victim s.fresh).val]? with
  | some p => if 4 ≤ ls.length then { s.evict c p.1 with fresh := s.fresh + 1 } else s
  | none => s

/-- A line of the SRAM of a stream core's own pair. -/
def State.ownSram (s : State) (c a : Nat) : Bool :=
  match s.loc a with
  | .spSram d p _ => coreKind c == 2 && d == coreDie c && p == (coreLocal c - 25) / 2
  | _ => false

/-- A data-cache fill: a read check or a write check at the gate; the line keeps the gate's answer on writing (08 R281).
The result is none, or the cause of the exception. -/
def State.fill (s : State) (c dom priv a : Nat) (write : Bool) : Option Nat × State :=
  let b := coreAttr c dom priv
  let a0 := a / 64 * 64
  let s := s.coreEv c 1 5 1 (s.core c).pcc.cur
  match s.busRead b (if write then kWrite else kRead) a0 64 with
  | ((.ok, bytes), s) =>
    let l := s.loc a0
    let deny := if write then none else match gateOf s.shape s.homeHub l with
      | some (d, g) => s.gateReason d g l b kWrite a0
      | none => none
    let tags := BitVec.ofNat 4 ((upTo 4).foldl (fun n i => if s.tagAt (a0 + 16 * i) then n + 2 ^ i else n) 0)
    let s := s.makeRoom c a0
    (none, s.modCore c fun x => x.setLine a0 ⟨BitVec.ofNat 512 (leNat bytes), tags, false, deny, dom, priv, false, []⟩)
  | ((.uncorr, _), s) => (some 0x13, if s.ownSram c a0 then s.markErr c else s)
  | (_, s) => (some 0x08, s)

/-- A held line meets an access of `n` bytes: with wrong parity a clean line leaves, to be fetched again, and a dirty one raises 0x13
(01 Table 1-3). A word with one bit error is corrected, and one with two raises 0x13 (01 R16, R17). The result says whether it raises. -/
def State.lineCheck (s : State) (c a n : Nat) (write : Bool) : Bool × State :=
  match (s.core c).line a with
  | some l =>
    if l.sound a n write then (false, s)
    else if l.parity then
      if l.dirty then (true, s.cacheUe c a) else (false, (s.markErr c).modCore c fun x => x.dropLine a)
    else
      let ws := lineWords a n write
      let ev : EvAttr := ⟨some (coreMid c), some (s.core c).lvl, some a⟩
      let t := (s.count (coreDie c) (coreUnit c) 4 2 (ws.filter fun w => l.upsetAt w == 1).length ev).count (coreDie c) (coreUnit c) 4 3
        (ws.filter fun w => 2 ≤ l.upsetAt w).length ev
      if ws.any (fun w => 2 ≤ l.upsetAt w) then (true, t.cacheUe c a) else (false, t)
  | none => (false, s)

/-- The lines that a core holds of a range leave its data cache, dirty ones written back. -/
def State.evictRange (s : State) (c a n : Nat) : State :=
  let t := (((s.core c).dcache.map (·.1)).filter fun l => decide (a < l + 64) && decide (l < a + n)).foldl (fun s l => s.evict c l) s
  { t with stalled := s.stalled }

/-- The runtime of a core reads part of a line of domain 0 at S through the data cache; none where the data cannot be had. -/
def State.coreLine (s : State) (c a n : Nat) : Option (List Byte) × State :=
  match s.lineCheck c a n false with
  | (true, s) => (none, s)
  | (false, s) =>
    match (s.core c).line a with
    | some l => (some (l.bytes a n), s)
    | none =>
      let (_, t) := s.fill c 0 1 a false
      (((t.core c).line a).map fun l => l.bytes a n, { t with stalled := s.stalled })

/-- The core reports to the gate a store that hit a line it may not write, and the gate records it (08 R281). -/
def State.reportDeny (s : State) (b : Attr) (a reason : Nat) : State :=
  match gateOf s.shape s.homeHub (s.loc a) with
  | some (d, g) => s.gateRecord d g b kWrite a reason
  | none => s

/-! ### The frame buffer (06 R208, R209) -/

/-- The physical address of byte `i` of a latched range. -/
def Latch.at (l : Latch) (i : Nat) : Nat := if i < l.cut then l.phys + i else l.phys2 + (i - l.cut)

/-- Offsets of the frame's granules: the buffer holds 0x00-0x9F (06 Table 6-6). -/
def frameGranules : List Nat := (upTo 10).map (16 * ·)

/-- A line of a core's own data cache that holds bytes written behind it takes them too (assumption 16). -/
def State.lineToo (s : State) (c a : Nat) (bs : List Byte) (tag : Option Bool) : State :=
  match (s.core c).line a with
  | some l => s.modCore c fun x => x.setLine a { l.put a bs (s.keepTag a tag) l.dom l.priv with dirty := l.dirty }
  | none => s

/-- The granules of a frame drain, each behind the target gate; the address of the first write that fails: denied, faulting, or into a
word that is uncorrectable (06 R210, R211). -/
def State.drainGo (c : Nat) (f : FrameBuf) : List Nat → State → Option Nat × State
  | [], s => (none, s)
  | o :: os, s =>
    let a := f.dest.at o
    let bs := (f.bytes.drop o).take 16
    let t := bitOf f.tags.toNat (o / 16)
    match s.busWrite (coreAttr c f.dom f.level) kWrite a bs (some t) with
    | (.ok, s') => if s.uncorr a 16 then (some a, s') else State.drainGo c f os (s'.lineToo c a bs (some t))
    | (_, s) => (some a, s)

/-- The bytes of a frame and its granule tags (06 Table 6-6). -/
def frameImage (epcc a0 a1 : Cap) (estat ecause eval : Word) (etgt : Cap) (ds : List Word) : List Byte :=
  epcc.bytes ++ a0.bytes ++ a1.bytes ++ natLE 8 estat.toNat ++ natLE 8 ecause.toNat ++ natLE 8 eval.toNat ++ natLE 8 0 ++
    etgt.bytes ++ ds.flatMap (fun d => natLE 8 d.toNat)

def frameTags (epcc a0 a1 etgt : Cap) : BitVec 16 :=
  BitVec.ofNat 16 (b2n epcc.tag + 2 * b2n a0.tag + 4 * b2n a1.tag + 32 * b2n etgt.tag)

/-! ### Exceptions (06 R206-R214, Table 6-5) -/

/-- The system-register numbers of a level's set: EPCC, ESTAT, ECAUSE, EVAL, ETGT, XSA, SVEC, or the M set (06 R208). -/
def excBase (t : Nat) : Nat := if t = 2 then 0x200 else 0x100

/-- The exception registers of level `t` written, the frame image made, and control moved to the vector; the frame goes into
the buffer or, for a double fault, to the caller. `p` is PSTAT at entry. -/
def CoreS.enter (x : CoreS) (t : Nat) (resume etgt : Cap) (cause eval : Word) : CoreS :=
  let b := excBase t
  let p := x.pstat
  let x := (((((x.setCapSys b resume).setCapSys (b + 4) etgt).setSys (b + 1) p).setSys (b + 2) cause).setSys (b + 3) eval)
  let p := putBits (putBits p 0 2 t) 2 1 0
  let p := if t = 2 then putBits p 3 1 0 else p
  { x.setSys 0 p with pcc := x.capSys (b + 6), delay := none, waiting := false,
                      entered := some ((x.capSys (b + 6)).cur, (x.capSys (b + 6)).dom) }

/-- The window move of a branch, after its delay slot (06 R194). -/
def CoreS.winMove (x : CoreS) : WinMove → CoreS
  | .none => x
  | .call => x.setCwp ((x.cwp + 1) % 12)
  | .ret => x.setCwp ((x.cwp + 11) % 12)
  | .to w => x.setCwp (w % 12)

/-- A pending branch has its effect on the window, once: an exception between it and its delay slot (06 R199). -/
def CoreS.takeMove (x : CoreS) : CoreS :=
  match x.delay with
  | some d => { x.winMove d.move with delay := some { d with move := .none } }
  | none => x

/-- The oldest long operation completes: its destination is written over the older writes still in their shadow, and an enabled event
becomes pending (06 R180, R184-R188). With PRE = 0, DZE and OVE are tested here, at completion (DESIGN CHOICE, assumption 94). -/
def CoreS.longDone (x : CoreS) : CoreS :=
  match x.longq with
  | [] => x
  | o :: os =>
    let enabled := match o.event with
      | some 0x0E => x.dze
      | some _ => x.ove
      | none => false
    { x with longq := os, d := SMap.set (dflt 0) x.d o.dest o.value,
             shadows := x.shadows.filter fun y => !(y.reg == RegRef.d o.dest && decide (y.left ≤ o.older)),
             imprecise := match o.event with
               | some e => if enabled then x.imprecise ++ [(e, o.cursor)] else x.imprecise
               | none => x.imprecise }

/-- Every outstanding operation completes. -/
def CoreS.longAll (x : CoreS) : CoreS := (x.longq.foldl (fun y _ => y.longDone) x)

/-- The oldest operations complete while one of those behind them, or itself, has reached its worst case. -/
def CoreS.longDue : Nat → CoreS → CoreS
  | 0, x => x
  | n + 1, x => if x.longq.any (fun o => o.left == 0) then CoreS.longDue n x.longDone else x

/-- `n` steps pass: an operation whose worst case is over completes, and with it every older one, in issue order. -/
def CoreS.longTick (n : Nat) (x : CoreS) : CoreS :=
  CoreS.longDue x.longq.length { x with longq := x.longq.map fun (o : LongOp) => { o with left := o.left - n } }

/-- Steps of a core that are not an instruction's own: STEPS and the step counter go on, and the long unit works (02 R43,
06 R184; 17 Table 17-3). -/
def State.steps (s : State) (c n pc : Nat) : State :=
  (s.coreEv c 1 1 n pc).modCore c fun x => (x.setSys 1 (x.sysReg 1 + BitVec.ofNat 64 n)).longTick n

/-- The steps of an entry (06 R221). -/
def entrySteps : Nat := 28

/-- The values of D0-D7, A0 and A1 that an entry copies. -/
def CoreS.frameOf (x : CoreS) (resume etgt : Cap) (cause eval : Word) : List Byte × BitVec 16 :=
  (frameImage resume (x.ra 0) (x.ra 1) x.pstat cause eval etgt ((upTo 8).map fun i => x.rd (BitVec.ofNat 5 i)),
   frameTags resume (x.ra 0) (x.ra 1) etgt)

/-- The capability to the fixed monitor area that a double fault gives A0 (06 R211). Its rights and domain are a DESIGN
CHOICE (assumption 17). -/
def monitorCap (c : Nat) : Cap := Cap.make (coreFixedArea c) (coreFixedArea c) 0x800 0 0x7B 0 0 true

/-- Sixteen-byte granules stored with their tags and no check, in memory and in the lines that the core holds of them. -/
def State.storeGranules (s : State) (c a : Nat) (bs : List Byte) (tags : Nat) : State :=
  (upTo (bs.length / 16)).foldl (fun s i =>
    let p := (bs.drop (16 * i)).take 16
    (s.store (a + 16 * i) p (some (bitOf tags i))).lineToo c (a + 16 * i) p (some (bitOf tags i))) s

/-- Double-fault entry (06 R211, R212): `info` is MEVAL without INNER, `inner` the cause being entered, `fb` the contents of
the frame buffer, `bad` the address of a failed frame write. -/
def State.doubleFault (s : State) (c : Nat) (resume etgt : Cap) (inner info : Nat) (fb : Option FrameBuf) (bad : Nat)
    (bd : Bool) : State :=
  let x := (s.core c).flush
  if getBits (x.sysReg 0x207) 0 1 = 1 then
    (s.setCore c { x with running := false, halted := true, frame := none }).troubleCore c
  else
    let cause : Word := BitVec.ofNat 64 (0x12 + 256 * b2n bd)
    let eval : Word := BitVec.ofNat 64 (inner + info)
    let (bytes, tags) := x.frameOf resume etgt cause eval
    let area := coreFixedArea c
    let y := x.enter 2 resume etgt cause eval
    let y := (y.setPs 12 1 0).setSys 0x207 1
    let y := { y with a := SMap.set aReset y.a 0 (monitorCap c), frame := none }
    let s := s.setCore c y
    let s := match fb with
      | some f => s.storeGranules c area (f.bytes ++ List.replicate 96 0) f.tags.toNat
      | none => s.storeGranules c area (List.replicate 256 0) 0
    let s := s.storeGranules c (area + 0x100) bytes tags.toNat
    let s := s.storeGranules c (area + 0x200) (x.capSys 0x108).bytes (b2n (x.capSys 0x108).tag)
    let s := s.storeGranules c (area + 0x210) (natLE 8 (x.sysReg 0x109).toNat ++ natLE 8 bad) 0
    (s.coreEv c 1 7 1 resume.cur).steps c entrySteps resume.cur

/-- The frame buffer drains into memory; a failed write is a double fault at the boundary before `resume` (06 R209-R211). Its
MEVAL.INNER is the cause of the frame in the buffer, also where a further exception waits for the drain (DESIGN CHOICE, assumption 95).
The result says whether the core goes on. -/
def State.drain (s : State) (c : Nat) (resume etgt : Cap) (bd : Bool) : Bool × State :=
  match (s.core c).frame with
  | none => (true, s)
  | some f =>
    match State.drainGo c f frameGranules s with
    | (none, s) => (true, s.modCore c fun x => { x with frame := none })
    | (some a, s) => (false, (s.modCore c CoreS.takeMove).doubleFault c resume etgt f.cause 0x200 (some f) a bd)

/-- Entry for a synchronous exception, an imprecise long event or a normal interrupt to level `t` (06 R208-R211). `code` is
ECAUSE, `win` a fault of WSPILL or WFILL, `bd` the resume point is a delay slot. -/
def State.except (s : State) (c t : Nat) (resume etgt : Cap) (code eval : Nat) (win bd : Bool) : State :=
  let s := s.modCore c CoreS.flush
  match s.drain c resume etgt bd with
  | (false, s) => s
  | (true, s) =>
    let x := s.core c
    let inner := code % 256
    let latch := if t = 2 then x.mxsaLatch else x.xsaLatch
    if win || x.fb then s.doubleFault c resume etgt inner (256 * b2n win + 1024 * b2n x.fb) none 0 bd
    else if !latch.valid then s.doubleFault c resume etgt inner 0x200 none 0 bd
    else
      let cause : Word := BitVec.ofNat 64 (code + 256 * b2n bd)
      let ev : Word := BitVec.ofNat 64 eval
      let (bytes, tags) := x.frameOf resume etgt cause ev
      let xsa := x.capSys (excBase t + 5)
      let y := x.enter t resume etgt cause ev
      let y := if code = 0x0C ∨ code = 0x0D then y.setCwp ((x.cwp + 1) % 12) else y
      let y := { y with a := SMap.set aReset y.a 0 xsa, frame := some ⟨latch, xsa.dom, bytes, tags, t, inner⟩ }
      let s := s.setCore c y
      (s.coreEv c 1 (if bitOf code 10 then 8 else 7) 1 resume.cur).steps c entrySteps resume.cur

/-- The level a synchronous exception is taken at (06 Table 6-5). -/
def excLevel (code lvl : Nat) : Nat :=
  if code = 0x10 then (if lvl = 0 then 1 else 2)
  else if code = 0x13 then 2
  else if lvl = 2 then 2 else 1

/-! ### Interrupt sources (06 R217, R218; 09 R306, 11 R337, R356, 17 R484, 03 R117) -/

/-- LATTICE: the lattice event of a cluster or comet core. -/
def State.irqLattice (s : State) (c : Nat) : Bool :=
  coreKind c < 2 &&
    (s.fld (clRegBase (coreDie c) (coreLocal c) + 0x48) 0 6 &&& s.fld (clRegBase (coreDie c) (coreLocal c) + 0x40) 0 6) != 0

/-- QUEUE: the core's notify queue holds entries. -/
def State.irqQueue (s : State) (c : Nat) : Bool :=
  match s.notifyQueue c with
  | some q => (s.qDesc 0 q).en && (s.qDesc 0 q).count != 0
  | none => false

/-- DMA: an ENGIRQ bit whose channel names the core. -/
def State.irqDma (s : State) (c : Nat) : Bool :=
  let d := coreDie c
  (if d < 2 then [d] else [2 * d - 2, 2 * d - 1]).any fun e =>
    (upTo (engChans e)).any fun ch =>
      s.bit (engBase e + 0x8000) ch && s.fld (chanBase e ch + 0x100) 53 6 == coreLocal c

/-- GATE: a first violation in a gate that reports to the core. -/
def State.irqGate (s : State) (c : Nat) : Bool :=
  let d := coreDie c
  (upTo (if d < 2 then 24 else 100)).any fun g =>
    s.bit (gateReg d g) 0 && s.fld (gateReg d g) 1 6 == coreLocal c && s.bit (gateReg d g + 0x18) 63

/-- COUNTER: an overflow or a sample record of a block that reports to the core. -/
def State.irqCounter (s : State) (c : Nat) : Bool :=
  let d := coreDie c
  let b := counterBlock d
  s.bit (b + 0xE000) 1 && s.fld (b + 0xE000) 2 6 == coreLocal c &&
    ((upTo (if d < 2 then 24 else 43)).any (fun u => (upTo 4).any fun i =>
        bitOf (s.ctr (b + 0x100 * u + 0x40 * i + 0x20)).toNat 48 && bitOf (s.ctr (b + 0x100 * u + 0x40 * i)).toNat 1) ||
      (upTo (if d < 2 then 4 else 37)).any (fun r =>
        s.bit (b + 0xA000 + 0x40 * r + 0x10) 63 && s.bit (b + 0xA000 + 0x40 * r) 1))

/-- IPEND as it reads (06 Table 6-8): TIDE, TOVR and SOFT are held, the other bits follow their sources. -/
def State.ipend (s : State) (c : Nat) : Nat :=
  (getBits ((s.core c).sysReg 8) 0 1) + 2 * b2n (s.irqLattice c) + 4 * getBits ((s.core c).sysReg 8) 2 1 +
    256 * b2n (s.irqQueue c) + 512 * b2n (s.irqDma c) + 1024 * b2n (s.irqGate c) + 2048 * b2n (s.irqCounter c) +
    4096 * getBits ((s.core c).sysReg 8) 12 1

/-- The asserted sources: bits 0, 1 and 8-12 of IPEND AND IEN (06 R217). -/
def State.asserted (s : State) (c : Nat) : Nat := s.ipend c &&& ((s.core c).sysReg 9).toNat &&& 0x1F03

/-! ### The predictor (06 R200) -/

/-- The predictor cleared, as PFLUSH does. -/
def CoreS.pflush (x : CoreS) : CoreS := { x with dir := [], gh := 0, targets := [], ras := [] }

/-- A conditional branch at `pc`: whether its direction was guessed wrong, and the trained predictor. Saturation of the
counters is PRESUMED, and that unconditional and indirect jumps are no outcomes of the history (assumption 18). -/
def CoreS.predict (x : CoreS) (pc : Nat) (taken : Bool) : Bool × CoreS :=
  let i := (pc / 4 % 1024) ^^^ x.gh
  let n := SMap.get (dflt 1) x.dir i
  (decide (2 ≤ n) != taken,
   { x with dir := SMap.set (dflt 1) x.dir i (if taken then min 3 (n + 1) else n - 1), gh := (2 * x.gh + b2n taken) % 1024 })

/-- An indirect jump at `pc` to `t`: whether its target was guessed wrong, and the trained table. Entries hold the target
plus 1; an invalid one guesses wrong. -/
def CoreS.predictInd (x : CoreS) (pc t : Nat) : Bool × CoreS :=
  let i := (pc / 4 % 256) ^^^ (x.gh / 4 % 256)
  (SMap.get (dflt 0) x.targets i != t + 1, { x with targets := SMap.set (dflt 0) x.targets i (t + 1) })

/-- The target that the table guesses for an indirect jump at `pc`. -/
def CoreS.guessInd (x : CoreS) (pc : Nat) : Option Nat :=
  match SMap.get (dflt 0) x.targets ((pc / 4 % 256) ^^^ (x.gh / 4 % 256)) with
  | 0 => none
  | t + 1 => some t

/-- A call pushes its return address on the stack of eight; a return pops it. Which jumps do so is PRESUMED (assumption 18). -/
def CoreS.rasPush (x : CoreS) (r : Nat) : CoreS := { x with ras := (r :: x.ras).take 8 }
def CoreS.rasPop (x : CoreS) (t : Nat) : Bool × CoreS := (x.ras.head? != some t, { x with ras := x.ras.drop 1 })

/-! ### Fetch (08 R280, 06 R203, R220) -/

/-- The fetch is one of a handler's first, served by the vector buffer that its entry went through (06 R220). -/
def CoreS.inVector (x : CoreS) (a : Nat) : Bool :=
  match x.entered with
  | some (v, dom) => v ≤ a && a < v + 32 && x.pcc.dom == dom
  | none => false

/-- A line enters the instruction cache in a place whose choice is free when the set is full (06 R202; assumption 11). -/
def State.iPlace (s : State) (c line : Nat) : State :=
  let x := s.core c
  let same := x.icache.filter fun a => setOf a == setOf line
  let keep := if 4 ≤ same.length then
      (match same[(Config.victim s.fresh).val]? with | some v => nsDel x.icache v | none => x.icache)
    else x.icache
  { s.modCore c (fun y => { y with icache := nsAdd keep line, iparity := nsDel y.iparity line,
                                   iupset := y.iupset.filter fun p => p.1 / 8 != line / 64 }) with fresh := s.fresh + 1 }

/-- A fetch finds its line in the instruction cache with right parity; a line with wrong parity is invalidated and fetched again
(01 Table 1-3). -/
def CoreS.iHit (x : CoreS) (line : Nat) : Bool := nsMem x.icache line && !nsMem x.iparity line

/-- The checks of a fetch on the correct path: none, or cause and EVAL; and SREC2.IC (0 hit, 1 miss, 2 vector buffer). -/
def State.fetch (s : State) (c : Nat) : (Option (Nat × Nat) × Nat) × State :=
  let x := s.core c
  let pc := x.pcc.cur
  let s := s.coreEv c 0 0 1 pc
  match x.pcc.outside pc 4 with
  | some _ => ((some (0x02, pc), 0), s)
  | none =>
    match s.translate (16 + c) x.pcc.dom x.lvl pc .exec with
    | (.fault k a, s) => ((some (k, a), 0), s)
    | (.ok phys _, s) =>
      let line := phys / 64 * 64
      if x.inVector pc then ((none, 2), s)
      else if x.iHit line then
        if 2 ≤ SMap.get (dflt 0) x.iupset (phys / 8) then ((some (0x13, pc), 0), s.cacheUe c phys) else ((none, 0), s)
      else
        match (s.coreEv c 0 1 1 pc).busRead (coreAttr c x.pcc.dom x.lvl) kFetch line 64 with
        | ((.ok, _), s) => ((none, 1), s.iPlace c line)
        | ((.uncorr, _), s) => ((some (0x13, pc), 1), if s.ownSram c line then s.markErr c else s)
        | (_, s) => ((some (0x08, pc), 1), s)

/-- One fetch on a wrong path: it is made where no check would fail, by a copy the core holds, and may fill a line of the
instruction cache; of the counters only those of the fetch class change (06 R201, 08 R280, 17 R482). -/
def State.wrongFetch (s : State) (c pc : Nat) : State :=
  let x := s.core c
  let m := coreMid c
  let dom := x.pcc.dom
  let place : Option Nat :=
    if dom = 0 ∧ getBits (s.dtb (coreDie c) 0) 63 1 = 0 then
      (if identityDevice (selfAlias m pc) then none else some (selfAlias m pc))
    else match s.findCopy (16 + c) dom pc with
      | some i =>
        let e := s.copyAt (16 + c) dom i
        if permits e x.lvl .exec then some (selfAlias m (btPBase e + (pc - btVBase e))) else none
      | none => none
  match x.pcc.outside pc 4, place with
  | none, some phys =>
    let line := phys / 64 * 64
    let s := s.coreEv c 0 0 1 pc
    if x.iHit line then s
    else
      let b := coreAttr c dom x.lvl
      match gateOf s.shape s.homeHub (s.loc line) with
      | some (d, g) =>
        if (s.gateReason d g (s.loc line) b kFetch line).isSome || !s.dieActs d || s.portClosed (s.loc line) || s.uncorr line 64 then s
        else (s.coreEv c 0 1 1 pc).iPlace c line
      | none => s
  | _, _ => s

/-- A wrong path fetches at most two instructions past the delay slot; how many is a free value (06 R201; assumption 80). -/
def State.wrongPath (s : State) (c pc : Nat) : State :=
  let (w, s) := s.draw
  (upTo (w.toNat % 3)).foldl (fun s i => s.wrongFetch c ((pc + 4 * i) % 2 ^ 44)) s

/-! ### Data accesses (07 R233) -/

/-- The capability checks of an access in the order of R233: `align` is its alignment, `n` the bytes checked. -/
def Cap.access (k : Cap) (need a n align : Nat) : Option (Nat × Nat) :=
  if !k.tag then some (0x01, a)
  else if k.sealed then some (0x04, a)
  else if k.rights &&& need != need then some (0x03, a)
  else if a % align != 0 then some (0x05, a)
  else match k.outside a n with
    | some x => some (0x02, x)
    | none => none

/-- The lowest byte of `n` at `a` that lies outside the bounds, as EVAL of 0x02. -/
def Cap.lowestOutside (k : Cap) (a n : Nat) : Nat := (k.outside a n).getD a

/-- Rights as masks (08 Table 8-2). -/
def rLD : Nat := 1
def rST : Nat := 2
def rEX : Nat := 4
def rLC : Nat := 8
def rSC : Nat := 16
def rSL : Nat := 32
def rGL : Nat := 64
def rSE : Nat := 128

def checkCap (k : Cap) (need a n align : Nat) : OnCore Unit := fun r =>
  match k.access need a n align with
  | some (cause, eval) => .error (.exn cause eval false) r
  | none => .ok () r

/-- Where the running instruction resumes if the frame drain before it fails. -/
def CoreS.etgtOf (x : CoreS) : Cap := match x.delay with | some d => d.cont | none => Cap.null

/-- The instructions of 06 R209 wait here until the frame buffer has drained; a failed drain is a double fault before the
instruction, which then has not run (`Stop.exn 0x12`, taken already). -/
def waitDrain : OnCore Unit := fun r =>
  let x := r.st.core r.c
  match r.st.drain r.c x.pcc x.etgtOf x.delay.isSome with
  | (true, s) => .ok () { r with st := s }
  | (false, s) => .error (.exn 0x12 0 false) { r with st := s }

/-- Translation of one access of the running core. -/
def xlate (dom va : Nat) (n : Need) : OnCore (Nat × Bool) := fun r =>
  match r.st.translate (16 + r.c) dom (r.st.core r.c).lvl va n with
  | (.ok a dev, s) => .ok (a, dev) { r with st := s }
  | (.fault k e, s) => .error (.exn k e false) { r with st := s }

/-- A FENCE that has not completed holds the next data access until it does (07 R253). -/
def passFence : OnCore Unit := do
  let x ← getC
  if x.fencing then
    waitDrain
    modC fun x => { x with fencing := false }

/-- The bytes of the frame buffer over bytes read from memory (06 R209). -/
def FrameBuf.lay (f : FrameBuf) (a : Nat) (bs : List Byte) : List Byte :=
  (bs.zip (upTo bs.length)).map fun p =>
    match (upTo 160).find? (fun o => f.dest.at o == a + p.2) with
    | some o => (f.bytes[o]?).getD p.1
    | none => p.1

/-- The tag that the frame buffer gives a granule it holds. -/
def FrameBuf.overTag (f : FrameBuf) (a : Nat) (t : Bool) : Bool :=
  match frameGranules.find? (fun o => f.dest.at o == a) with
  | some o => bitOf f.tags.toNat (o / 16)
  | none => t

/-- Bytes and a granule's tag of a held line, as a load reads them. -/
def CoreS.lineLoad (x : CoreS) (l : DLine) (a n : Nat) : List Byte × Bool :=
  match x.frame with
  | some f => (f.lay a (l.bytes a n), f.overTag a (bitOf l.tags.toNat (a % 64 / 16)))
  | none => (l.bytes a n, bitOf l.tags.toNat (a % 64 / 16))

/-- A held line's parity and words, before an access of `n` bytes to it. -/
def checkLine (a va n : Nat) (write : Bool) : OnCore Unit := do
  let s ← getS
  let c ← coreNo
  let (bad, s') := s.lineCheck c a n write
  modS fun _ => s'
  raiseIf bad 0x13 va

/-- `n` bytes and the granule's tag loaded at `va` after the capability checks (07 R233, 08 R281). -/
def load (k : Cap) (va n : Nat) : OnCore (List Byte × Bool) := do
  passFence
  let (a, dev) ← xlate k.dom va .read
  let s ← getS
  let c ← coreNo
  let x ← getC
  if dev then
    let ((r, bs), s') := s.busRead (coreAttr c k.dom x.lvl) kRead a n
    modS fun _ => s'
    note 3 (s.srcCode c a) true
    raiseIf (r == .denied || r == .decode) 0x08 va
    raiseIf (r == .uncorr) 0x13 va
    let tag := (isRegPlace (s.loc a) || (s.loc a).tagged) && s.tagAt a
    return match x.frame with
      | some f => (f.lay a bs, f.overTag a tag)
      | none => (bs, tag)
  else
    checkLine a va n false
    let x ← getC
    match x.line a with
    | some l =>
      note 1 0 false
      return x.lineLoad l a n
    | none =>
      let s ← getS
      let (r, s') := s.fill c k.dom x.lvl a false
      modS fun _ => s'
      note 2 (s.srcCode c a) true
      match r with
      | some cause => raise cause va
      | none =>
        let y ← getC
        match y.line a with
        | some l => return y.lineLoad l a n
        | none => return ([], false)

/-- Bytes stored at `va` after the capability checks; `tag` is the tag of a capability store, none for any other, and `heal` marks CSC and
CCOPY, which clear the poison of their word (10 R321). -/
def storeAs (k : Cap) (va : Nat) (bs : List Byte) (tag : Option Bool) (heal : Bool) : OnCore Unit := do
  passFence
  waitDrain
  let (a, dev) ← xlate k.dom va .write
  let s ← getS
  let c ← coreNo
  let x ← getC
  let b := coreAttr c k.dom x.lvl
  if dev then
    let (r, s') := s.busWriteAs b kWrite a bs tag heal
    modS fun _ => s'
    note 3 (s.srcCode c a) true
    raiseIf (r == .uncorr) 0x13 va
    raiseIf (r != .ok) 0x08 va
  else
    let tag := s.keepTag a tag
    checkLine a va bs.length true
    let x ← getC
    match x.line a with
    | some l =>
      note 1 0 false
      match l.wdeny with
      | none => modC fun x => x.setLine a (l.put a bs tag k.dom x.lvl)
      | some reason =>
        modS fun s => s.reportDeny b a reason
        raise 0x08 va
    | none =>
      let s ← getS
      if heal && nsMem s.poison (a / 64) then
        let (r, s') := s.busWriteAs b kWrite a bs tag true
        modS fun _ => s'
        note 2 (s.srcCode c a) true
        raiseIf (r == .uncorr) 0x13 va
        raiseIf (r != .ok) 0x08 va
      else
        let (r, s') := s.fill c k.dom x.lvl a true
        modS fun _ => s'
        note 2 (s.srcCode c a) true
        match r with
        | some cause => raise cause va
        | none => modC fun x => match x.line a with
          | some l => x.setLine a (l.put a bs tag k.dom x.lvl)
          | none => x

/-- Bytes stored by any instruction but CSC and CCOPY. -/
def store (k : Cap) (va : Nat) (bs : List Byte) (tag : Option Bool) : OnCore Unit := storeAs k va bs tag false

/-! ### How an instruction ends -/

/-- The flow of control after an instruction and its steps (06 R198, 07 Table 7-12): the next word; a delay slot; the slot
skipped (annulled); or a new PCC, with what follows the instruction there. -/
inductive Flow where
  | seq (steps : Nat)
  | slot (steps : Nat) (d : Delay)
  | skip (steps : Nat)
  | goto (steps : Nat) (pcc : Cap) (d : Option Delay)
deriving DecidableEq, Repr

def Flow.steps : Flow → Nat
  | .seq n | .slot n _ | .skip n | .goto n _ _ => n

/-- The instruction installs a PCC of its own: RETX, RETF and CCALL. -/
def Flow.installs : Flow → Bool
  | .goto _ _ _ => true
  | _ => false

/-- PCC and the pending delay slot after an instruction that completed. -/
def CoreS.advance (x : CoreS) (f : Flow) : CoreS :=
  match f with
  | .slot _ d => { x with pcc := x.pcc.adv 4, delay := some d }
  | .skip _ => { x with pcc := x.pcc.adv 8, delay := none }
  | .goto _ p d => { x with pcc := p, delay := d }
  | .seq _ =>
    match x.delay with
    | some d => { x.winMove d.move with pcc := d.cont, delay := none }
    | none => { x with pcc := x.pcc.adv 4 }

/-! ### Sampling (17 R492-R494) -/

/-- The sampling registers of a core. -/
def sampBase (c : Nat) : Nat := counterBlock (coreDie c) + 0xA000 + 0x40 * coreLocal c

/-- One step of the sampling LFSR (17 R493). -/
def lfsr (x : Nat) : Nat := if x % 2 = 1 then (x / 2) ^^^ 0x80200003 else x / 2

/-- A new interval: the LFSR steps and the countdown is loaded (17 R493). -/
def State.newInterval (s : State) (c : Nat) : State :=
  let b := sampBase c
  let x := lfsr (s.fld (b + 8) 0 32)
  let l := s.fld b 2 5
  (s.setFld (b + 8) 0 32 x).modCore c fun y => { y with countdown := 2 ^ (l - 1) + x % 2 ^ l }

/-- A write of SEED loads the LFSR and starts a new interval (17 R493). -/
def State.seedWrite (s : State) (c v : Nat) : State :=
  if v = 0 then s else (s.setFld (sampBase c + 8) 0 32 v).newInterval c

/-- The countdown expires: the next instruction is tagged, or dropped while a record is held; then a new interval begins
(17 R494). -/
def State.sampleExpire (s : State) (c : Nat) : State :=
  let b := sampBase c
  let s := if s.bit (b + 0x10) 63 then s.addSat (b + 0x28) 0 32 1 else s.modCore c fun y => { y with tagged := true }
  s.newInterval c

/-- The stages that an instruction with an exception reached (17 R494): one whose fetch failed none past fetch; 0x09 and 0x0A are found
at decode, the window, return, trap and breakpoint causes at execute, the rest at memory and check (06 R180; DEDUCED, assumption 96). -/
def stagesOf (inFetch : Bool) : Option Nat → Nat
  | none => 5
  | some k =>
    if inFetch then 1 else if k = 0x09 ∨ k = 0x0A then 2
    else if k = 0x0B ∨ k = 0x0C ∨ k = 0x0D ∨ k = 0x10 ∨ k = 0x11 then 3 else 4

/-- SREC0-SREC2 of a tagged instruction (17 Table 17-10): `x` the core at its fetch, `cause` none when it completed. The
steps of its stages are timing and take free values; a stage not reached reads 0 (17 R494). -/
def State.sampleRecord (s : State) (c : Nat) (x : CoreS) (ic dc src : Nat) (cause : Option Nat) (inFetch : Bool) : State :=
  let b := sampBase c
  let off := (x.pcc.cur + 2 ^ 44 - x.pcc.base) % 2 ^ 44
  let r0 := off + 2 ^ 44 * x.pcc.dom + 2 ^ 48 * x.lvl + 2 ^ 50 * b2n x.delay.isSome + 2 ^ 51 * b2n cause.isSome + 2 ^ 63
  let (w, s) := s.draw
  let r1 := w.toNat % 2 ^ (12 * stagesOf inFetch cause)
  let r2 := ic + 4 * dc + 16 * src + 256 * cause.getD 0
  ((s.setRg (b + 0x10) (BitVec.ofNat 64 r0)).setRg (b + 0x18) (BitVec.ofNat 64 r1)).setRg (b + 0x20) (BitVec.ofNat 64 r2)

/-- Sampling meets an instruction that completed or raised a precise exception (17 R492). -/
def State.sample (s : State) (c : Nat) (x : CoreS) (ic dc src : Nat) (cause : Option Nat) (inFetch : Bool) : State :=
  let b := sampBase c
  if s.bit b 0 && bitOf (s.fld b 7 3) x.lvl then
    let s := if x.tagged then
        (s.sampleRecord c x ic dc src cause inFetch).modCore c fun y => { y with tagged := false }
      else s
    if x.countdown = 0 then s
    else if x.countdown = 1 then (s.modCore c fun y => { y with countdown := 0 }).sampleExpire c
    else s.modCore c fun y => { y with countdown := y.countdown - 1 }
  else s

/-! ### One instruction -/

/-- An instruction that completed (06 R180-R184, R42, R256): shadows and long operations advance by one slot, then PCC; its
steps and, where an access waited, the stall are counted. `x` is the core at its fetch: what RETX or RETF resumed lasts until
its own retirement (07 R255). The vector buffer serves a handler until it leaves its 32 bytes or another PCC is installed (06 R220). -/
def State.retire (s : State) (c : Nat) (x : CoreS) (f : Flow) (ic dc src : Nat) (waited : Bool) : State :=
  let w := waited || ic == 1
  let stall := if w then Config.stall s.fresh else 0
  let s := s.modCore c fun y =>
    let y := (y.tick.longTick (f.steps + stall)).advance f
    { y.setSys 1 (y.sysReg 1 + BitVec.ofNat 64 (f.steps + stall)) with
        resumed := y.resumed && !x.resumed, abandoned := if x.resumed then y.abandoned.erase x.pcc else y.abandoned,
        entered := if y.inVector y.pcc.cur && !f.installs then y.entered else none }
  let s := if w then { s with fresh := s.fresh + 1 } else s
  let a : EvAttr := ⟨some (coreMid c), some x.lvl, some x.pcc.cur⟩
  let u := coreUnit c
  let d := coreDie c
  let s := ((s.count d u 1 0 1 a).count d u 1 1 (f.steps + stall) a).count d u 1 2 stall a
  s.sample c x ic dc src none false

/-- A synchronous exception of the instruction at PCC (06 R199, R207): precise, the slot of a branch with BD and ETGT, after
the branch's window move. -/
def State.raiseAt (s : State) (c : Nat) (x : CoreS) (cause eval : Nat) (win : Bool) (ic dc src : Nat) (inFetch : Bool) : State :=
  let s := s.modCore c CoreS.takeMove
  let s := s.except c (excLevel cause x.lvl) x.pcc x.etgtOf cause eval win x.delay.isSome
  (s.sample c x ic dc src (some cause) inFetch).modCore c fun y =>
    { y with resumed := false, abandoned := if x.resumed then y.abandoned.erase x.pcc else y.abandoned }

/-- A pending imprecise long event is taken (06 R188, R214). It stays pending where the frame buffer, which drains first, meets a
failed write: that double fault is entered in its place (06 R209, R211). -/
def State.takeImprecise (s : State) (c : Nat) : State :=
  match (s.core c).imprecise with
  | [] => s
  | (e, cur) :: r =>
    let s := s.modCore c fun x => { x.flush with resumed := false }
    match s.drain c (s.core c).pcc Cap.null false with
    | (false, s) => s
    | (true, s) =>
      let x := s.core c
      (s.setCore c { x with imprecise := r }).except c (excLevel e x.lvl) x.pcc Cap.null (e + 0x200) cur false false

/-- The core's unit works: its die acts, and its cluster is neither lost nor fenced (02 R74, 01 Table 1-6, 15 R444, R446). -/
def State.coreActs (s : State) (c : Nat) : Bool :=
  s.dieActs (coreDie c) &&
    !(coreKind c == 0 && ((s.cl (coreDie c - 2) (coreLocal c)).cond == 1 || (s.cl (coreDie c - 2) (coreLocal c)).cond == 2))

/-- The core can issue an instruction now: it runs, is not halted, its unit works, and a WFI, if it waits in one, has a source
(06 R212, 07 Table 7-11). -/
def State.issues (s : State) (c : Nat) : Bool :=
  let x := s.core c
  x.running && !x.halted && s.coreActs c && (!x.waiting || s.asserted c != 0)

/-! ### Shapes of instruction bodies -/

/-- The steps that write-backs and the clearing of the predictor take, which no table counts: a free number for each (07 Table 7-12;
assumption 10). -/
def extraSteps (n : Nat) : OnCore Nat := fun r =>
  .ok (((upTo n).map fun i => Config.stall (r.st.fresh + i)).foldl (· + ·) 0) { r with st := { r.st with fresh := r.st.fresh + n } }

/-- The held dirty lines among physical addresses. -/
def CoreS.dirtyOf (x : CoreS) (as : List Nat) : Nat :=
  (as.filter fun a => match x.line a with | some l => l.dirty | none => false).length

/-- The instruction needs a level; below it raises 0x0A with its word (06 R206). -/
def needLevel (l word : Nat) : OnCore Unit := fun r =>
  if (r.st.core r.c).lvl < l then .error (.exn 0x0A word false) r else .ok () r

/-- The instruction may not stand in a delay slot: 0x09 with its word (06 R198). -/
def notInSlot (word : Nat) : OnCore Unit := fun r =>
  if (r.st.core r.c).delay.isSome then .error (.exn 0x09 word false) r else .ok () r

/-- A D result with its exposed latency, in one step. -/
def writeD (d : BitVec 5) (v : Word) (lat : Nat) : OnCore Flow := do
  modC fun x => x.wd d v lat
  return .seq 1

/-- An A result with its exposed latency, in one step. -/
def writeA (a : BitVec 4) (v : Cap) (lat : Nat) : OnCore Flow := do
  modC fun x => x.wa a v lat
  return .seq 1

/-! ### The vector buffers (06 R205, R220) -/

/-- The vectors: register number, offset and buffer key. -/
def vectors : List (Nat × Nat × Nat) := [(0x106, 0, 0), (0x206, 0, 1), (0x10A, 0, 2), (0x10A, 0x40, 3)]

/-- The pieces of `n` bytes at a virtual address that lie in one 4 KiB block and one 256-byte target part each (09 R300). -/
def fetchParts (va n : Nat) : List (Nat × Nat) :=
  let k := 256 - va % 256
  if n ≤ k then [(va, n)] else [(va, k), ((va + k) % 2 ^ 44, n - k)]

/-- Pieces of a vector fetched in order, each translated; none where one cannot be fetched. -/
def State.fetchGo (c : Nat) (k : Cap) (lvl : Nat) : List (Nat × Nat) → State → Option (List Byte) × State
  | [], s => (some [], s)
  | (va, n) :: ps, s =>
    match s.translate (16 + c) k.dom lvl va .exec with
    | (.fault _ _, s) => (none, s)
    | (.ok a _, s) =>
      match s.busRead (coreAttr c k.dom lvl) kFetch a n with
      | ((.ok, bs), s) =>
        match State.fetchGo c k lvl ps s with
        | (some r, s) => (some (bs ++ r), s)
        | x => x
      | (_, s) => (none, s)

/-- One vector buffer loaded with the 32 bytes at a vector; where they cannot be fetched the buffer keeps its contents. They are
fetched at the core's level, and at S from U: a vector is a handler's at S or M (DESIGN CHOICE, assumption 21). -/
def State.loadVector (s : State) (c : Nat) (k : Cap) (off key : Nat) : State :=
  if !k.tag then s
  else
    match State.fetchGo c k (max (s.core c).lvl 1) (fetchParts ((k.cur + off) % 2 ^ 44) 32) s with
    | (some bs, s) =>
      (s.coreEv c 0 2 1 k.cur).modCore c fun x => { x with vbuf := SMap.set (dflt 0) x.vbuf key (BitVec.ofNat 256 (leNat bs)) }
    | (none, s) => s

/-- The newest value given to a capability register, a CMTS still in its shadow included. -/
def CoreS.newestCap (x : CoreS) (n : Nat) : Cap :=
  match (x.shadows.filter (fun y => y.reg == RegRef.csys n)).getLast? with
  | some y => ⟨y.bits, y.tag⟩
  | none => x.capSys n

/-- The vector buffers of the registers whose number is `n`, or of every vector for `n = 0`, reloaded: those of `k`, or of the newest
value given to each register. -/
def State.reload (s : State) (c n : Nat) (k : Option Cap) : State :=
  (vectors.filter fun v => n = 0 || v.1 == n).foldl (fun s v =>
    s.loadVector c (k.getD ((s.core c).newestCap v.1)) v.2.1 v.2.2) s

end Sys2Proof.Machine
end

