-- ==== Sys2Proof/Machine/Counters.lean ====
section
/-! DEFINITION. The counter collector and the bandwidth-meter windows (17 R486-R490). The counters themselves are in
Machine/Ops.lean. -/

namespace Sys2Proof.Machine
open Sys2Proof

/-! ### Bandwidth meters (17 R486, R487) -/

def nMeters (d : Nat) : Nat := if d < 2 then 14 else 2
def meterBase (d m : Nat) : Nat := counterBlock d + 0x8000 + 0x40 * m

/-- The running windows of every meter of a die are not whole: a tick gap or HOLD. -/
def State.cutMeters (s : State) (d : Nat) : State :=
  { s with meterCut := (upTo (nMeters d)).foldl (fun l m => nsAdd l (64 * d + m)) s.meterCut }

/-- BWCFG has been written: a change of EN or WIN makes the running window not whole, and EN set anew has no closed window. -/
def State.bwcfgWrite (s : State) (d m : Nat) (old : Word) : State :=
  let b := meterBase d m
  let v := s.ctr b
  let s := if getBits v 0 17 = getBits old 0 17 then s else { s with meterCut := nsAdd s.meterCut (64 * d + m) }
  if bitOf v.toNat 16 && !bitOf old.toNat 16 then s.setCtr (b + 0x18) (putBits (s.ctr (b + 0x18)) 33 1 0) else s

/-- A meter at the start of block `blk`: its window closes where the number is a multiple of W. -/
def State.meterBlock (s : State) (d blk m : Nat) : State :=
  let b := meterBase d m
  let w := getBits (s.ctr b) 0 16 + 1
  if !bitOf (s.ctr b).toNat 16 || blk % w != 0 then s
  else
    let stat := BitVec.ofNat 64 (blk / w % 2 ^ 32 + 2 ^ 32 * b2n (nsMem s.meterCut (64 * d + m)) + 2 ^ 33)
    let s := ((s.setCtr (b + 8) (s.ctr (b + 0x20))).setCtr (b + 0x10) (s.ctr (b + 0x28))).setCtr (b + 0x18) stat
    let s := (s.setCtr (b + 0x20) 0).setCtr (b + 0x28) 0
    { s with meterCut := nsDel s.meterCut (64 * d + m) }

/-- Every meter of a die at the start of a block. -/
def State.metersBlock (s : State) (d blk : Nat) : State := (upTo (nMeters d)).foldl (fun s m => s.meterBlock d blk m) s

/-! ### The collector (17 R488-R490) -/

def colBase (h : Nat) : Nat := counterBlock h + 0xF000

/-- The sets that COLSEL selects, in reading order: die index, unit. -/
def State.colSets (s : State) (h : Nat) : List (Nat × Nat) :=
  (upTo 8).flatMap fun d => (setBits (if d < 2 then 24 else 43) (s.rg (colBase h + 0x20 + 8 * d)).toNat).map fun u => (d, u)

/-- The entry of one counter (Table 17-8); a counter of a fenced die reads as 0 and is not valid. -/
def State.colEntry (s : State) (d u i : Nat) : Nat :=
  let place := 2 ^ 50 * u + 2 ^ 56 * d + 2 ^ 59 * i
  if nsMem s.fenced d then place else getBits (s.ctr (counterBlock d + 0x100 * u + 0x40 * i + 0x20)) 0 49 + 2 ^ 49 + place

def State.colOf (s : State) (h : Nat) : Option ColS := SMap.get (dflt none) s.col h

/-- A snapshot is triggered on a hub: only the active hub's enabled collector takes one; one in progress makes the trigger an
overrun. -/
def State.snapStart (s : State) (h : Nat) : State :=
  if h ≠ s.active ∨ !s.bit (colBase h) 0 then s
  else
    match s.colOf h with
    | some _ => s.setBit (colBase h + 0x60) 33 true
    | none =>
      let sets := s.colSets h
      let read := sets.take 256
      let c : ColS := ⟨s.nowNs, read.flatMap fun p => (upTo 4).map fun i => s.colEntry p.1 p.2 i, 256 < sets.length,
        read.any fun p => nsMem s.fenced p.1⟩
      let s := { s with col := SMap.set (dflt none) s.col h (some c), fresh := s.fresh + 1 }
      s.setBit (colBase h + 0x60) 32 true

/-- The periodic trigger is due: TRIG is 1, and a block begins on the hub whose number is a multiple of PERIOD + 1, which has had none. -/
def State.snapDue (s : State) (h : Nat) : Bool :=
  let blk := (s.die h).tide / 16
  s.bit (colBase h) 1 && (s.die h).tide % 16 == 0 && blk % (s.fld (colBase h) 2 16 + 1) == 0 && SMap.get (dflt 0) s.snapBlk h != blk + 1

/-- SNAP (17 R488): by a write of COLCMD.SNAP on the active hub, or at a block start. -/
def execSnap (periodic : Bool) (s : State) : Host.Outcome State Fault Refusal :=
  let h := s.active
  if !periodic then .next (s.snapStart h)
  else if !s.snapDue h then .next s
  else .next ({ s with snapBlk := SMap.set (dflt 0) s.snapBlk h ((s.die h).tide / 16 + 1) }.snapStart h)

/-- Both hubs' collectors hold the same configuration: COLCTL, COLBUF and COLSEL written on one are those of the other. -/
def State.colFollow (s : State) (h off : Nat) (v : Word) : State :=
  if h < 2 ∧ (off = 0xF000 ∨ off = 0xF010 ∨ (0xF020 ≤ off ∧ off < 0xF060)) ∧ !nsMem s.fenced (1 - h) then s.setRg (counterBlock (1 - h) + off) v
  else s

/-- The bytes of a record (Table 17-8). The reads end within 2 µs of the first; when is free (assumption 1). -/
def ColS.record (c : ColS) (seq wait : Nat) : List Byte :=
  natLE 4 seq ++ natLE 4 c.entries.length ++ natLE 8 c.first ++ natLE 8 (c.first + wait) ++
    natLE 4 (b2n c.trunc + 2 * b2n c.lost) ++ natLE 36 0 ++ c.entries.flatMap fun e => natLE 8 e

/-- The collector writes bytes in words of 64 under its own master ID, at S in domain 0 (01 Tables 1-8, 1-14). Table 1-7 names no class for
it: they travel as T3, as other memory accesses do (DESIGN CHOICE, assumption 59). -/
def State.colWrite (s : State) (h a : Nat) (bs : List Byte) : State :=
  let b : Attr := ⟨mid h 10 2 0, 0, 1, 3⟩
  let a := selfAlias b.master a
  (upTo (cdiv bs.length 64)).foldl (fun s i => (s.busWrite b kWrite (a + 64 * i) ((bs.drop (64 * i)).take 64) none).2) s

/-- SNAPSHOT_COMPLETE (17 R488): the record goes into slot SEQ mod NREC, entries first and header last, and SEQ advances on both
hubs. Reads of a die in HOLD wait until it takes them (02 R73). -/
def execSnapshotComplete (s : State) : Host.Outcome State Fault Refusal :=
  let h := s.active
  match s.colOf h with
  | none => .next s
  | some c =>
    if ((s.colSets h).take 256).any fun p => nsMem s.held p.1 then .next s else
    let seq := s.fld (colBase h + 0x60) 0 32
    let at_ := s.fld (colBase h + 0x10) 6 38 * 64 + 8256 * (seq % s.fld (colBase h) 18 8)
    let (w, s) := s.draw
    let r := c.record seq (w.toNat % 2001)
    let s := (s.colWrite h (at_ + 64) (r.drop 64)).colWrite h at_ (r.take 64)
    let s := { s with col := SMap.set (dflt none) s.col h none }
    let s := (s.setBit (colBase h + 0x60) 32 false).setFld (colBase h + 0x60) 0 32 ((seq + 1) % 2 ^ 32)
    .next (if nsMem s.fenced (1 - h) then s else s.setFld (colBase (1 - h) + 0x60) 0 32 ((seq + 1) % 2 ^ 32))

end Sys2Proof.Machine
end

