-- ==== Sys2Proof/Machine/Float.lean ====
section
/-! DEFINITION. IEEE 754 binary32 as the protection limiter computes it: each operation rounded to nearest, ties to even,
subnormal results flushed to zero (04 R125). A value is its 32-bit code. -/

namespace Sys2Proof.Machine
open Sys2Proof

/-- The codes of one, infinity and the quiet NaN. -/
def f1 : Nat := 0x3F800000
def fInf : Nat := 0x7F800000
def fNan : Nat := 0x7FC00000

def fExp (x : Nat) : Nat := bitsOf x 23 8
def fSign (x : Nat) : Bool := bitOf x 31
def fSpecial (x : Nat) : Bool := fExp x == 255
def fIsNan (x : Nat) : Bool := fExp x == 255 && bitsOf x 0 23 != 0

/-- The significand and the exponent of a finite code: its magnitude is m × 2^(e - 150); a subnormal counts as zero. -/
def fMag (x : Nat) : Nat × Nat := if fExp x = 0 then (0, 0) else (2 ^ 23 + bitsOf x 0 23, fExp x)

/-- A finite code as a fraction num / 2^149, signed. -/
def fNum (x : Nat) : Int :=
  let (m, e) := fMag x
  let v : Int := (m * 2 ^ (e - 1) : Nat)
  if fSign x then -v else v

/-- The binary logarithm, floor, of a positive number. -/
def log2 (n : Nat) : Nat := Nat.log2 n

/-- The magnitude num / den, correctly rounded; both positive (num may be 0). -/
def fRoundMag (num den : Nat) : Nat :=
  if num = 0 then 0
  else
    -- e with 2^e ≤ num/den < 2^(e+1), kept as e + 300
    let e0 := 300 + log2 num - log2 den
    let ge (k : Nat) : Bool := if 300 ≤ k then decide (den * 2 ^ (k - 300) ≤ num) else decide (den ≤ num * 2 ^ (300 - k))
    let e := if ge e0 then e0 else e0 - 1
    -- significand: num/den × 2^(23 - (e - 300)), ties to even
    let (n, d) := if 323 ≤ e then (num, den * 2 ^ (e - 323)) else (num * 2 ^ (323 - e), den)
    let q := n / d
    let r := n % d
    let q := if 2 * r < d then q else if d < 2 * r then q + 1 else q + q % 2
    let (q, e) := if q = 2 ^ 24 then (2 ^ 23, e + 1) else (q, e)
    -- biased exponent e - 300 + 127
    if e < 174 then 0 else if 428 ≤ e then fInf else (e - 173) * 2 ^ 23 + (q - 2 ^ 23)

/-- A signed fraction rounded; a zero is positive. -/
def fRound (num : Int) (den : Nat) : Nat :=
  let m := fRoundMag num.natAbs den
  if num < 0 ∧ m ≠ 0 then m + 2 ^ 31 else m

/-- The conversion of an integer. -/
def fOfInt (i : Int) : Nat := fRound i 1

/-- Addition. -/
def fAdd (x y : Nat) : Nat :=
  if fIsNan x || fIsNan y then fNan
  else if fSpecial x then (if fSpecial y && fSign x != fSign y then fNan else x)
  else if fSpecial y then y
  else fRound (fNum x + fNum y) (2 ^ 149)

/-- Negation. -/
def fNeg (x : Nat) : Nat := if fSign x then x - 2 ^ 31 else x + 2 ^ 31

/-- Subtraction. -/
def fSub (x y : Nat) : Nat := fAdd x (fNeg y)

/-- Multiplication. -/
def fMul (x y : Nat) : Nat :=
  if fIsNan x || fIsNan y then fNan
  else if fSpecial x || fSpecial y then
    if (fMag x).1 = 0 ∧ !fSpecial x ∨ (fMag y).1 = 0 ∧ !fSpecial y then fNan
    else if fSign x != fSign y then fInf + 2 ^ 31 else fInf
  else fRound (fNum x * fNum y) (2 ^ 298)

/-- Division of a finite value by a finite non-zero one; other operands as IEEE 754 gives them. -/
def fDiv (x y : Nat) : Nat :=
  if fIsNan x || fIsNan y || (fSpecial x && fSpecial y) then fNan
  else if fSpecial x then (if fSign x != fSign y then fInf + 2 ^ 31 else fInf)
  else if fSpecial y then 0
  else if (fMag y).1 = 0 then (if (fMag x).1 = 0 then fNan else fInf)
  else fRound (if fSign y then -fNum x else fNum x) (fNum y).natAbs

/-- Order: false where either side is no number. -/
def fLt (x y : Nat) : Bool :=
  if fIsNan x || fIsNan y then false
  else if fSpecial x then fSign x && !(fSpecial y && fSign y)
  else if fSpecial y then !fSign y
  else decide (fNum x < fNum y)

def fMax (x y : Nat) : Nat := if fLt x y then y else x
def fMin (x y : Nat) : Nat := if fLt y x then y else x

/-- A finite code times 2^sh as the nearest integer, a tie going away from zero (03 R98). -/
def fRnd (x sh : Nat) : Int := rndDiv (fNum x * 2 ^ sh) (2 ^ 149)

end Sys2Proof.Machine
end

