-- ==== Sys2Proof/Machine/Dict.lean ====
section
/-! DEFINITION. The object dictionary: its entries, their values, and the checks of an access up to the value's range
(14 R411-R421, R434; 15 R457; 16 R479; 17 R491). -/

namespace Sys2Proof.Machine
open Sys2Proof

/-- Types (14 Table 14-1): a DOMAIN carries its limit and the size of its records; one fixed layout has the two equal. -/
inductive DTy where
  | bool
  | num (bytes : Nat)
  | str
  | dom (limit rec : Nat)
deriving DecidableEq, Repr

/-- Access codes (14 Table 14-2). -/
inductive DAcc where
  | const | ro | rw | wo | rwc
deriving DecidableEq, Repr

/-- Visibility (14 Table 14-3). -/
inductive DVis where
  | device | owner | all | service
deriving DecidableEq, Repr

/-- An entry as an access meets it; `own` is its owner domain. -/
structure DEnt where
  ty : DTy
  acc : DAcc
  vis : DVis
  own : Nat
  dflt : List Byte
deriving DecidableEq, Repr

/-- A row of the entry tables: indices, subindices, elements that exist, and the entry. `own` is 0 for none, 1 for the
domain in the low digit of the index, 2 for the priority domain. -/
structure DRow where
  lo : Nat
  hi : Nat
  s0 : Nat
  s1 : Nat
  cnt : Nat
  ty : DTy
  acc : DAcc
  vis : DVis
  own : Nat
  dflt : List Byte
deriving DecidableEq, Repr

/-- A row of one entry. -/
def d1 (i sub : Nat) (ty : DTy) (acc : DAcc) (vis : DVis) (dflt : List Byte := []) : DRow :=
  ⟨i, i, sub, sub, 1, ty, acc, vis, 0, dflt⟩

/-- Zeros. -/
def zeros (n : Nat) : List Byte := natLE n 0

/-- The entries of the boot subset and of the device (14 Table 14-10, 15 Table 15-5, 16 Table 16-6). -/
def dictRowsA : List DRow :=
  [d1 0x1000 0 (.num 4) .const .all (zeros 4), d1 0x1008 0 .str .const .all, d1 0x1009 0 .str .const .all,
    d1 0x100A 0 .str .ro .all, d1 0x1017 0 (.num 2) .rw .service (natLE 2 1000),
    ⟨0x1018, 0x1018, 1, 4, 4, .num 4, .const, .all, 0, zeros 4⟩, d1 0x1F50 1 (.dom 0x4000000 1) .wo .device,
    d1 0x1F51 0 (.num 1) .ro .all, d1 0x2000 1 (.num 4) .rwc .device (natLE 4 48000), d1 0x2000 2 (.num 1) .ro .all,
    d1 0x2000 3 (.num 1) .wo .device, d1 0x2000 4 (.num 4) .ro .device (zeros 4), d1 0x2010 1 .bool .rw .device (natLE 1 1),
    d1 0x2010 2 (.num 1) .rw .device (zeros 1), d1 0x2020 1 (.num 1) .ro .all, d1 0x2020 2 (.num 4) .ro .all,
    ⟨0x2030, 0x2030, 1, 8, 8, .num 4, .ro, .all, 0, []⟩, d1 0x2040 1 (.num 1) .wo .device, d1 0x2040 2 (.num 1) .ro .all,
    d1 0x2040 3 (.num 2) .ro .all, d1 0x2040 4 .bool .ro .all, d1 0x2041 1 (.dom 0x4000000 1) .wo .device,
    d1 0x2041 2 (.num 1) .ro .all]

/-- The entries of domains, partitions, links and programs (14 Table 14-10, 16 Table 16-6). -/
def dictRowsB : List DRow :=
  [⟨0x3000, 0x3000, 1, 15, 15, .bool, .rwc, .device, 0, zeros 1⟩, d1 0x3001 0 (.num 1) .rwc .device (zeros 1),
    ⟨0x3002, 0x3002, 1, 15, 15, .num 2, .rwc, .device, 0, zeros 2⟩,
    ⟨0x3003, 0x3003, 1, 15, 15, .dom 32 32, .wo, .device, 0, []⟩, d1 0x3004 0 (.dom 32 32) .wo .device,
    ⟨0x3010, 0x3014, 1, 128, 576, .num 4, .rwc, .device, 0, zeros 4⟩,
    ⟨0x3020, 0x3020, 1, 128, 128, .num 8, .rw, .all, 0, zeros 8⟩,
    ⟨0x3101, 0x310F, 1, 2, 30, .num 8, .rwc, .owner, 1, zeros 8⟩,
    ⟨0x3101, 0x310F, 3, 4, 30, .num 2, .rwc, .owner, 1, zeros 2⟩,
    ⟨0x3101, 0x310F, 5, 6, 30, .num 4, .ro, .owner, 1, zeros 4⟩,
    ⟨0x3101, 0x310F, 7, 7, 15, .bool, .rw, .owner, 1, zeros 1⟩,
    ⟨0x3101, 0x310F, 8, 8, 15, .dom 4096 16, .rwc, .owner, 1, []⟩,
    ⟨0x3200, 0x3200, 1, 8, 8, .num 2, .rw, .owner, 2, zeros 2⟩,
    ⟨0x3201, 0x3201, 1, 8, 8, .bool, .rw, .owner, 2, zeros 1⟩,
    ⟨0x3202, 0x3202, 1, 8, 8, .num 4, .rw, .owner, 2, natLE 4 65536⟩,
    ⟨0x3301, 0x330F, 1, 64, 960, .dom 32 32, .rw, .owner, 1, []⟩]

/-- The entries of the network, status, trouble, counters and trust. -/
def dictRowsC : List DRow :=
  [⟨0x4000, 0x4000, 1, 4, 4, .dom 32 32, .rwc, .device, 0, []⟩, d1 0x4001 0 (.num 4) .rwc .device (zeros 4),
    d1 0x4002 0 (.num 2) .rwc .device (natLE 2 8432), d1 0x4003 0 (.num 4) .ro .device,
    ⟨0x4100, 0x4103, 1, 128, 512, .dom 32 32, .rw, .device, 0, zeros 32⟩,
    ⟨0x4200, 0x4207, 1, 128, 1024, .dom 32 32, .rw, .device, 0, zeros 32⟩,
    ⟨0x4300, 0x4307, 1, 128, 1024, .dom 256 256, .rw, .device, 0, zeros 256⟩,
    ⟨0x7000, 0x7001, 1, 128, 144, .num 1, .ro, .all, 0, []⟩, ⟨0x7002, 0x7003, 1, 128, 144, .num 1, .ro, .all, 0, []⟩,
    ⟨0x7004, 0x7004, 1, 6, 6, .num 1, .ro, .all, 0, []⟩, ⟨0x7010, 0x7010, 1, 6, 6, .num 2, .ro, .all, 0, []⟩,
    d1 0x8000 1 (.num 8) .ro .all, d1 0x8000 2 .bool .ro .all, d1 0x8000 3 (.num 8) .ro .all,
    ⟨0x9000, 0x9000, 1, 64, 64, .num 1, .rw, .all, 0, []⟩, ⟨0x9001, 0x9001, 1, 64, 64, .num 8, .ro, .all, 0, []⟩,
    d1 0x9100 1 (.num 2) .rw .device (zeros 2), d1 0x9100 2 (.dom 64 64) .rw .device, d1 0x9100 3 (.dom 8256 1) .ro .device,
    ⟨0x9101, 0x9101, 1, 14, 14, .num 2, .rw, .device, 0, zeros 2⟩, ⟨0x9102, 0x9102, 1, 28, 28, .num 8, .ro, .all, 0, []⟩,
    d1 0xA000 0 (.num 1) .ro .all, d1 0xA001 0 (.num 1) .wo .device,
    ⟨0xA002, 0xA002, 1, 2, 2, .dom 64 64, .wo, .device, 0, []⟩, d1 0xA003 0 (.num 1) .wo .device,
    d1 0xA004 0 (.num 1) .wo .device, d1 0xA010 0 (.dom 32 32) .ro .all, d1 0xA011 0 .bool .ro .all,
    d1 0xA100 0 (.dom 1024 64) .rw .device, d1 0xA101 0 .bool .rw .device (zeros 1), d1 0xA110 1 (.dom 32 32) .ro .service,
    d1 0xA110 2 (.dom 96 96) .wo .service, d1 0xA110 3 (.num 1) .ro .service, d1 0xA110 4 (.num 1) .wo .service]

def dictRows : List DRow := dictRowsA ++ dictRowsB ++ dictRowsC

/-- Source family f (14 Table 14-10): type, access and visibility; the default of SPAIR is R173's. -/
def srcFamily : Nat → Option (DTy × DAcc × DVis)
  | 0 => some (.num 1, .rwc, .device)
  | 1 => some (.num 4, .rwc, .owner)
  | 2 => some (.num 4, .rw, .owner)
  | 3 => some (.num 4, .rw, .owner)
  | 4 => some (.num 1, .rwc, .device)
  | 5 => some (.bool, .rwc, .owner)
  | 6 => some (.num 8, .rw, .owner)
  | 7 => some (.num 8, .rw, .owner)
  | 8 => some (.num 8, .rw, .owner)
  | 9 => some (.num 1, .rw, .owner)
  | 10 => some (.num 8, .ro, .owner)
  | _ => none

/-- The checked pair of a source by default (05 R173). -/
def pairDefault (slot : Nat) : Nat := 6 * (slot % 6) + slot / 6 % 6

/-- The reset coefficients of the four biquads (04 R124). -/
def biquadDefault : List Byte := (upTo 4).flatMap fun _ => natLE 4 0x10000000 ++ zeros 16

/-- Output family f (14 Table 14-10) with its default. -/
def outFamily : Nat → Option (DTy × DAcc × DVis × List Byte)
  | 0 => some (.num 1, .rwc, .device, zeros 1)
  | 1 => some (.num 1, .rw, .owner, zeros 1)
  | 2 => some (.num 4, .rw, .owner, natLE 4 0x100000)
  | 3 => some (.bool, .rw, .owner, natLE 1 1)
  | 4 => some (.bool, .rw, .owner, zeros 1)
  | 5 => some (.bool, .rw, .owner, natLE 1 1)
  | 6 => some (.dom 6144 3, .rw, .owner, [])
  | 7 => some (.dom 80 20, .rw, .owner, biquadDefault)
  | 8 => some (.num 4, .rw, .owner, zeros 4)
  | 9 => some (.dom 8 8, .rw, .owner, natLE 4 0x3F800000 ++ natLE 4 0x3F7FF972)
  | 10 => some (.dom 32 32, .rw, .owner, zeros 12 ++ natLE 4 0x42C80000 ++ natLE 4 0x40A00000 ++ natLE 4 0x3F000000 ++
      natLE 4 0x3F7EB852 ++ natLE 4 0x3F8020C5)
  | 11 => some (.num 8, .rw, .owner, zeros 8)
  | 12 => some (.dom 12 12, .ro, .owner, [])
  | _ => none

/-- Source family and output family base indices, and the place of an element (14 R415). -/
def srcBase (f : Nat) : Nat := 0x5000 + 0x20 * f
def outBase (f : Nat) : Nat := 0x6000 + 0x80 * f
def famKey (base e : Nat) : Nat := (base + e / 128) * 256 + e % 128 + 1

/-- What an index and subindex name: a source family and slot, an output family and output, or a table entry's element. -/
inductive DName where
  | src (f slot : Nat)
  | out (f o : Nat)
  | count
  | row (r : DRow) (e : Nat)
  | noSub
  | noIdx
deriving DecidableEq, Repr

def dictName (i sub : Nat) : DName :=
  if 0x5000 ≤ i ∧ i < srcBase 11 then
    if 16 ≤ (i - 0x5000) % 0x20 then .noIdx
    else if sub = 0 then .count
    else if 128 < sub then .noSub
    else .src ((i - 0x5000) / 0x20) (128 * ((i - 0x5000) % 0x20) + sub - 1)
  else if 0x6000 ≤ i ∧ i < outBase 13 then
    if 72 ≤ (i - 0x6000) % 0x80 then .noIdx
    else if sub = 0 then .count
    else if 128 < sub then .noSub
    else .out ((i - 0x6000) / 0x80) (128 * ((i - 0x6000) % 0x80) + sub - 1)
  else
    match dictRows.find? fun r => r.lo ≤ i ∧ i ≤ r.hi ∧ r.s0 ≤ sub ∧ sub ≤ r.s1 with
    | some r =>
      let e := (i - r.lo) * (r.s1 - r.s0 + 1) + sub - r.s0
      if e < r.cnt then .row r e else .noSub
    | none => if dictRows.any fun r => r.lo ≤ i ∧ i ≤ r.hi then .noSub else .noIdx

/-! ### Stored values -/

/-- The default of an entry by its key. -/
def dictDefault (key : Nat) : List Byte :=
  match dictName (key / 256) (key % 256) with
  | .src f slot => if f = 4 then natLE 1 (pairDefault slot) else
      match srcFamily f with | some (.num n, _, _) => zeros n | some (.bool, _, _) => zeros 1 | _ => []
  | .out f _ => match outFamily f with | some (_, _, _, d) => d | none => []
  | .count => natLE 1 128
  | .row r _ => r.dflt
  | _ => []

/-- The stored value of an entry, by key. -/
def State.dVal (s : State) (key : Nat) : List Byte := SMap.get dictDefault s.dict key
def State.dNat (s : State) (key : Nat) : Nat := leNat (s.dVal key)
def State.dSet (s : State) (key : Nat) (v : List Byte) : State := { s with dict := SMap.set dictDefault s.dict key v }

/-- The value of an entry in force in the hardware (14 R422). -/
def State.fVal (s : State) (key : Nat) : List Byte := SMap.get dictDefault s.force key
def State.fNat (s : State) (key : Nat) : Nat := leNat (s.fVal key)

/-- A key from index and subindex. -/
def dKey (i sub : Nat) : Nat := i * 256 + sub

def State.srcNat (s : State) (f slot : Nat) : Nat := s.dNat (famKey (srcBase f) slot)
def State.outNat (s : State) (f o : Nat) : Nat := s.dNat (famKey (outBase f) o)
/-- Owners (14 R413): domain 0 owns what no host owns. -/
def State.srcOwner (s : State) (slot : Nat) : Nat := s.srcNat 0 slot
def State.outOwner (s : State) (o : Nat) : Nat := s.outNat 0 o
/-- The priority domain, 0 for none; an enabled domain; domains in use. -/
def State.prioDom (s : State) : Nat := s.dNat (dKey 0x3001 0)
def State.domEn (s : State) (d : Nat) : Bool := d == 0 || s.dNat (dKey 0x3000 d) == 1

/-- The configuring domains (14 R413): domain 0, and domain 1 while a port runs as a single logical device. -/
def State.configuring (s : State) (d : Nat) : Bool :=
  d == 0 || (d == 1 && (upTo 2).any fun h => s.bit (hubReg h 9) 0 && !s.bit (hubReg h 9) 7)

/-! ### Computed values -/

/-- The bytes of an ASCII text. -/
def ascii (t : String) : List Byte := t.toList.map fun c => BitVec.ofNat 8 c.toNat

/-- CLUSTERST, COVER and the comet's MODE (14 Table 14-10, 15 Table 15-5). -/
def State.clusterSt (s : State) (c : Nat) : Nat :=
  let v := (SMap.get (dflt ClS.reset) s.cls (25 * (c / 24) + c % 24)).cond
  if v = 2 ∨ nsMem s.fenced (c / 24 + 2) then 2 else if v = 0 then 0 else 1
def State.covered (s : State) (n k : Nat) : Bool := s.bit (clRegBase (n + 2) 24 + 0x8100 + 8 * k) 63
def State.cometMode (s : State) (n : Nat) : Nat := s.fld (clRegBase (n + 2) 24 + 0x8000) 0 2

/-- An egress stream carries an output: the map of some channel of it names one (04 R140, 15 R436). -/
def State.carriesOutput (s : State) (h e : Nat) : Bool :=
  (upTo (s.fld (hubReg h 8 + 0x2000 + 32 * e) 5 6 + 1)).any fun c =>
    let ch := 64 * e + c
    s.bit (dieBase h + 0x10000000 + 0x300000 + 4 * (ch / 2 * 2)) (32 * (ch % 2) + 14)

/-- Enabled streams are paired: every ingress stream that a source names, every egress stream that carries an output (15 R436). -/
def State.streamsPaired (s : State) : Bool :=
  let h := s.active
  let ok (a : Nat) : Bool := !s.bit a 0 || s.bit a 2
  ((upTo 512).all fun i => ok (hubReg h 7 + 0x2000 + 32 * i) ||
    !(upTo s.nSlots).any fun t => bitsOf (s.srcNat 3 t) 15 2 == 1 && bitsOf (s.srcNat 3 t) 0 9 == i) &&
  ((upTo 1024).all fun e => ok (hubReg h 8 + 0x2000 + 32 * e) || !s.carriesOutput h e)

/-- PROTECTED (15 R436): memory mirrored, every cluster covered, streams paired. -/
def State.protected_ (s : State) : Bool :=
  s.shape.mirrored && ((upTo 6).all fun n => (upTo 24).all fun k => s.covered n k) && s.streamsPaired

/-- The last complete snapshot record (17 Table 17-9). -/
def State.snapLast (s : State) : List Byte :=
  let b := counterBlock s.active
  let seq := s.fld (b + 0xF060) 0 32
  if seq = 0 then []
  else s.peek (selfAlias (mid s.active 10 2 0) (s.fld (b + 0xF010) 6 38 * 64 + 8256 * ((seq - 1) % s.fld (b + 0xF000) 18 8))) 8256

/-- The trouble record's authoritative copy (15 Table 15-8). -/
def State.trBits (s : State) (g : Nat) : Nat := s.fld (hubReg s.active 6 + 0x400 + 8 * g) 0 8
def State.trFirst (s : State) (g : Nat) : Nat :=
  let a := hubReg s.active 6 + 0x600 + 8 * g
  if s.bit a 63 then s.fld a 0 63 else 0

/-- The unit that an output's registers are in, as lattice die, unit and slot (04 R136). -/
def outHome (o : Nat) : Nat × Nat × Nat := (o / 1536, o % 1536 / 64, o % 64)

/-- The unit that renders a cluster: the comet while it carries it. -/
def State.unitOf (s : State) (n k : Nat) : Nat :=
  if (SMap.get (dflt CometS.reset) s.comets n).carry = some k then 24 else k

/-- The register base of an output's slot parameters. -/
def State.outReg (s : State) (o : Nat) : Nat :=
  let (n, k, t) := outHome o
  clRegBase (n + 2) (s.unitOf n k) + 0x2000 + 0x80 * t

/-- The seed of the identity key, the first 32 bytes of SHA-512 over the string and the unique secret, and the public key (16 R474). -/
def idSeed : BitVec 256 := (Config.sha512 (ascii "BX-SX8 identity" ++ Config.secret)).truncate 256
def idKey : List Byte := natLE 32 (Config.edPublic idSeed).toNat

/-- A value that the device computes rather than stores; none for a stored one. -/
def State.dComputed (s : State) (i sub : Nat) : Option (List Byte) :=
  let h := s.active
  if i = 0x1008 then some (ascii "Strelet SX8")
  else if i = 0x1009 then some [BitVec.ofNat 8 65]
  else if i = 0x100A then some (if s.dev < 2 then [] else match s.runImg with | some r => Config.swver r.version | none => [])
  else if i = 0x1018 then
    some (natLE 4 (if sub = 1 then 0xB5D else if sub = 2 then 0x5808 else if sub = 3 then (Config.partConst 2).toNat
      else s.fld (hubReg h 11 + 0x18) 0 64))
  else if i = 0x1F51 then some (natLE 1 s.imgStat)
  else if i = 0x2000 ∧ sub = 2 then some (natLE 1 s.dev)
  else if i = 0x2020 then
    some (if sub = 1 then natLE 1 (s.fld (hubReg h 6) 0 2) else natLE 4 (unsigned 32 (signed 16 (s.fld (hubReg h 6) 16 16))))
  else if i = 0x2030 then some (natLE 4 (Config.freeWord s.fresh).toNat)
  else if i = 0x2040 then
    some (if sub = 2 then natLE 1 s.update.stat else if sub = 3 then natLE 2 s.update.unit else natLE 1 (b2n s.prot))
  else if i = 0x2041 then some (natLE 1 s.stageStat)
  else if i = 0x4000 then
    if s.dVal (dKey i sub) = [] then
      some ((upTo 4).flatMap fun w => natLE 8 (s.rg (hubReg ((sub - 1) / 2) (7 + (sub - 1) % 2) + 8 * w)).toNat)
    else none
  else if i = 0x4003 then some (natLE 4 (min s.ngpDrop (2 ^ 32 - 1)))
  else if i = 0x7000 ∨ i = 0x7001 then some (natLE 1 (s.clusterSt (128 * (i - 0x7000) + sub - 1)))
  else if i = 0x7002 ∨ i = 0x7003 then
    let c := 128 * (i - 0x7002) + sub - 1
    some (natLE 1 (b2n (decide (3 ≤ s.dev) && !s.covered (c / 24) (c % 24))))
  else if i = 0x7004 then some (natLE 1 (s.cometMode (sub - 1)))
  else if i = 0x7010 then some (natLE 2 (s.fld (dieReg (sub + 1) 7) 16 16))
  else if i = 0x8000 then
    some (if sub = 1 then natLE 8 s.shape.raw else if sub = 2 then natLE 1 (b2n s.shape.mirrored) else natLE 8 s.shape.usable)
  else if i = 0x9000 then some (natLE 1 (s.trBits (sub - 1)))
  else if i = 0x9001 then some (natLE 8 (s.trFirst (sub - 1)))
  else if i = 0x9100 ∧ sub = 3 then some s.snapLast
  else if i = 0x9102 then
    some (natLE 8 (getBits (s.ctr (counterBlock h + 0x8000 + 0x40 * ((sub - 1) / 2) + 8 + 8 * ((sub - 1) % 2))) 0 48))
  else if i = 0xA000 then some (natLE 1 s.lifecycle)
  else if i = 0xA010 then some idKey
  else if i = 0xA011 then some (natLE 1 (b2n s.dbgUnlock))
  else if i = 0xA110 ∧ sub = 3 then some (natLE 1 (b2n s.session))
  else
    match dictName i sub with
    | .out 12 o =>
      let a := s.outReg o
      some (natLE 8 (s.rg (a + 0x40)).toNat ++ natLE 4 (s.fld (a + 0x48) 0 32))
    | _ => none

/-- The value that a read returns. -/
def State.dRead (s : State) (i sub : Nat) : List Byte :=
  match s.dComputed i sub with
  | some v => v
  | none => s.dVal (dKey i sub)

/-! ### Checks (14 R421) -/

/-- The abort codes (14 Table 14-5). -/
def abState : Nat := 0x08000022
def abIndex : Nat := 0x06020000
def abSub : Nat := 0x06090011
def abWo : Nat := 0x06010001
def abRo : Nat := 0x06010002
def abSession : Nat := 0x0F000001
def abAuth : Nat := 0x0F000002
def abWriter : Nat := 0x06010000
def abLength : Nat := 0x06070010
def abRange : Nat := 0x06090030
def abCond : Nat := 0x0F000005
def abMemory : Nat := 0x05040005
def abGeneral : Nat := 0x08000000
def abTimeout : Nat := 0x05040000
def abSpecifier : Nat := 0x05040001
def abToggle : Nat := 0x05030000
def abCrc : Nat := 0x05040004

/-- The domain a path acts for; the service port and the runtime act for none. -/
def pathDom : Path → Option Nat
  | .mailbox ld => some (if ld.val = 15 then 0 else ld.val + 1)
  | .ngp d => some d.toNat
  | _ => none

def pathService : Path → Bool
  | .sdo | .long => true
  | _ => false

/-- The number of a path among the transfers. -/
def pathNum : Path → Nat
  | .mailbox ld => ld.val
  | .ngp d => 16 + d.toNat
  | .sdo => 32
  | .long => 33
  | .device => 34

/-- The paths that BOOTSRC admits (16 Table 16-1). -/
def State.bootAdmits (s : State) (p : Path) : Bool :=
  let b := s.straps.bootSrc.toNat
  match p with
  | .mailbox _ => b != 3
  | .ngp _ => b == 0 || b == 2
  | .long => b == 0 || b == 3
  | .sdo => false
  | .device => true

/-- The entry that an index and subindex name at the selected rate; otherwise the code of check 2 or 3. -/
def State.dEntry (s : State) (i sub : Nat) : Except Nat DEnt :=
  match dictName i sub with
  | .noIdx => .error abIndex
  | .noSub => .error abSub
  | .count => .ok ⟨.num 1, .const, .all, 0, natLE 1 128⟩
  | .src f t =>
    if s.nSlots ≤ t then .error abSub
    else match srcFamily f with
      | some (ty, acc, vis) => .ok ⟨ty, acc, vis, s.srcOwner t, dictDefault (dKey i sub)⟩
      | none => .error abIndex
  | .out f o =>
    if s.nOut ≤ o % 64 then .error abSub
    else match outFamily f with
      | some (ty, acc, vis, d) => .ok ⟨ty, acc, vis, s.outOwner o, d⟩
      | none => .error abIndex
  | .row r _ => .ok ⟨r.ty, r.acc, r.vis, if r.own = 1 then i % 16 else if r.own = 2 then s.prioDom else 0, r.dflt⟩

/-- An entry is readable by a requester (14 Table 14-3). -/
def State.dReadable (s : State) (p : Path) (e : DEnt) : Bool :=
  match pathDom p with
  | none => true
  | some d => match e.vis with
    | .all => true
    | .service => false
    | .device => s.configuring d
    | .owner => s.configuring d || d == e.own

/-- An index exists for a requester: it can read some entry of it (14 R413; subindex 0 of an array family is read by all, R415). -/
def State.idxSeen (s : State) (p : Path) (i : Nat) : Bool :=
  decide (0x5000 ≤ i ∧ i < srcBase 11) || decide (0x6000 ≤ i ∧ i < outBase 13) ||
    dictRows.any fun r => decide (r.lo ≤ i ∧ i ≤ r.hi) &&
      s.dReadable p ⟨r.ty, r.acc, r.vis, if r.own = 1 then i % 16 else if r.own = 2 then s.prioDom else 0, r.dflt⟩

/-- Check 2 comes before check 3: an absent subindex of an index that does not exist for the requester has check 2's code. -/
def State.absentCode (s : State) (p : Path) (i c : Nat) : Nat := if s.idxSeen p i then c else abIndex

/-- A requester may write an entry (14 Table 14-3 and the writers Table 14-10 names). -/
def State.dWriter (s : State) (p : Path) (e : DEnt) (i sub : Nat) (data : List Byte) : Bool :=
  match pathDom p with
  | none =>
    match p with
    | .device => true
    | _ => e.vis == .service || i == 0x9000 || (i == 0x1F50 && sub == 1 && s.dev == 1 && s.bootAdmits p)
  | some d =>
    if i = 0x1F50 ∧ s.dev = 1 then s.bootAdmits p
    else if i = 0x3020 then
      let v := leNat data
      d == (if bitOf v 36 then bitsOf v 32 4 else bitsOf v 14 4)
    else match e.vis with
      | .owner => d == e.own
      | .service => false
      | _ => s.configuring d

/-- The state of the device serves the access (14 R417). -/
def State.dServed (s : State) (p : Path) (write : Bool) (i sub : Nat) : Bool :=
  let boot := !write && ((0x1000 ≤ i && i < 0x2000) || i == 0x9000 || i == 0x9001) &&
    (pathService p || (match p with | .ngp d => d.toNat == 0 | .device => true | _ => false))
  if s.dev = 0 then boot
  else if s.dev = 1 then boot || (write && i == 0x1F50 && sub == 1 && s.bootAdmits p)
  else if s.dev = 5 then !(nsMem s.held 0 && nsMem s.held 1)
  else true

/-- A value's length is right for its type (14 R411). -/
def lengthOk (ty : DTy) (n : Nat) : Bool :=
  match ty with
  | .bool => n == 1
  | .num b => n == b
  | .str => decide (n ≤ 255)
  | .dom lim rc => if rc = lim then n == lim else decide (n ≤ lim) && n % rc == 0

/-- A stream entry holds no reserved encoding: PTIME, FMT, and LO of an ingress entry or VID of an egress entry (12 Tables 12-5, 12-8). -/
def streamOk (ingress : Bool) (data : List Byte) : Bool :=
  let c := leNat (data.take 8)
  bitsOf c 11 2 != 3 && bitsOf c 13 2 != 3 && (if ingress then decide (bitsOf c 15 9 ≤ 320) else bitsOf c 24 12 != 4095) &&
    (bitOf c 1 || (bitsOf c 13 2 != 2 && decide (96 ≤ if ingress then bitsOf c 24 7 else bitsOf c 36 7)) || data.all (· == 0))

/-- A value lies in its range and is no reserved encoding (14 Table 14-1 and the rules of the entries; check 9). -/
def State.rangeOk (s : State) (ty : DTy) (i sub : Nat) (data : List Byte) : Bool :=
  let v := leNat data
  let w (j : Nat) : Nat := leNat ((data.drop (4 * j)).take 4)
  (match ty with | .bool => decide (v ≤ 1) | _ => true) &&
  (if i = 0x2000 ∧ sub = 1 then v == 48000 || v == 96000
  else if i = 0x2000 ∧ sub = 3 then v == 1
  else if i = 0x2010 ∧ sub = 2 then decide (v ≤ 16)
  else if i = 0x2040 ∧ sub = 1 then v == 1 || v == 2
  else if i = 0x3001 then decide (v ≤ 15)
  else if 0x3010 ≤ i ∧ i ≤ 0x3014 then
    bitsOf v 9 7 == 0 && decide (v < 2 ^ 22) && (v % 16 == 0 || (10 ≤ bitsOf v 4 5 && bitsOf v 4 5 ≤ 16))
  else if i = 0x3020 then decide (v < 2 ^ 37)
  else if 0x3101 ≤ i ∧ i ≤ 0x310F ∧ (sub = 3 ∨ sub = 4) then decide (v < 2 ^ 14)
  else if i = 0x3200 then decide (v < s.nSlots)
  else if i = 0x3202 then decide (v ≤ 65536)
  else if i = 0x4000 then decide (bitsOf v 160 6 ≤ 32)
  else if 0x4100 ≤ i ∧ i ≤ 0x4103 then streamOk true data
  else if 0x4200 ≤ i ∧ i ≤ 0x4207 then streamOk false data
  else if 0x4300 ≤ i ∧ i ≤ 0x4307 then
    (upTo 64).all fun c => decide (bitsOf (w c) 0 14 < 9216) && decide (bitsOf (w c) 0 14 % 64 < s.nOut)
  else if i = 0x4001 then decide (bitsOf v 1 8 ≤ 127) && !(bitOf v 0 && bitsOf v 1 8 != 0) && decide (v < 512)
  else if i = 0xA001 then decide (v ≤ 2)
  else if i = 0xA003 then decide (v ≤ 3)
  else if i = 0xA004 then decide (v ≤ 64)
  else
    match dictName i sub with
    | .src 0 _ => decide (v ≤ 15)
    | .src 1 _ => decide (v ≤ if s.rate96 then 960000 else 480000)
    | .src 3 _ => decide (v < 2 ^ 17)
    | .src 4 _ => decide (v ≤ 35)
    | .src 9 _ => decide (v ≤ 2)
    | .out 0 _ => decide (v ≤ 15)
    | .out 1 _ => decide (v ≤ 7)
    | .out 2 _ => decide (v < 2 ^ 24)
    | .out 8 _ => decide (v < 2 ^ 10)
    | .out 9 _ => f32ok (w 0) && f32ok (w 1)
    | .out 10 _ => (upTo 8).all fun j => f32ok (w j)
    | .out 11 _ => bitsOf v 18 14 == 0 && decide (v < 2 ^ 44)
    | _ => true)

/-- Checks 1 to 4 of a read: the entry, or the code (14 Table 14-5). -/
def State.readCode (s : State) (p : Path) (i sub : Nat) : Nat :=
  if !s.dServed p false i sub then abState
  else match s.dEntry i sub with
    | .error c => s.absentCode p i c
    | .ok e => if !s.dReadable p e then abIndex else if e.acc = .wo then abWo else 0

/-- Checks 1 to 9 of a write (14 Table 14-5). -/
def State.writeCode (s : State) (p : Path) (i sub : Nat) (data : List Byte) : Nat :=
  if !s.dServed p true i sub then abState
  else match s.dEntry i sub with
    | .error c => s.absentCode p i c
    | .ok e =>
      if !s.dReadable p e && !(i = 0x1F50 ∧ s.dev = 1) then abIndex
      else if e.acc = .const ∨ e.acc = .ro then abRo
      else if pathService p && !(s.session && s.trustOpen) && !(i = 0xA110 ∧ sub = 2) && !(i = 0x1F50 ∧ s.dev = 1) then abSession
      else if !s.dWriter p e i sub data then abWriter
      else if e.acc = .rwc ∧ s.dev ≠ 2 then abState
      else if !lengthOk e.ty data.length then abLength
      else if !s.rangeOk e.ty i sub data then abRange
      else 0

end Sys2Proof.Machine
end

