-- ==== Sys2Proof/Machine/Lattice.lean ====
section
/-! DEFINITION. The render lattice: windows, pair tables, the check of a half, flips and exact pair sums (chapter 03). A
cluster is named by its lattice die n and its number k; `unit` is the cluster that does its work, 24 while the comet carries
it. -/

namespace Sys2Proof.Machine
open Sys2Proof


/-- The cluster that does a cluster's work (15 R443-R446). -/
def State.unit (s : State) (n k : Nat) : Nat := if (s.comet n).carry = some k then 24 else k

/-- The register base of the unit that does a cluster's work. -/
def State.clReg (s : State) (n k : Nat) : Nat := clRegBase (n + 2) (s.unit n k)

/-- The partitions of a cluster: domain, first index, size (05 R151). -/
def State.parts (s : State) (n k : Nat) : List (Nat × Nat × Nat) :=
  (upTo 4).filterMap fun j =>
    let v := s.dNat (famKey 0x3010 (4 * (24 * n + k) + j))
    if v % 16 = 0 then none else some (v % 16, bitsOf v 16 6 * 1024, 2 ^ bitsOf v 4 5)

def State.slotS (s : State) (n k o : Nat) : SlotS := SMap.get (dflt SlotS.reset) s.slots ((25 * n + k) * 64 + o)
def State.setSlotS (s : State) (n k o : Nat) (x : SlotS) : State :=
  { s with slots := SMap.set (dflt SlotS.reset) s.slots ((25 * n + k) * 64 + o) x }
def State.modSlotS (s : State) (n k o : Nat) (f : SlotS → SlotS) : State := s.setSlotS n k o (f (s.slotS n k o))

/-! ### Source windows (03 R78-R82) -/

/-- The package address of a slot's sample at a tide position (03 R79). -/
def State.winAddr (s : State) (n slot t : Nat) : Nat := dieBase (n + 2) + slot * (3 * s.depth) + 3 * (t % s.depth)

/-- A window sample. -/
def State.winRead (s : State) (n slot t : Nat) : Int := signed 24 (leNat (s.peek (s.winAddr n slot t) 3))

/-- Sixteen samples of a source block written by the die's broadcast writer, as T1 (03 R79, R80; 01 Tables 1-7, 1-10). -/
def State.winBlock (s : State) (n slot blk : Nat) (vs : List Int) : State :=
  s.engRun (engAttr (mid (n + 2) 31 2 0) 1) (s.winAddr n slot (16 * blk)) (vs.flatMap fun v => natLE 3 (unsigned 24 v))
    fun s => s.troubleDie (n + 2) 4

/-! ### Pair entries (03 R89-R92) -/

def peDelay (e : Nat) : Nat := bitsOf e 0 25
def peGain (e : Nat) : Int := signed 18 (bitsOf e 25 18)
def peInterp (e : Nat) : Nat := bitsOf e 43 2
def peMute (e : Nat) : Bool := bitOf e 45
def peSrc (e : Nat) : Nat := bitsOf e 46 11
def peOut (e : Nat) : Nat := bitsOf e 57 6
def peV (e : Nat) : Bool := bitOf e 63

/-- The effective gain (03 R90). -/
def peGe (e : Nat) : Int := if peMute e then 0 else peGain e

/-- The base of a table half of a cluster's window, and an entry (03 R88). -/
def tableBase (n unit h : Nat) : Nat := dieBase (n + 2) + 0x100000000 + unit * 0x1000000 + 0x100000 + h * 0x80000
def State.entry (s : State) (base i : Nat) : Nat := leNat (s.peek (base + 8 * i) 8)

/-- The indices valid in a half, in ascending order: those whose last byte holds V. -/
def State.validIdx (s : State) (base : Nat) : List Nat :=
  s.mem.filterMap fun c =>
    if base ≤ c.1 ∧ c.1 < base + 0x80000 ∧ (c.1 - base) % 8 = 7 ∧ 128 ≤ c.2.toNat then some ((c.1 - base) / 8) else none

/-- The active and the shadow half of a cluster's work. -/
def State.activeBase (s : State) (n k : Nat) : Nat := tableBase n (s.unit n k) (s.fld (s.clReg n k) 0 1)
def State.shadowBase (s : State) (n k : Nat) : Nat := tableBase n (s.unit n k) (1 - s.fld (s.clReg n k) 0 1)

/-! ### Events and sticky bits (03 R115-R117) -/

/-- An event of LEVT. -/
def State.levt (s : State) (n k i : Nat) : State := s.setBit (s.clReg n k + 0x48) i true

/-- A sticky bit of LSTICKY: a bit that goes from 0 to 1 raises STICKY, and any setting sets the trouble bit. -/
def State.lsticky (s : State) (n k i : Nat) : State :=
  let a := s.clReg n k
  let was := s.bit (a + 0x18) i
  let s := s.setBit (a + 0x18) i true
  let s := if was then s else s.levt n k 5
  s.troubleCluster (n + 2) (s.unit n k)

/-- A rendering event at the cluster's counters (17 Table 17-3 class 2). -/
def State.renderEv (s : State) (n k ev cnt : Nat) : State := s.count (n + 2) (s.unit n k) 2 ev cnt EvAttr.none

/-! ### The check of a half (03 R112-R114) -/

/-- The lowest code of Table 3-7 that an entry meets, 0 for none. -/
def State.entryCode (s : State) (e : Nat) : Nat :=
  if peInterp e = 3 then 1
  else if s.rate96 ∧ 1023 < peSrc e then 2
  else if s.rate96 ∧ 31 < peOut e then 3
  else if (s.depth - 64) * 1024 < peDelay e then 4
  else 0

/-- The first rejected entry of a half with its code. -/
def State.firstBad (s : State) (base : Nat) : List Nat → Option (Nat × Nat)
  | [] => none
  | i :: is => if s.entryCode (s.entry base i) = 0 then State.firstBad s base is else some (i, s.entryCode (s.entry base i))

/-- The indices of two ascending lists, each once. -/
def unionIdx (a b : List Nat) : List Nat := b.foldl nsAdd a

/-- The words of a half that are read, as runs, and those of them that are uncorrectable: the entries valid in it (01 R17). A cluster reads
its own table and staging area inside itself, with no transaction (DESIGN CHOICE, assumption 101). -/
def State.halfBad (s : State) (base : Nat) : List Nat := s.badWords ((s.validIdx base).map fun i => (base + 8 * i, 8))

/-- The check of a half: codes 1-4 over its entries, then code 5 over `also` as well at 96 kHz. -/
def State.checkHalf (s : State) (base : Nat) (also : List Nat) : Option (Nat × Nat) :=
  let v := s.validIdx base
  match s.firstBad base v with
  | some x => some x
  | none => if s.rate96 ∧ 32768 < (unionIdx v also).length then some (0, 5) else none

/-- A rejection: CHKFAIL, TBLFAULT, PTFAULT, and the event CHECKFAIL (03 R112). -/
def State.checkFail (s : State) (n k i code : Nat) : State :=
  let a := s.clReg n k
  let s := (s.setBit a 3 true).setRg (a + 0x10) (BitVec.ofNat 64 (i + 2 ^ 16 * code))
  (s.lsticky n k 3).levt n k 3

/-- PTSTAT.SHSTATE: 0 OPEN, 1 CHECKING, 2 READY, 3 LOCKED. -/
def State.shst (s : State) (n k : Nat) : Nat := s.fld (s.clReg n k) 1 2
def State.setShst (s : State) (n k v : Nat) : State := s.setFld (s.clReg n k) 1 2 v

/-- A cluster whose lattice works: not lost, on a die that acts, and under an eclipse carried by its comet. -/
def State.clActs (s : State) (n k : Nat) : Bool :=
  s.dieActs (n + 2) && (if k = 24 then false else (s.cl n k).cond == 0 || (s.comet n).carry == some k && (s.cl n k).cond != 2)

/-- The cluster whose work the registers of window `k` describe: the comet's describe the work it carries. -/
def State.workOf (s : State) (n k : Nat) : Nat := if k = 24 then (s.comet n).carry.getD 24 else k

/-- MARK (03 R112): ignored outside OPEN and outside RUN, DEGRADED and HOLD. -/
def State.mark (s : State) (n k : Nat) : State :=
  if s.live && s.clActs n k && s.shst n k == 0 then s.setShst n k 1 else s

/-- CANCEL (03 R113): in CHECKING or READY the half returns to OPEN. -/
def State.cancel (s : State) (n k : Nat) : State :=
  if s.clActs n k && (s.shst n k == 1 || s.shst n k == 2) then s.setShst n k 0 else s

/-- A check in progress ends (03 R112): READY with CHECKDONE, or OPEN with the rejection recorded. -/
def State.checkDone (s : State) (n k : Nat) : State :=
  if s.live && s.clActs n k && s.shst n k == 1 then
    match s.halfBad (s.shadowBase n k) with
    | w :: ws => s.clusterUe n (s.unit n k) (w :: ws)
    | [] =>
    match s.checkHalf (s.shadowBase n k) (s.validIdx (s.activeBase n k)) with
    | some (i, code) => (s.setShst n k 0).checkFail n k i code
    | none => ((s.setBit (s.clReg n k) 3 false).setShst n k 2).levt n k 2
  else s

/-- The fields of LSTICKY that return their record to 0 when cleared (03 R116). -/
def State.lstickyCleared (s : State) (d k : Nat) (v : Word) : State :=
  let a := clRegBase d k
  let s := if bitOf v.toNat 0 then s.setRg (a + 0x20) 0 else s
  if bitOf v.toNat 1 then s.setRg (a + 0x28) 0 else s

/-! ### One pair-sample (03 R93-R98) -/

/-- One side of an index in a block: source, slot, delays and gains at the ends of the scene tick, and mode. -/
structure Side where
  idx : Nat
  src : Nat
  out : Nat
  dOld : Int
  dNew : Int
  gOld : Int
  gNew : Int
  mode : Nat
deriving DecidableEq, Repr

/-- The window sample at a position, which near position 0 may lie before it: the position is taken modulo the window's depth (03 R79). -/
def State.winTap (s : State) (n slot : Nat) (t : Int) : Int := s.winRead n slot (t % (s.depth : Int)).toNat

/-- The four coefficients at a fraction u/1024, rounded to 19 bits (03 R94, R95). -/
def coefs (mode : Nat) (u : Int) : List Int :=
  if mode = 0 then [0, 131072, 0, 0]
  else if mode = 1 then [0, rndDiv ((1024 - u) * 2 ^ 17) 1024, rndDiv (u * 2 ^ 17) 1024, 0]
  else
    let d := 2 ^ 30
    [rndDiv (-(u * (u - 1024) * (u - 2048)) * 2 ^ 17) (6 * d), rndDiv ((u + 1024) * (u - 1024) * (u - 2048) * 2 ^ 17) (2 * d),
      rndDiv (-((u + 1024) * u * (u - 2048)) * 2 ^ 17) (2 * d), rndDiv ((u + 1024) * u * (u - 1024) * 2 ^ 17) (6 * d)]

/-- The weights (03 R95). -/
def weights (mode : Nat) (u gx : Int) : List Int := (coefs mode u).map fun c => satI 18 (rndDiv (c * gx) (2 ^ 26))

/-- The delay of a side at head position `h`, in units of 2^-19 sample (03 R93). -/
def Side.delayAt (x : Side) (h : Nat) : Int := 512 * x.dOld + (x.dNew - x.dOld) * (h % 512 + 1 : Nat)

/-- The position of tap `o` at head position `h` of block `blk`: none lies past the block (03 R94, R96). -/
def Side.tapPos (x : Side) (blk h : Nat) (o : Int) : Int := min ((h : Int) - x.delayAt h / (2 : Int) ^ 19 + o) (16 * blk + 15)

/-- The contribution of a side at head position `h` of block `blk` (03 R93-R96). -/
def State.contribution (s : State) (n blk h : Nat) (x : Side) : Int :=
  let gx := 512 * x.gOld + (x.gNew - x.gOld) * (h % 512 + 1 : Nat)
  let u := x.delayAt h / (2 : Int) ^ 9 % 1024
  let tap (o : Int) : Int := s.winTap n x.src (x.tapPos blk h o)
  let w := weights x.mode u gx
  ((w.zip [1, 0, -1, -2]).map fun p => tap p.2 * p.1).foldl (· + ·) 0

/-- The bytes of consecutive positions of a window slot, as address and length: two runs where they pass the end of its ring (03 R79). -/
def State.winRun (s : State) (n slot : Nat) (lo hi : Int) : List (Nat × Nat) :=
  let t := (lo % (s.depth : Int)).toNat
  let cnt := (hi - lo).toNat + 1
  let one := min cnt (s.depth - t)
  (s.winAddr n slot t, 3 * one) :: if one < cnt then [(s.winAddr n slot 0, 3 * (cnt - one))] else []

/-- The run of a side in a quarter, which holds every tap of its four samples (03 R83). -/
def State.sideRun (s : State) (n blk q : Nat) (x : Side) : List (Nat × Nat) :=
  let ts := (upTo 4).flatMap fun j => [-2, -1, 0, 1].map fun o => x.tapPos blk (16 * blk + 4 * q + j) o
  s.winRun n x.src (ts.foldl min (ts.headD 0)) (ts.foldl max (ts.headD 0))

/-- The steady side of an entry (03 R108). -/
def steady (i e : Nat) : Side := ⟨i, peSrc e, peOut e, peDelay e, peDelay e, peGe e, peGe e, peInterp e⟩

/-- A side of a crossfading index runs in linear mode if its own is cubic (03 R106). -/
def halfMode (m : Nat) : Nat := if m = 2 then 1 else m

/-- The sides of an index in the tick after a flip; `old` and `new` are entries, 0 where not valid (03 Table 3-5). -/
def flipSides (i old new : Nat) : List Side :=
  if peV old && peV new then
    if peSrc old = peSrc new ∧ peOut old = peOut new then
      [⟨i, peSrc new, peOut new, peDelay old, peDelay new, peGe old, peGe new, peInterp new⟩]
    else
      [⟨i, peSrc old, peOut old, peDelay old, peDelay old, peGe old, 0, halfMode (peInterp old)⟩,
       ⟨i, peSrc new, peOut new, peDelay new, peDelay new, 0, peGe new, halfMode (peInterp new)⟩]
  else if peV new then [⟨i, peSrc new, peOut new, peDelay new, peDelay new, 0, peGe new, peInterp new⟩]
  else if peV old then [⟨i, peSrc old, peOut old, peDelay old, peDelay old, peGe old, 0, peInterp old⟩]
  else []

/-- FLIPPOS names scene tick `sc`: the flip was made at its start. -/
def State.flippedAt (s : State) (n k sc : Nat) : Bool :=
  s.bit (s.clReg n k + 0x30) 63 && s.fld (s.clReg n k + 0x30) 0 47 == sc % 2 ^ 47

/-- The sides of a half at `base`: in the tick after its flip with its origins, otherwise steady; none while it is refused
(03 R101, R105, R108, R114). -/
def State.halfSides (s : State) (base : Nat) (bad ramp : Bool) (origins : SMap Word) : List Side :=
  if bad then []
  else if ramp then
    (unionIdx (s.validIdx base) (origins.map (·.1))).flatMap fun i =>
      flipSides i (SMap.get (dflt 0) origins i).toNat (let e := s.entry base i; if peV e then e else 0)
  else (s.validIdx base).map fun i => steady i (s.entry base i)

/-- The sides of a cluster's render list for block `blk`, in ascending index order. A block from before the last flip point, whose
render is late, keeps the list that it began with. -/
def State.sides (s : State) (n k blk : Nat) : List Side :=
  let x := s.cl n k
  let now := s.halfSides (s.activeBase n k) x.bad (s.flippedAt n k (blk / 32)) x.origins
  match x.before with
  | some b => if blk < b.blk then s.halfSides (tableBase n (s.unit n k) b.half) b.bad b.ramp b.origins else now
  | none => now

/-! ### Flips (03 R104-R109) -/

/-- The delay limit of a ramp (03 R106): the limited delay and whether the limit acted. -/
def limitDelay (old new : Nat) : Nat × Bool :=
  let d := clampI (-131072) 131072 ((new : Int) - old)
  (((old : Int) + d).toNat, d != (new : Int) - old)

/-- SLOPE and SLOPEREC for a limited ramp (03 R106, Table 3-8). -/
def State.slopeLimited (s : State) (n k i : Nat) : State :=
  let a := s.clReg n k
  let s := if s.bit (a + 0x18) 0 then s else s.setFld (a + 0x20) 0 16 i
  (s.addSat (a + 0x20) 32 16 1).lsticky n k 0

/-- The limited delays of ramping indices written back into the newly active half (03 R107). -/
def State.writeBackDelays (s : State) (n k base : Nat) (origins : SMap Word) : State :=
  origins.foldl (fun s p =>
    let old := p.2.toNat
    let new := s.entry base p.1
    if peV new && peSrc old == peSrc new && peOut old == peOut new then
      let (dl, hit) := limitDelay (peDelay old) (peDelay new)
      if hit then (s.poke (base + 8 * p.1) (natLE 8 (new - peDelay new + dl))).slopeLimited n k p.1 else s
    else s) s

/-- PTSTAT.ACTN and LISTN, and LWORK (03 R103, Table 3-8). -/
def State.listRegs (s : State) (n k blk : Nat) : State :=
  let a := s.clReg n k
  let cnt := ((s.sides n k blk).map (·.idx)).eraseDups.length
  ((s.setFld a 16 17 (s.validIdx (s.activeBase n k)).length).setFld a 33 17 cnt).setFld (a + 0x38) 0 20 (80 * cdiv cnt 24 + 256)

/-- The mirror area of a cluster: its MIRDIR entry in the comet's registers, none where uncovered (15 Table 15-4): base and
length in 4 KiB units within the die mirror. -/
def State.mirArea (s : State) (n k : Nat) : Option (Nat × Nat) :=
  let a := clRegBase (n + 2) 24 + 0x8100 + 8 * k
  if s.bit a 63 then some (dieBase (n + 2) + 0x10000000 + s.fld a 0 13 * 4096, s.fld a 16 13 * 4096) else none

/-- Bytes written into a cluster's mirror area by the unit that does its work, `sub` 1 its lattice engine, 2 its output stage
(01 Table 1-10, 15 R446). -/
def State.mirWrite (s : State) (n k sub off : Nat) (bs : List Byte) : State :=
  match s.mirArea n k with
  | some (a, len) =>
    if len < off + bs.length then s
    else s.engRun (engAttr (mid (n + 2) (s.unit n k) 2 sub) 1) (a + off) bs fun s => s.troubleCluster (n + 2) (s.unit n k)
  | none => s

/-- A partition put in its place in ascending order of first indices. -/
def partInsert (p : Nat × Nat × Nat) : List (Nat × Nat × Nat) → List (Nat × Nat × Nat)
  | [] => [p]
  | q :: qs => if p.2.1 < q.2.1 then p :: q :: qs else q :: partInsert p qs

/-- The partitions by ascending index, and P of R440. -/
def State.partsAsc (s : State) (n k : Nat) : List (Nat × Nat × Nat) := (s.parts n k).foldl (fun l p => partInsert p l) []
def State.partCount (s : State) (n k : Nat) : Nat := ((s.parts n k).map (·.2.2)).foldl (· + ·) 0

/-- The words of a history ring, and the offset of a slot's FIR section (15 R440). -/
def ringLen (taps : Nat) : Nat := 16 * cdiv taps 16 + 16
def State.firOff (s : State) (n k o : Nat) : Nat :=
  0x3000 + 16 * s.partCount n k +
    ((upTo o).map fun j => let t := (s.slotS n k j).coef.length; 4 * t + 4 * ringLen t).foldl (· + ·) 0

/-- The header of a mirror area (15 Table 15-2; its inner layout is the model's, assumption 24): table slot, P, FLIPPOS, the
partition map from word 8, the offset of each FIR section from word 16. -/
def State.mirHeader (s : State) (n k : Nat) : State :=
  let ps := s.parts n k
  let part (j : Nat) : Nat := match ps[j]? with | some p => p.2.1 + 2 ^ 32 * p.2.2 | none => 0
  let ws := [(s.cl n k).mirSlot, s.partCount n k, (s.rg (s.clReg n k + 0x30)).toNat, 0, 0, 0, 0, 0] ++ (upTo 8).map part ++
    (upTo 64).map fun o => if o < s.nOut then s.firOff n k o else 0
  s.mirWrite n k 1 0 (ws.flatMap (natLE 8))

/-- The half in force written into table slot `slot` of the mirror area, and the header that names it (03 R109, 15 R440). A half
refused at RUN entry counts as holding no entry (03 R114). -/
def State.mirrorTable (s : State) (n k slot : Nat) : State :=
  match s.mirArea n k with
  | none => s
  | some _ =>
    let base := s.activeBase n k
    let bs := (s.partsAsc n k).flatMap fun p =>
      if (s.cl n k).bad then zeros (8 * p.2.2) else s.peek (base + 8 * p.2.1) (8 * p.2.2)
    let s := s.mirWrite n k 1 (0x3000 + 8 * s.partCount n k * slot) bs
    (s.modCl n k fun x => { x with mirSlot := slot }).mirHeader n k

/-- A flip point (03 R104): a READY half flips, otherwise the flip is skipped. A half that failed its check at RUN entry held no
valid entry until then, so it leaves no origins (03 R114). -/
def State.flipPoint (s : State) (n k sc : Nat) : State :=
  let a := s.clReg n k
  let lost := s.halfBad (s.activeBase n k) ++ s.halfBad (s.shadowBase n k)
  if s.shst n k = 2 && !lost.isEmpty then s.clusterUe n (s.unit n k) lost
  else if s.shst n k = 2 then
    let old := s.activeBase n k
    let c := s.cl n k
    let keep : Before := ⟨32 * sc, s.fld a 0 1, s.flippedAt n k (sc - 1), c.origins, c.bad⟩
    let origins : SMap Word := if (s.cl n k).bad then [] else (s.validIdx old).map fun i => (i, BitVec.ofNat 64 (s.entry old i))
    let new := s.shadowBase n k
    let s := (s.setFld a 0 1 (1 - s.fld a 0 1)).setShst n k 3
    let s := (s.setRg (a + 0x30) (BitVec.ofNat 64 (sc % 2 ^ 47 + 2 ^ 63))).levt n k 0
    let s := s.modCl n k fun x => { x with origins := origins, bad := false, before := if x.busy then some keep else none }
    ((s.writeBackDelays n k new origins).renderEv n k 3 1).mirrorTable n k (1 - c.mirSlot)
  else ((s.lsticky n k 2).levt n k 4).renderEv n k 4 1

/-- A flip point in a block that is not rendered is a skipped flip (03 R104). -/
def State.flipMissed (s : State) (n k : Nat) : State := ((s.lsticky n k 2).levt n k 4).renderEv n k 4 1

/-- The end of the first render block after a flip (03 R107). -/
def State.shadowFree (s : State) (n k : Nat) : State :=
  if s.shst n k = 3 then (s.setShst n k 0).levt n k 1 else s

/-! ### The commands of chapter 03 -/

/-- A cluster's window named by a command: its lattice die and the cluster whose work it describes. -/
def State.clOf (s : State) (d : Fin 6) (k : Fin 25) : Nat := s.workOf d.val k.val

/-- A write of PTCMD (03 R112, R113): CANCEL before MARK. -/
def State.ptcmd (s : State) (n k : Nat) (mark cancel : Bool) : State :=
  let w := s.workOf n k
  let s := if cancel then s.cancel n w else s
  if mark then s.mark n w else s

/-- MARK, with CANCEL in the same write where the operand says so (03 R112, R113). -/
def execMark (d : Fin 6) (k : Fin 25) (withCancel : Bool) (s : State) : Host.Outcome State Fault Refusal :=
  .next (s.ptcmd d.val k.val true withCancel)

/-- CANCEL (03 R113). -/
def execCancel (d : Fin 6) (k : Fin 25) (s : State) : Host.Outcome State Fault Refusal :=
  .next (s.ptcmd d.val k.val false true)

/-- LSTICKY_CLEAR (03 R116): W1C, and the records of the bits cleared return to 0. -/
def execLstickyClear (d : Fin 6) (k : Fin 25) (w : Word) (s : State) : Host.Outcome State Fault Refusal :=
  let a := clRegBase (d.val + 2) k.val + 0x18
  if s.dieActs (d.val + 2) then
    .next ((s.setRg a (regStore (regFields (s.loc a)) (s.rg a) w (BitVec.allOnes 64))).lstickyCleared (d.val + 2) k.val w)
  else .next s

end Sys2Proof.Machine
end

