-- ==== Sys2Proof/Machine/Render.lean ====
section
/-! DEFINITION. The render of a block: its start, the hand-over of each quarter through the output stage, and its end
(chapters 03 and 04, 02 R52-R68). -/

namespace Sys2Proof.Machine
open Sys2Proof

/-- The parameter words of a slot and the coefficient words of its biquads, as addresses (04 R148, R149). -/
def parAddrs (a o : Nat) : List Nat := (upTo 8).map fun j => a + 0x2000 + 0x80 * o + 8 * j
def bqAddrs (a o : Nat) : List Nat := (upTo 12).map fun j => a + 0x4000 + 0x80 * o + 0x20 * (j / 3) + 8 * (j % 3)

/-- A sampled parameter word, and its fields. Before the first sampling the reset value holds. -/
def SlotS.parWord (x : SlotS) (j : Nat) : Word := x.par.getD j (regReset (clRegBase 2 0 + 0x2000 + 8 * j))
def SlotS.parFld (x : SlotS) (j lsb w : Nat) : Nat := getBits (x.parWord j) lsb w
def SlotS.bqWord (x : SlotS) (j : Nat) : Word := x.bqc.getD j (regReset (clRegBase 2 0 + 0x4000 + 8 * (j % 3)))
/-- The coefficients B0 B1 B2 A1 A2 of biquad k. -/
def SlotS.bqCoefs (x : SlotS) (k : Nat) : List Int :=
  let w (j lsb : Nat) : Int := signed 32 (getBits (x.bqWord (3 * k + j)) lsb 32)
  [w 0 0, w 0 32, w 1 0, w 1 32, w 2 0]

/-! ### Shedding (02 R63) -/

/-- An output with a class is off, its FIR bypassed, at a level; outputs of the priority domain are exempt. -/
def shedOff (prio : Bool) (cls lvl : Nat) : Bool := !prio && decide (cls < lvl / 2)
def shedByp (prio : Bool) (cls lvl : Nat) : Bool := !prio && lvl % 2 == 1 && cls == lvl / 2

/-- The slot's class and exemption as its registers hold them. -/
def State.slotPrio (s : State) (a o : Nat) : Bool := s.bit (a + 0x2000 + 0x80 * o) 27
def State.slotClass (s : State) (a o : Nat) : Nat := s.fld (a + 0x2000 + 0x80 * o) 24 3
def State.slotOff (s : State) (a o lvl : Nat) : Bool := shedOff (s.slotPrio a o) (s.slotClass a o) lvl

/-- A bit of SHEDSTAT, with the die's trouble bit (02 R70). -/
def State.shedSticky (s : State) (n i : Nat) : State := (s.setBit (dieReg (n + 2) 7 + 0x10) i true).troubleDie (n + 2) 2

/-! ### Work figures (03 R103, 04 R133, 02 R64) -/

/-- The length of the render list at a level. -/
def State.listLen (s : State) (n k blk lvl : Nat) : Nat :=
  let a := s.clReg n k
  (((s.sides n k blk).filter fun x => !s.slotOff a x.out lvl).map (·.idx)).eraseDups.length

/-- The slots whose FIR runs at a level, as tap counts. -/
def State.firTaps (s : State) (n k lvl : Nat) : List Nat :=
  let a := s.clReg n k
  ((upTo s.nOut).filter fun o =>
    !s.bit (a + 0x2000 + 0x80 * o) 0 && !s.slotOff a o lvl && !shedByp (s.slotPrio a o) (s.slotClass a o) lvl).map fun o =>
      s.fld (a + 0x2000 + 0x80 * o) 1 11 + 1

/-- The taps of the set whose commit is pending. -/
def State.pendTaps (s : State) (n k : Nat) : Nat :=
  let a := s.clReg n k + 0x1010
  if s.bit a 0 then (s.slotS n k (s.fld a 1 6)).coefNew.length else 0

/-- Fq and Tf of a cluster at a level (04 R133). -/
def State.fq (s : State) (n k lvl : Nat) : Nat := cdiv (4 * ((s.firTaps n k lvl).foldl (· + ·) 0 + s.pendTaps n k)) 10
def State.tf (s : State) (n k blk lvl : Nat) : Nat :=
  let lq := 20 * cdiv (s.listLen n k blk lvl) 24 + 64
  4 * (s.fq n k lvl - lq) + 10 * cdiv (s.firTaps n k lvl).length 10 + 24 * s.nOut + 64

/-- The required figure of a cluster at a level, half while its comet carries it (03 R103, 02 R64, 04 R146). -/
def State.figure (s : State) (n k blk lvl : Nat) : Nat :=
  let lp := 80 * cdiv (s.listLen n k blk lvl) 24 + 256
  let sblk := if s.rate96 then 125000 else 250000
  let half := if s.unit n k = 24 then 2 else 1
  cdiv (4096 * (lp + s.tf n k blk lvl)) (half * sblk)

/-- REQ0 to REQ16 and PRIOFIT of a die, and the work registers of its clusters, half in a comet that carries one (02 R64, R70;
04 R133, R146). -/
def State.reqUpdate (s : State) (n : Nat) : State :=
  let ks := (upTo 24).filter fun k => (s.cl n k).cond != 2
  let blk := (s.die (n + 2)).tide / 16 - 2
  let s := ks.foldl (fun s k =>
    let a := s.clReg n k + 0x1020
    let half := if s.unit n k = 24 then 2 else 1
    (s.setFld a 0 20 (cdiv (s.tf n k blk 0) half)).setFld a 20 20 (cdiv (s.fq n k 0) half)) s
  let g := dieReg (n + 2) 7
  let req (j : Nat) : Nat := (ks.map fun k => s.figure n k blk j).foldl max 0
  let s := (upTo 17).foldl (fun s j => s.setRg (g + 0x100 + 8 * j) (BitVec.ofNat 64 (min 0xFFFF (req j)))) s
  if 0x0800 < req 16 then s.shedSticky n 2 else s

/-! ### The commit of a FIR set (04 R122) -/

/-- The staged coefficients of the unit's staging area. -/
def State.stageBase (s : State) (n k : Nat) : Nat := dieBase (n + 2) + 0x100000000 + s.unit n k * 0x1000000 + 0x200000
def State.staged (s : State) (n k cnt : Nat) : List Int :=
  let base := s.stageBase n k
  (upTo cnt).map fun t => signed 24 (leNat (s.peek (base + 4 * t) 3))

/-- FIRCMD with COMMIT: ignored while PENDING or where the slot does not exist. An uncorrectable coefficient is a cluster fault
(01 R17). -/
def State.firCommit (s : State) (n k slot len : Nat) : State :=
  let a := s.clReg n k + 0x1010
  if s.clActs n k && !s.bit a 0 && decide (slot < s.nOut) then
    match s.badWords [(s.stageBase n k, 4 * (len + 1))] with
    | w :: ws => s.clusterUe n (s.unit n k) (w :: ws)
    | [] =>
    let s := s.setRg a (BitVec.ofNat 64 (1 + 2 * slot))
    let c := s.staged n k (len + 1)
    (s.modSlotS n k slot fun x => { x with coefNew := c }).reqUpdate n
  else s

/-- A committed set takes over: FIRLEN shows it and PENDING clears. -/
def State.firInstall (s : State) (n k slot : Nat) : State :=
  let a := s.clReg n k
  let x := s.slotS n k slot
  let s := s.setSlotS n k slot { x with coef := x.coefNew, coefNew := [] }
  (s.setFld (a + 0x2000 + 0x80 * slot) 1 11 (x.coefNew.length - 1)).setBit (a + 0x1010) 0 false

/-! ### The boundary and the start of a render (02 R52, 03 R104, 04 R120-R131) -/

/-- The block that begins, with what its boundary samples (04 R131): nothing of the parameters while FREEZE is 1. A commit that the
render still at work makes is no longer waiting (04 R122). The priority buses apply to no output where no priority domain is
selected (01 R37). -/
def State.workAt (s : State) (n k blk now next : Nat) : Work :=
  let a := s.clReg n k
  let slot := s.fld (a + 0x1010) 1 6
  let inHand := (s.cl n k).busy && (s.slotS n k slot).plan.commit
  { blk := blk, now := now, next := next,
    pend := if s.bit (a + 0x1010) 0 && !inHand then some slot else none,
    bus := (upTo 8).map fun j => if s.prioDom = 0 then 0 else s.rg (a + 0x1100 + 8 * j),
    par := if s.bit (a + 0x1000) 0 then none
      else some ((upTo s.nOut).map fun o => ((parAddrs a o).map s.rg, (bqAddrs a o).map s.rg)) }

/-- The plan of a slot for a block at levels before, at and after it (02 R63, R68; 04 R120, R122, R128-R130). Where a new sample of SHCLASS
turns an output off or bypasses its FIR while the level stays in force, no block before it could fade for it: the spec does not say which
fade applies, and the model switches at once, with the fade or crossfade that this block's own change gives (DESIGN CHOICE,
assumption 103). -/
def State.planSlot (s : State) (n k o : Nat) (w : Work) : SlotPlan :=
  let x := s.slotS n k o
  let a := s.clReg n k + 0x1010
  let prio := bitOf (x.parWord 0).toNat 27
  let cls := x.parFld 0 24 3
  let byp := bitOf (x.parWord 0).toNat 0
  let off := shedOff prio cls w.now
  let offNext := shedOff prio cls w.next
  let shedNow := off || shedByp prio cls w.now
  let shedNext := offNext || shedByp prio cls w.next
  let runs := !byp && !shedNow
  let start := runs && !x.ran
  let stop := (runs && shedNext) || (x.ran && byp && !shedNow)
  let fadeIn := !off && x.wasOff
  let fadeOut := !off && offNext
  let pend := w.pend == some o && s.bit a 0 && s.fld a 1 6 == o
  let bus := w.bus.getD (x.parFld 0 20 3) 0
  let act := getBits bus 11 1 == 1
  let polW := bitOf (x.parWord 0).toNat 18
  let phase := if x.polFaded then 2 else if polW != x.pol then 1 else 0
  { off := off, fadeIn := fadeIn, fadeOut := fadeOut, runs := runs || stop, firStart := start, firStop := stop,
    commit := pend && !start && !stop && !fadeIn && !fadeOut, gain := x.parFld 1 0 24,
    muteNew := bitOf (x.parWord 0).toNat 19, pol := if phase = 2 then !x.pol else x.pol, polPhase := phase,
    duckNew := if prio then 65536 else if act then getBits bus 12 17 else 65536,
    mixNew := if act then 65536 else 0, psrc := getBits bus 0 11 }

/-- The first block of RUN has no block before it: what it samples counts as in force already, so that nothing ramps, fades or
crossfades in it (04 R120, R128, R130; assumption 41). -/
def State.firstSlot (s : State) (n k o : Nat) (w : Work) : State :=
  let p := s.planSlot n k o w
  s.modSlotS n k o fun x =>
    { x with gain := p.gain, mute := p.muteNew, pol := bitOf (x.parWord 0).toNat 18, polFaded := false,
             ran := !bitOf (x.parWord 0).toNat 0 && !p.off && !shedByp (bitOf (x.parWord 0).toNat 27) (x.parFld 0 24 3) w.now,
             duck := p.duckNew, mix := p.mixNew, wasOff := p.off }

/-- The running state of a slot in its 128 bytes of the mirror area (15 Table 15-2, 04 R145; the inner layout is the model's,
assumption 24): the biquad states, ENV and THETA, GT and OGAIN, MUTE POL FIRBYP in force, off, the FIR at rest, and the duck and mix factors, then the fades and
crossfades `p` of the block just rendered and a polarity fade that goes on. -/
def SlotS.mirBytes (x : SlotS) (p : SlotPlan) : List Byte :=
  ((upTo 16).flatMap fun j => natLE 4 (unsigned 32 (x.bq.getD j 0))) ++ natLE 4 x.env ++ natLE 4 x.th ++ natLE 4 x.gt ++
    natLE 4 x.gain ++
    natLE 8 (b2n x.mute + 2 * b2n x.pol + 4 * b2n (bitOf (x.parWord 0).toNat 0) + 8 * b2n x.wasOff + 16 * b2n x.polFaded +
      32 * b2n (!x.ran) + 2 ^ 8 * x.duck + 2 ^ 32 * x.mix) ++
    natLE 8 (b2n p.fadeIn + 2 * b2n p.fadeOut + 4 * b2n p.firStart + 8 * b2n p.firStop + 16 * b2n p.commit + 32 * p.polPhase) ++
    zeros 32

/-- A slot's state written into its cluster's mirror area, with the plan of the block just rendered. -/
def State.mirSlotState (s : State) (n k o : Nat) (p : SlotPlan) : State :=
  s.mirWrite n k 2 (0x1000 + 128 * o) ((s.slotS n k o).mirBytes p)

/-- A FIR section: the committed set, then the history ring as it stands after the sample at position `t` (15 Table 15-2). -/
def SlotS.firBytes (x : SlotS) (t : Nat) : List Byte :=
  let h := ringLen x.coef.length
  (x.coef.flatMap fun c => natLE 4 (unsigned 24 c)) ++
    (upTo h).flatMap fun j => natLE 4 (unsigned 32 (x.hist.getD ((t + h - j) % h) 0))

/-- The FIR sections of every slot written (15 Table 15-2): at RUN entry, and when a commit changes their lengths. -/
def State.mirSections (s : State) (n k t : Nat) : State :=
  if (s.mirArea n k).isNone then s
  else (upTo s.nOut).foldl (fun s o => s.mirWrite n k 2 (s.firOff n k o) ((s.slotS n k o).firBytes t)) s

/-- The sixteen history words of block `blk` (15 Table 15-2, 04 R145). -/
def State.mirHistory (s : State) (n k blk o : Nat) : State :=
  if (s.mirArea n k).isNone then s
  else
    let x := s.slotS n k o
    let h := ringLen x.coef.length
    s.mirWrite n k 2 (s.firOff n k o + 4 * x.coef.length + 4 * (16 * blk % h))
      ((upTo 16).flatMap fun i => natLE 4 (unsigned 32 (x.hist.getD (15 - i) 0)))

/-- The commit area (15 Table 15-2): the incoming set, and the history beyond the ring that it needs. -/
def State.mirCommit (s : State) (n k o : Nat) : State :=
  match s.mirArea n k with
  | none => s
  | some (_, len) =>
    let x := s.slotS n k o
    let deep := if x.coef.length < x.coefNew.length then x.hist.drop (ringLen x.coef.length) else []
    s.mirWrite n k 2 (len - 0x4000) ((x.coefNew.flatMap fun c => natLE 4 (unsigned 24 c)) ++ deep.flatMap fun v => natLE 4 (unsigned 32 v))

/-- A slot made ready for a block; a commit to a FIR that does not run is installed without a crossfade (04 R122, R131). -/
def State.beginSlot (s : State) (n k : Nat) (w : Work) (o : Nat) : State :=
  let s := match w.par with
    | some l => let p := l.getD o ([], []); s.modSlotS n k o fun x => { x with par := p.1, bqc := p.2 }
    | none => s
  let s := if (s.slotS n k o).begun then s else s.firstSlot n k o w
  let p := s.planSlot n k o w
  let s := s.modSlotS n k o fun x => { x with plan := p, y4 := [] }
  let s := if p.commit then s.mirCommit n k o else s
  if p.commit && !p.runs then
    s.modSlotS n k o fun x => { x with coef := x.coefNew }
  else s

/-- The hubs that a die's output stages write to (04 R137). -/
def State.outHubs (s : State) (n : Nat) : List Nat :=
  let d := s.die (n + 2)
  (upTo 2).filter fun h => !nsMem s.fenced h && !nsMem s.held h && (if h = 0 then d.hub0 else d.hub1)

/-- A slot as it stands at the start of a block is kept, and put back when the block is rendered again (15 R443). -/
def State.backSlot (s : State) (n k o : Nat) : State :=
  { s with slotsBack := SMap.set (dflt SlotS.reset) s.slotsBack ((25 * n + k) * 64 + o) (s.slotS n k o) }
def State.unbackSlot (s : State) (n k o : Nat) : State :=
  s.setSlotS n k o (SMap.get (dflt SlotS.reset) s.slotsBack ((25 * n + k) * 64 + o))

/-- The blocks waiting may end in their spare blocks without LATE (15 R443, R448, R455). -/
def State.graceTop (s : State) (n k : Nat) : State := s.modCl n k fun x => { x with grace := (x.work.map (·.blk + 1)).foldl max x.grace }

/-- The block under render, if any, is to be rendered again from its start. -/
def State.renderAgain (s : State) (n k : Nat) : State :=
  let c := s.cl n k
  let s := (s.graceTop n k).modCl n k fun x => { x with quarter := 0, words := [], hubs := s.outHubs n }
  if c.busy then (upTo s.nOut).foldl (fun s o => s.unbackSlot n k o) s else s

/-- The first waiting block starts to render: each slot takes what the block's boundary sampled, and its plan (04 R131). -/
def State.renderStart (s : State) (n k : Nat) : State :=
  match (s.cl n k).work with
  | [] => s
  | w :: _ =>
    let s := s.modCl n k fun x => { x with busy := true, quarter := 0, late := false, words := [], hubs := s.outHubs n }
    (upTo s.nOut).foldl (fun s o => (s.beginSlot n k w o).backSlot n k o) s

/-! ### The output stage (04 R118-R135) -/

/-- A 32-bit saturation and whether it acted. -/
def sat32 (v : Int) : Int × Bool := (satI 32 v, satI 32 v != v)

/-- The exact tap sum of a FIR; `h` is newest first (04 R120). -/
def tapSum (c h : List Int) : Int := (c.zip h).foldl (fun a p => a + p.1 * p.2) 0

/-- Stage 1 at sample i (04 R120, R122). -/
def stage1 (x : SlotS) (i : Nat) (inp : Int) : Int × Bool :=
  let p := x.plan
  let h := inp :: x.hist
  let a := tapSum x.coef h
  if !p.runs then (inp, false)
  else if p.firStart || p.firStop then
    let u : Int :=
      if p.firStart && p.firStop then ((i + 1) * (15 - i) : Nat)
      else if p.firStop then (16 * (15 - i) : Nat) else (16 * (i + 1) : Nat)
    sat32 (rnd (a * u + inp * 2 ^ 22 * (256 - u)) 30)
  else if p.commit then sat32 (rnd (a * (15 - i : Nat) + tapSum x.coefNew h * (i + 1 : Nat)) 26)
  else sat32 (rnd a 22)

/-- One biquad: its state x1 x2 y1 y2 and its output (04 R124). -/
def biquad (c st : List Int) (inp : Int) : List Int × Int × Bool :=
  let g (l : List Int) (j : Nat) : Int := l.getD j 0
  let acc := g c 0 * inp + g c 1 * g st 0 + g c 2 * g st 1 - g c 3 * g st 2 - g c 4 * g st 3
  let (y, o) := sat32 (rnd acc 28)
  ([inp, g st 0, y, g st 2], y, o)

/-- Stage 2: the four biquads in order; one that does not run keeps its state at zero (04 R124). -/
def stage2 (x : SlotS) : List Nat → List Int → Int → Bool → List Int × Int × Bool
  | [], acc, v, o => (acc, v, o)
  | k :: ks, acc, v, o =>
    if bitOf (x.parFld 0 12 4) k then
      let (st, y, o') := biquad (x.bqCoefs k) ((x.bq.drop (4 * k)).take 4) v
      stage2 x ks (acc ++ st) y (o || o')
    else stage2 x ks (acc ++ [0, 0, 0, 0]) v o

/-- Stage 3: envelope, limiter gain and output; whether gp fell below 1.0 (04 R126). -/
def stage3 (x : SlotS) (inp : Int) : Nat × Int × Bool :=
  let a := fMul (fMul (fOfInt inp.natAbs) 0x34000000) x.gt
  let e := fMax a (fMul x.env (x.parFld 3 32 32))
  let thr := x.parFld 3 0 32
  let gp := if bitOf (x.parWord 0).toNat 16 && fLt thr e then fDiv thr e else f1
  let g := fRnd (fMul x.gt gp) 22
  (e, satI 32 (rnd (inp * g) 22), fLt gp f1)

/-- Stage 4 at sample i (04 R128). -/
def stage4 (x : SlotS) (i : Nat) (inp : Int) : Int × Bool :=
  let p := x.plan
  let q : Int := 16 * x.gain + ((p.gain : Int) - x.gain) * (i + 1)
  let up : Nat := i + 1
  let dn : Nat := 15 - i
  let mf := if x.mute then (if p.muteNew then 0 else up) else (if p.muteNew then dn else 16)
  let sf := if p.fadeIn && p.fadeOut then up * dn else if p.fadeOut then 16 * dn else if p.fadeIn then 16 * up else 256
  let pf := if p.polPhase = 1 then dn else if p.polPhase = 2 then up else 16
  let sg : Int := if p.pol then -1 else 1
  sat32 (rnd (sg * inp * q * (mf * sf * pf : Nat)) 40)

/-- Stage 5 at sample i; `xp` is the priority source's sample (04 R130). -/
def stage5 (x : SlotS) (i : Nat) (y4 xp : Int) : Int × Bool :=
  let p := x.plan
  if !bitOf (x.parWord 0).toNat 23 then (y4, false)
  else
    let d : Int := 16 * x.duck + ((p.duckNew : Int) - x.duck) * (i + 1)
    let m : Int := 16 * x.mix + ((p.mixNew : Int) - x.mix) * (i + 1)
    sat32 (rnd (y4 * d * 2 ^ 16 + xp * signed 18 (x.parFld 2 0 18) * m) 36)

/-- One sample of a slot through stages 1 to 6: the slot, its packed sample, and OVF, CLIP, LIMIT as bits 0 to 2. -/
def SlotS.sample (x : SlotS) (i : Nat) (sum xp : Int) : SlotS × Int × Nat :=
  let (x, y4, ovf, lim) : SlotS × Int × Bool × Bool :=
    if x.plan.off then ({ x with hist := (0 :: x.hist).take 2047, bq := [], env := 0, y4 := x.y4 ++ [0] }, 0, false, false)
    else
      let (inp, o0) := sat32 (rnd sum 16)
      let (y1, o1) := stage1 x i inp
      let (bq, y2, o2) := stage2 x [0, 1, 2, 3] [] y1 false
      let (e, y3, lim) := stage3 x y2
      let (y4, o4) := stage4 x i y3
      ({ x with hist := (inp :: x.hist).take 2047, bq := if bq.all (· == 0) then [] else bq, env := e, y4 := x.y4 ++ [y4] },
        y4, o0 || o1 || o2 || o4, lim)
  let (y5, o5) := stage5 x i y4 xp
  (x, satI 24 y5, b2n (ovf || o5) + 2 * b2n (satI 24 y5 != y5) + 4 * b2n lim)

/-- An output word (04 R135): two samples and their CRC. -/
def outWord (s0 s1 : Int) : Nat :=
  let v := unsigned 24 s0 + 2 ^ 24 * unsigned 24 s1
  v + 2 ^ 48 * crc16 0xFFFF (natLE 6 v)

/-- OSSTICKY bits of a slot: SLOT is recorded when all four were 0, and the trouble bit is set (04 R147, Table 4-5). -/
def State.ossticky (s : State) (n k o bits : Nat) : State :=
  if bits = 0 then s
  else
    let a := s.clReg n k + 0x1018
    let s := if s.fld a 0 4 = 0 then s.setFld a 8 6 o else s
    (s.setFld a 0 4 (s.fld a 0 4 ||| bits)).troubleCluster (n + 2) (s.unit n k)

/-- The attributes of the lattice engine and of the output stage of a cluster's unit as masters (01 Tables 1-10, 1-14). The class of
window reads, which no table names, is that of the broadcast that fills the window (DESIGN CHOICE, assumption 99). -/
def State.latAttr (s : State) (n k : Nat) : Attr := engAttr (mid (n + 2) (s.unit n k) 2 1) 1
def State.outAttr (s : State) (n k : Nat) : Attr := engAttr (mid (n + 2) (s.unit n k) 2 2) 1

/-- A word written by the output stage of the unit that does a cluster's work to the egress area of each such hub that the cluster
wrote to when the block began (04 R137, R138; 02 R77; 01 Tables 1-7, 1-10). -/
def State.toEgress (s : State) (n k off v : Nat) : State :=
  ((s.cl n k).hubs.filter (s.outHubs n).contains).foldl (fun s h =>
    s.engWrite (s.outAttr n k) (dieBase h + 0x10000000 + off) (natLE 8 v) fun s => s.troubleCluster (n + 2) (s.unit n k)) s

/-- A saturated sum (03 R96): SUMSAT and SUMREC. -/
def State.sumSat (s : State) (n k o : Nat) : State :=
  let a := s.clReg n k
  let s := if s.bit (a + 0x18) 1 then s else s.setFld (a + 0x28) 0 6 o
  (s.addSat (a + 0x28) 32 16 1).lsticky n k 1

/-- The sums of a slot in a quarter, before saturation (03 R96, R101). -/
def State.slotSums (s : State) (n : Nat) (sides : List Side) (blk q o : Nat) : List Int :=
  let mine := sides.filter (·.out == o)
  (upTo 4).map fun j => (mine.map fun x => s.contribution n blk (16 * blk + 4 * q + j) x).foldl (· + ·) 0

/-- The position of a slot's priority sample `j` of a quarter (04 R130), and the run of the quarter's four; none for a slot without one. -/
def SlotS.prioPos (x : SlotS) (blk q j : Nat) : Int :=
  min (((16 * blk + 4 * q + j : Nat) : Int) - x.parFld 2 32 12) (16 * blk + 15 : Nat)
def State.prioRun (s : State) (n k blk q o : Nat) : List (Nat × Nat) :=
  let x := s.slotS n k o
  if !bitOf (x.parWord 0).toNat 23 || s.nSlots ≤ x.plan.psrc then []
  else s.winRun n x.plan.psrc (x.prioPos blk q 0) (x.prioPos blk q 3)

/-- The die as a unit's window reads show it: blocks whose run was denied or lost bring free values (09 Table 9-10 drops the access and
gives the sum no value; assumption 101). -/
def State.seen (s : State) (lost : List Nat) : State :=
  lost.foldl (fun s b =>
    let bs := (upTo 32).flatMap fun j => natLE 8 (Config.freeWord (s.fresh + j)).toNat
    { s with mem := memWriteN s.mem (256 * b) bs, fresh := s.fresh + 32 }) s

/-- The four samples of a slot in a quarter through the output stage, its words and its sticky bits; `w` shows the window as it was
read. -/
def State.slotQuarter (s w : State) (n k blk q : Nat) (sides : List Side) (o : Nat) : State :=
  let x := s.slotS n k o
  let sums := if x.plan.off then [0, 0, 0, 0] else w.slotSums n sides blk q o
  let s := (sums.filter fun v => satI 56 v != v).foldl (fun s _ => s.sumSat n k o) s
  let xp (j : Nat) : Int := if s.nSlots ≤ x.plan.psrc then 0 else w.winTap n x.plan.psrc (x.prioPos blk q j)
  let (x, ys, bits) := ((sums.map (satI 56)).zip (upTo 4)).foldl (fun (a : SlotS × List Int × Nat) v =>
      let (x, y, b) := a.1.sample (4 * q + v.2) v.1 (xp v.2)
      (x, a.2.1 ++ [y], a.2.2 ||| b)) (x, [], 0)
  let s := (s.setSlotS n k o x).ossticky n k o bits
  let word (j : Nat) : Nat := outWord (ys.getD (2 * j) 0) (ys.getD (2 * j + 1) 0)
  let s := s.modCl n k fun c => { c with words := c.words ++ [BitVec.ofNat 64 (word 0), BitVec.ofNat 64 (word 1)] }
  let at_ := blk % 4 * 0x90000 + 64 * (1536 * n + 64 * k + o)
  (s.toEgress n k (at_ + 8 * (2 * q)) (word 0)).toEgress n k (at_ + 8 * (2 * q + 1)) (word 1)

/-- QUARTER_HANDOVER (03 R102): the lattice engine and the output stage read the quarter's window runs, a run of a pair and of each
priority source; the sums pass to the output stage, which writes the quarter's words. An uncorrectable word of a run or of the render list
is a cluster fault, and the quarter is not handed over (01 R17). -/
def State.handover (s : State) (n k : Nat) : State :=
  let c := s.cl n k
  match c.work with
  | [] => s
  | w :: _ =>
    if !(s.clActs n k && s.live && c.busy && decide (c.quarter < 4)) then s
    else
      let on (o : Nat) : Bool := !(s.slotS n k o).plan.off
      let sides := (s.sides n k w.blk).filter fun x => on x.out
      let runs := sides.flatMap (s.sideRun n w.blk c.quarter)
      let prio := (upTo s.nOut).flatMap (s.prioRun n k w.blk c.quarter)
      match s.badWords (runs ++ prio) ++ s.halfBad (s.activeBase n k) with
      | u :: us => s.clusterUe n (s.unit n k) (u :: us)
      | [] =>
      let trouble (s : State) : State := s.troubleCluster (n + 2) (s.unit n k)
      let (lost, s) := s.engLost (s.latAttr n k) runs trouble
      let (lost', s) := s.engLost (s.outAttr n k) prio trouble
      let win := s.seen (lost ++ lost')
      let s := { s with fresh := win.fresh }
      let pairs := 4 * (sides.map (·.idx)).eraseDups.length
      let s := (s.renderEv n k 0 pairs).renderEv n k 1 (5 * pairs)
      let taps := ((upTo s.nOut).map fun o =>
        let x := s.slotS n k o
        if x.plan.runs && !x.plan.off then x.coef.length + (if x.plan.commit then x.coefNew.length else 0) else 0).foldl (· + ·) 0
      let s := s.renderEv n k 2 (4 * taps)
      let s := (upTo s.nOut).foldl (fun s o => s.slotQuarter win n k w.blk c.quarter sides o) s
      s.modCl n k fun x => { x with quarter := x.quarter + 1 }

/-! ### The end of a render (04 R127, R137; 02 R55) -/

/-- The thermal model at the end of a block (04 R127): rise and gain. -/
def SlotS.thermal (x : SlotS) : Nat × Nat :=
  let ms := x.y4.foldl (fun acc y =>
    let v := fMul (fOfInt y) 0x34000000
    fAdd acc (fMul v v)) 0
  let ms := fDiv ms 0x41800000
  let p := fMul (x.parFld 4 0 32) ms
  let th := fAdd x.th (fMul (x.parFld 5 0 32) (fSub (fMul (x.parFld 4 32 32) p) x.th))
  let tmax := x.parFld 5 32 32
  let gt :=
    if !bitOf (x.parWord 0).toNat 17 then f1
    else if fLt tmax th then fMax (x.parFld 6 32 32) (fMul x.gt (x.parFld 7 0 32))
    else if fLt th (fSub tmax (x.parFld 6 0 32)) then fMin f1 (fMul x.gt (x.parFld 7 32 32))
    else x.gt
  (th, gt)

/-- The values of the block come into force: what the next block calls the previous block's (04 R128, R130, R120). -/
def SlotS.endBlock (x : SlotS) : SlotS :=
  let p := x.plan
  { x with gain := p.gain, mute := p.muteNew, pol := p.pol, polFaded := p.polPhase == 1, ran := p.runs && !p.firStop,
           duck := p.duckNew, mix := p.mixNew, wasOff := p.off, plan := SlotPlan.none, y4 := [], begun := true }

/-- The end of block `blk` for one slot: thermal update when the block is whole, values in force, OSTAT, OENV, the end of a
commit, and the mirror (04 R122, R127, R145). A block given up before its end (02 R55) makes no thermal update and sets no THERM: the
history, biquad states and ENV of the quarters handed over stand, and what the block planned comes into force (DESIGN CHOICE,
assumption 41). -/
def State.endSlot (s : State) (n k blk : Nat) (whole : Bool) (o : Nat) : State :=
  let x := s.slotS n k o
  let plan := x.plan
  let x := if whole then { x with th := x.thermal.1, gt := x.thermal.2 } else x
  let a := s.clReg n k + 0x2000 + 0x80 * o
  let s := if whole && fLt x.gt f1 then s.ossticky n k o 8 else s
  let s := (s.setRg (a + 0x40) (BitVec.ofNat 64 (x.th + 2 ^ 32 * x.gt))).setRg (a + 0x48) (BitVec.ofNat 64 x.env)
  let s := s.setSlotS n k o x.endBlock
  let s := if plan.commit then ((s.firInstall n k o).reqUpdate n).mirSections n k (16 * blk + 15) else s.mirHistory n k blk o
  s.mirSlotState n k o plan

/-- The render at the front of a cluster's work ends; the next one starts at once when it waits (02 R55). -/
def State.renderEnd (s : State) (n k : Nat) (whole : Bool) : State :=
  let blk := ((s.cl n k).work.map (·.blk)).headD 0
  let s := (upTo s.nOut).foldl (fun s o => s.endSlot n k blk whole o) s
  let s := s.modCl n k fun x => { x with busy := false, quarter := 0, late := false, work := x.work.tail }
  s.renderStart n k

/-- RENDER_COMPLETE (04 R137): the completion word follows the words on every hub written to. -/
def State.renderDone (s : State) (n k : Nat) : State :=
  let c := s.cl n k
  match c.work with
  | [] => s
  | w :: _ =>
    if !(s.clActs n k && s.live && c.busy && c.quarter == 4) then s
    else
      let s := s.toEgress n k (0x240000 + w.blk % 4 * 0x800 + 8 * (24 * n + k)) 1
      let s := if c.late && decide (c.grace ≤ w.blk) then s.shedSticky n 0 else s
      s.renderEnd n k true

/-- The comet of a die loads a cluster's state (15 R444). -/
def State.clLoads (s : State) (n k : Nat) : Bool := s.dieActs (n + 2) && (s.comet n).loading == some k

/-- RENDER_HARD_DEADLINE (02 R55): a render that ran into the spare block is abandoned. A block whose deadline passes while the comet still
loads is missed too; the comet, whose bits show it, begins with the next one, from the state that the mirror holds (15 R443). -/
def State.renderMissed (s : State) (n k : Nat) : State :=
  let c := s.cl n k
  if s.clLoads n k && s.live && c.late then
    let s := ((s.lsticky n 24 6).renderEv n 24 6 1).shedSticky n 1
    let s := if c.busy then (upTo s.nOut).foldl (fun s o => s.unbackSlot n k o) s else s
    (s.modDie (n + 2) fun d => { d with lateSeen := true }).modCl n k fun x =>
      { x with busy := false, quarter := 0, late := false, words := [], work := x.work.tail }
  else if !(s.clActs n k && s.live && c.busy && c.late) then s
  else
    let s := ((s.lsticky n k 6).renderEv n k 6 1).shedSticky n 1
    (s.modDie (n + 2) fun d => { d with lateSeen := true }).renderEnd n k false

/-- A render still at work at the end of its block is LATE (02 R55). -/
def State.renderLate (s : State) (n k : Nat) : State :=
  let c := s.cl n k
  let s := s.modCl n k fun x => { x with late := true }
  if (c.work.map (·.blk)).headD 0 < c.grace then s
  else ((s.lsticky n k 5).renderEv n k 5 1).modDie (n + 2) fun d => { d with lateSeen := true }

/-! ### The commands -/

/-- RENDER_COMPLETE (04 R137). -/
def execRenderComplete (d : Fin 6) (k : Fin 25) (s : State) : Host.Outcome State Fault Refusal :=
  .next (s.renderDone d.val (s.clOf d k))

/-- RENDER_HARD_DEADLINE (02 R55). -/
def execRenderHardDeadline (d : Fin 6) (k : Fin 25) (s : State) : Host.Outcome State Fault Refusal :=
  .next (s.renderMissed d.val (s.clOf d k))

/-- PRIORITY_BUS_CHANGE (04 R129): the change reaches a die over T0 and waits for its effective block. Without a priority domain no
change is made (01 R37). -/
def execPriorityBusChange (d : Fin 6) (bus : Fin 8) (psrc : BitVec 11) (active : Bool) (duck : BitVec 17)
    (effBlock : BitVec 52) (s : State) : Host.Outcome State Fault Refusal :=
  if nsMem s.fenced (d.val + 2) || s.prioDom == 0 then .next s
  else
    let l := SMap.get (dflt []) s.busPend d.val ++ [⟨bus.val, psrc.toNat, active, duck.toNat, effBlock.toNat⟩]
    .next { s with busPend := SMap.set (dflt []) s.busPend d.val l }

end Sys2Proof.Machine
end

