-- ==== Sys2Proof/Machine/Egress.lean ====
section
/-! DEFINITION. The egress playout buffers: words and completion words arriving, the latch, playout and concealment, and the
output map (04 R136-R144, R150, R515). -/

namespace Sys2Proof.Machine
open Sys2Proof

/-- The egress area of a hub. -/
def egBase (h : Nat) : Nat := dieBase h + 0x10000000

/-- The completion word of a cluster in a block slot (04 Table 4-4). -/
def complAddr (h q c : Nat) : Nat := egBase h + 0x240000 + q * 0x800 + 8 * c

/-- A hub takes egress writes, latches and plays: neither fenced nor in HOLD. -/
def State.hubActs (s : State) (h : Nat) : Bool := s.dieActs h

/-- A cluster's block is present in a block slot (04 R139). -/
def State.present (s : State) (h q c : Nat) : Bool := bitOf (memRead s.mem (complAddr h q c)).toNat 0

/-- A cluster's block as playout finds it, where the 256-byte blocks `lost` were denied to it: a completion word that it cannot read, or
that is uncorrectable, counts as not written (DESIGN CHOICE, assumption 99). -/
def State.shown (s : State) (lost : List Nat) (h q c : Nat) : Bool :=
  s.present h q c && !nsMem lost (complAddr h q c / 256) && decide (s.upsetsAt (complAddr h q c / 8) < 2)

/-- The cluster number c of an output (04 R136). -/
def clusterOf (o : Nat) : Nat := 24 * (o / 1536) + o % 1536 / 64

/-- An output word in a block slot. -/
def State.egWord (s : State) (h q o w : Nat) : Nat := leNat (s.peek (egBase h + q * 0x90000 + 64 * o + 8 * w) 8)

/-- The CRC of an output word is right (04 R135). -/
def wordGood (v : Nat) : Bool := crc16 0xFFFF (natLE 6 v) == bitsOf v 48 16

/-- Missing clusters of a block: MISSBLK, EGMISS and MISSCNT (04 R142, Table 4-7). -/
def State.missCluster (s : State) (h blk c : Nat) : State :=
  let r := egBase h + 0x3F0000
  let s := if s.bit r 0 then s else s.setRg (r + 8) (BitVec.ofNat 64 (c + 2 ^ 24 * (blk % 2 ^ 40)))
  (s.addSat (r + 0x18) 0 32 1).egressSticky h 0

/-- A bad word: BADCRC (1) or UNCORR (2), EGBAD and BADCNT (04 R143, Table 4-7). -/
def State.badWord (s : State) (h blk o w bit : Nat) : State :=
  let r := egBase h + 0x3F0000
  let s := if s.bit r 1 || s.bit r 2 then s
    else s.setRg (r + 0x10) (BitVec.ofNat 64 (o + 2 ^ 16 * w + 2 ^ 24 * (blk % 2 ^ 40)))
  (s.addSat (r + 0x18) 32 32 1).egressSticky h bit

/-- The values of a present block, word by word; `ws` are the words with their faults, `p` the last played sample
(04 R143, R144). -/
def playWords (fade : Bool) : List (Nat × Option Nat) → Nat → Int → List Int → List Int
  | [], _, _, acc => acc
  | (v, bad) :: ws, i, p, acc =>
    let s0 := signed 24 (bitsOf v 0 24)
    let s1 := signed 24 (bitsOf v 24 24)
    let (a, b) : Int × Int :=
      match bad with
      | none => (s0, s1)
      | some _ =>
        match ws with
        | (v', none) :: _ =>
          let q1 := signed 24 (bitsOf v' 0 24)
          (rndDiv (2 * p + q1) 3, rndDiv (p + 2 * q1) 3)
        | _ => (p, p)
    let f (x : Int) (j : Nat) : Int := if fade then rnd (x * (j + 1 : Nat)) 4 else x
    playWords fade ws (i + 2) (f b (i + 1)) (acc ++ [f a i, f b (i + 1)])

/-- The values of a missing block (04 R142). -/
def missValues (p : Int) : List Int := (upTo 16).map fun i => if i < 8 then rnd (p * (7 - i : Nat)) 3 else 0

def State.outPlayOf (s : State) (h o : Nat) : OutPlay := SMap.get (dflt OutPlay.reset) s.outPlay (16384 * h + o)
def State.setOutPlay (s : State) (h o : Nat) (x : OutPlay) : State :=
  { s with outPlay := SMap.set (dflt OutPlay.reset) s.outPlay (16384 * h + o) x }
def State.chanPlayOf (s : State) (h ch : Nat) : ChanPlay := SMap.get (dflt ChanPlay.reset) s.chanPlay (65536 * h + ch)
def State.setChanPlay (s : State) (h ch : Nat) (x : ChanPlay) : State :=
  { s with chanPlay := SMap.set (dflt ChanPlay.reset) s.chanPlay (65536 * h + ch) x }

/-- A word is uncorrectable at playout: the command names it, or its SRAM word holds two bit errors (01 R17). -/
def State.egUncorr (s : State) (h q o w : Nat) (uncorr : List (BitVec 14 × Fin 8)) : Bool :=
  uncorr.any (fun u => u.1.toNat == o && u.2.val == w) || 2 ≤ s.upsetsAt ((egBase h + q * 0x90000 + 64 * o) / 8 + w)

/-- One needed output played: its 16 values (04 R141-R144). A word that is uncorrectable is not checked against its CRC, so it sets
UNCORR alone, and p is the output's own value, before the fade that a channel of it may have (DESIGN CHOICE, assumption 85). Words whose
read is denied are missing words and are concealed as those are (09 Table 9-10; DESIGN CHOICE, assumption 99). -/
def State.playOutput (s : State) (lost : List Nat) (h blk : Nat) (uncorr : List (BitVec 14 × Fin 8)) (o : Nat) : List Int × State :=
  let q := blk % 4
  let x := s.outPlayOf h o
  if s.shown lost h q (clusterOf o) then
    let base := egBase h + q * 0x90000 + 64 * o
    let (gone, s) := s.engLost (playAttr h) [(base, 64)] fun s => s.troubleHub h 0 1
    let ws := (upTo 8).map fun w =>
      let v := s.egWord h q o w
      (v, if !gone.isEmpty then some 0 else if s.egUncorr h q o w uncorr then some 2 else if wordGood v then none else some 1)
    let s := ((upTo 8).zip ws).foldl (fun s p => match p.2.2 with
      | some 0 => s
      | some b => (if b = 2 then s.ueMet (base + 8 * p.1) else s).badWord h blk o p.1 b
      | none => s) s
    let vs := playWords x.missed ws 0 x.p []
    (vs, s.setOutPlay h o ⟨vs.getLastD 0, false⟩)
  else
    let vs := missValues x.p
    (vs, s.setOutPlay h o ⟨vs.getLastD 0, true⟩)

/-- The output an output-map entry plays, plus one; 0 for none (04 R140). -/
def State.mapNow (s : State) (h ch : Nat) : Nat :=
  let w := s.rg (egBase h + 0x300000 + 4 * (ch / 2 * 2))
  let l := 32 * (ch % 2)
  if getBits w (l + 14) 1 = 1 then getBits w l 14 + 1 else 0

/-- The channels of a hub that the map names or that still play: from the entries that differ from reset. -/
def State.channels (s : State) (h : Nat) : List Nat :=
  let b := egBase h + 0x300000
  let m := s.regs.flatMap fun p => if b ≤ p.1 ∧ p.1 < b + 0x40000 then [(p.1 - b) / 4, (p.1 - b) / 4 + 1] else []
  let c := s.chanPlay.filterMap fun p => if p.1 / 65536 = h then some (p.1 % 65536) else none
  unionIdx c m

/-- The entry in force and the fade of a channel in the playout block that starts: an entry that changed goes out in this
block, and what replaces it comes in during the next (04 R140). 0 plays as it is, 1 fades out, 2 fades in. -/
def ChanPlay.turn (x : ChanPlay) (now : Nat) : ChanPlay × Nat :=
  match x.next with
  | some v => ({ x with cur := v, next := none }, 2)
  | none => if now = x.cur then (x, 0) else ({ x with next := some now }, 1)

/-- The played values of a channel added, newest first; only the newest 128 are kept, and silence is not listed. -/
def ChanPlay.push (x : ChanPlay) (vs : List Int) : ChanPlay :=
  let l := (vs.reverse ++ x.vals).take 128
  { x with vals := if l.all (· == 0) then [] else l }

/-- One channel of a playout block: its output's values under the map's fades, each product rounded by rnd (DESIGN CHOICE,
assumption 85). -/
def State.playChan (s : State) (h : Nat) (vals : Nat → List Int) (ch : Nat) : State :=
  let (x, f) := (s.chanPlayOf h ch).turn (s.mapNow h ch)
  let vs : List Int := if x.cur = 0 then (upTo 16).map fun _ => 0 else
    ((upTo 16).zip (vals (x.cur - 1))).map fun p =>
      if f = 1 then rnd (p.2 * (15 - p.1 : Nat)) 4 else if f = 2 then rnd (p.2 * (p.1 + 1 : Nat)) 4 else p.2
  s.setChanPlay h ch (x.push vs)

/-- The outputs that the channels of a block need, ascending (04 R141). -/
def State.needed (s : State) (h : Nat) : List Nat :=
  (s.channels h).foldl (fun l ch =>
    let x := ((s.chanPlayOf h ch).turn (s.mapNow h ch)).1
    if x.cur = 0 then l else nsAdd l (x.cur - 1)) []

/-- The end of a block slot's playout: its completion words are cleared and it takes writes again (04 R139). -/
def State.slotFree (s : State) (h q : Nat) : State :=
  { s with mem := memZero s.mem (complAddr h q 0) 0x800, latched := nsDel s.latched (4 * h + q) }

/-- Playout of ingress block `blk` on a hub, in block blk + 4 (04 R141, R515; 02 R77). An output that no channel needs is neither
checked nor concealed, so a block of it that was missing meanwhile makes no fade-in of R144 when it is needed again (DESIGN CHOICE,
assumption 85). -/
def State.playout (s : State) (h blk : Nat) (uncorr : List (BitVec 14 × Fin 8)) : State :=
  let last := SMap.get (dflt 0) s.playNext h
  let fresh := last != blk + 4
  let s := { s with playNext := SMap.set (dflt 0) s.playNext h (blk + 5) }
  let s := if fresh then { s with playFrom := SMap.set (dflt 0) s.playFrom h (16 * (blk + 4)) } else s
  let chans := s.channels h
  if !s.live || decide (blk + 2 < s.runBlk) then
    let s := { s with outPlay := s.outPlay.filter fun p => p.1 / 16384 != h }
    (chans.foldl (fun s ch => s.playChan h (fun _ => (upTo 16).map fun _ => 0) ch) s).slotFree h (blk % 4)
  else
    let need := s.needed h
    let compl := complAddr h (blk % 4) 0
    let s := (s.badWords [(compl, 1152)]).foldl (fun s a => s.ueMet a) s
    let (lost, s) := s.engLost (playAttr h) [(compl, 1152)] fun s => s.troubleHub h 0 1
    let s := (upTo 144).foldl (fun s c => if s.shown lost h (blk % 4) c then s else s.missCluster h blk c) s
    let s :=
      if fresh && last != 0 then
        need.foldl (fun s o => s.setOutPlay h o ⟨0, true⟩) { s with outPlay := s.outPlay.filter fun p => p.1 / 16384 != h }
      else
        { s with outPlay := s.outPlay.filterMap fun p =>
            if p.1 / 16384 = h ∧ !need.contains (p.1 % 16384) then (if p.2.missed then some (p.1, ⟨0, true⟩) else none) else some p }
    let (vals, s) := need.foldl (fun (a : SMap (List Int) × State) o =>
      let (vs, s) := a.2.playOutput lost h blk uncorr o
      (a.1 ++ [(o, vs)], s)) ([], s)
    (chans.foldl (fun s ch => s.playChan h (fun o => SMap.get (dflt []) vals o) ch) s).slotFree h (blk % 4)

/-! ### The commands -/

/-- A word of cluster c = 24 n + k arrives at a hub from the output stage of the unit that does the cluster's work (01 Table 1-10). -/
def State.egArrive (s : State) (h c off v : Nat) : State :=
  let u := s.unit (c / 24) (c % 24)
  s.engWrite (engAttr (mid (c / 24 + 2) u 2 2) 1) (egBase h + off) (natLE 8 v) fun s => s.troubleCluster (c / 24 + 2) u

/-- EGRESS_WORD_WRITE (04 R138, R139): a word from an output stage arrives at a hub; late ones are discarded with LATEWR. -/
def execEgressWordWrite (h : Fin 2) (blk : BitVec 52) (out : BitVec 14) (w : Fin 8) (data : Word) (s : State) :
    Host.Outcome State Fault Refusal :=
  if s.live && s.hubActs h.val && s.outOk out.toNat then
    .next (s.egArrive h.val (clusterOf out.toNat) (blk.toNat % 4 * 0x90000 + 64 * out.toNat + 8 * w.val) data.toNat)
  else .next s

/-- COMPLETION_WORD_WRITE (04 R137-R139): a cluster's completion word arrives at a hub. -/
def execCompletionWordWrite (h : Fin 2) (blk : BitVec 52) (cl : Fin 144) (s : State) : Host.Outcome State Fault Refusal :=
  if s.live && s.hubActs h.val then .next (s.egArrive h.val cl.val (0x240000 + blk.toNat % 4 * 0x800 + 8 * cl.val) 1) else .next s

/-- EGRESS_LATCH (04 R139): the hub latches a block slot at the hard deadline. -/
def execEgressLatch (h : Fin 2) (blk : BitVec 52) (s : State) : Host.Outcome State Fault Refusal :=
  if s.hubActs h.val then .next { s with latched := nsAdd s.latched (4 * h.val + blk.toNat % 4) } else .next s

/-- PLAYOUT_BLOCK (04 R141): `uncorr` names the words that the hub's ECC finds uncorrectable. A block is played once. -/
def execPlayoutBlock (h : Fin 2) (blk : BitVec 52) (uncorr : List (BitVec 14 × Fin 8)) (s : State) :
    Host.Outcome State Fault Refusal :=
  if s.hubActs h.val && decide (SMap.get (dflt 0) s.playNext h.val ≤ blk.toNat + 4) &&
      decide (2 ≤ s.dev) then .next (s.playout h.val blk.toNat uncorr)
  else .next s

end Sys2Proof.Machine
end

