-- ==== Sys2Proof/Machine/Ptp.lean ====
section
/-! DEFINITION. The PTP ports and the state of the tide generators that they discipline (12 R365, R366; 02 R47, R49). -/

namespace Sys2Proof.Machine
open Sys2Proof

/-! ### Ports -/

/-- The register block of a media port (12 R362). -/
def portReg (p : Nat) : Nat := hubReg (p / 2) (7 + p % 2)

def State.port (s : State) (p : Nat) : PortS := SMap.get (dflt PortS.reset) s.ports p
def State.setPort (s : State) (p : Nat) (x : PortS) : State := { s with ports := SMap.set (dflt PortS.reset) s.ports p x }

/-- A port works: its hub acts, its link is up, and it is enabled; before CONFIG the boot ROM uses every port (14 R425). -/
def State.portOn (s : State) (p : Nat) : Bool :=
  s.dieActs (p / 2) && nsMem s.up p && (decide (s.dev < 2) || s.bit (portReg p) 0)

/-! ### Time from the network (12 R365, R366, 02 R47, R49) -/

/-- A field of the PTP registers, the same on both hubs; a hub in HOLD takes it when it is back (02 R74). -/
def State.ptpFld (s : State) (o lsb w v : Nat) : State :=
  let one (s : State) (h : Nat) : State := if nsMem s.held h then s else s.setFld (hubReg h 7 + 0x1000 + o) lsb w v
  one (one s 0) 1

/-- Both generators, which hold the same state (02 R46). -/
def State.bothGens (s : State) (f : TideGen → TideGen) : State := (s.setGen 0 (f (s.gen 0))).setGen 1 (f (s.gen 1))
def State.tideStat (s : State) (lsb w v : Nat) : State := (s.setFld (hubReg 0 6) lsb w v).setFld (hubReg 1 6) lsb w v

/-- A sticky bit of TIDESTAT of the active generator, with the hub's trouble bit (02 R49). -/
def State.tideSticky (s : State) (i : Nat) : State := (s.setBit (hubReg s.active 6) i true).troubleHub s.active 0 0

/-- A generator's frequency offset now: it moves towards the offset asked for by no more than 0.5 ppm in each second (02 Table 2-3). -/
def TideGen.freq (g : TideGen) (rate : Nat) : Int :=
  let step : Int := (500 * ((g.pos + 2 ^ 56 - g.freqAt) % 2 ^ 56) / rate : Nat)
  clampI (g.freqPpb - step) (g.freqPpb + step) g.wantPpb

/-- The servo asks for an offset, of which 20 ppm at most is applied (02 Table 2-3, R49). -/
def TideGen.ask (g : TideGen) (rate : Nat) (want : Int) : TideGen :=
  { g with freqPpb := g.freq rate, freqAt := g.pos, wantPpb := clampI (-20000) 20000 want }

/-- The frequency is held where it is (02 Table 2-3, HOLDOVER). -/
def TideGen.hold (g : TideGen) (rate : Nat) : TideGen := { g with freqPpb := g.freq rate, freqAt := g.pos, wantPpb := g.freq rate }

/-- The generator changes state: in FREE it ticks at the nominal rate, in HOLDOVER at the frequency it has, and LOCKED left in RUN sets UNLOCK (02 Tables 2-3, 2-4). -/
def State.genState (s : State) (v : Nat) : State :=
  let old := s.fld (hubReg s.active 6) 0 2
  let s := s.tideStat 0 2 v
  let s := if v = 0 then s.bothGens fun g => { g with freqPpb := 0, freqAt := g.pos, wantPpb := 0 } else if v = 3 then s.bothGens fun g => g.hold s.rateHz else s
  if old = 2 ∧ v ≠ 2 ∧ s.live then s.tideSticky 32 else s

/-- The servo reports valid time lost. -/
def State.timeLost (s : State) : State := (s.ptpFld 8 0 1 0).bothGens fun g => { g with valid := false }

/-- The selected port, if one is selected: the port in SLAVE. -/
def State.ptpSel (s : State) : Option Nat := (upTo 4).find? fun p => s.dieActs (p / 2) && s.fld (portReg p + 0x20) 3 3 == 3

/-- Port `p` becomes the selected port: SLAVE, and the others that listen PASSIVE (12 R366). -/
def State.ptpSelect (s : State) (p : Nat) : State :=
  let s := (upTo 4).foldl (fun s q =>
    if q = p then s.setFld (portReg q + 0x20) 3 3 3
    else if s.dieActs (q / 2) && nsMem s.up q && s.bit (portReg q) 4 then s.setFld (portReg q + 0x20) 3 3 4 else s) s
  s.ptpFld 8 1 2 p

/-- A frame leaves a port: counted, with its bytes at the meter. -/
def State.txFrame (s : State) (p bytes : Nat) : State := (s.addSat (portReg p + 0x38) 0 32 1).meter (p / 2) (5 + p % 2) 1 bytes
def State.txFrames : Nat → Nat → Nat → State → State
  | 0, _, _, s => s
  | n + 1, p, bytes, s => State.txFrames n p bytes (s.txFrame p bytes)

/-- The device's own request of a path delay: Delay_Req, or Pdelay_Req of IEEE 802.1AS. The interval between requests is left out: the next
one follows the answer (12 R365; timing). -/
def State.askDelay (s : State) (p : Nat) : State :=
  (s.setPort p { s.port p with delayReq := true }).txFrame p (if s.bit (hubReg (p / 2) 7 + 0x1000) 0 then 72 else 90)

/-- The profile is IEEE 802.1AS (12 Table 12-3). -/
def State.gptp (s : State) (p : Nat) : Bool := s.bit (hubReg (p / 2) 7 + 0x1000) 0

/-- A port that works takes part in PTP: it listens, as PASSIVE where another port is selected; under IEEE 802.1AS it runs the peer delay
mechanism (12 R365, R366). -/
def State.ptpListen (s : State) (p : Nat) : State :=
  if !s.portOn p || !s.bit (portReg p) 4 || s.fld (portReg p + 0x20) 3 3 != 0 then s
  else
    let s := s.setFld (portReg p + 0x20) 3 3 (if s.ptpSel.isSome then 4 else 1)
    if s.gptp p then s.askDelay p else s

/-- A port has become the selected one in the place of another that saw the same grandmaster: valid time goes on, and where there is none yet
it has its own eight Sync messages to see. -/
def State.ptpGoesOn (s : State) (q : Nat) : State :=
  let s := s.ptpSelect q
  s.setPort q { s.port q with syncs := if (s.gen s.active).valid then 8 else 0 }

/-- The selected port has failed: one that sees the same grandmaster is selected and valid time goes on; with none valid time is lost
(12 R366, R386; which of two such ports is chosen is the model's choice, assumption 53). -/
def State.ptpReselect (s : State) (p : Nat) : State :=
  let gm := (s.port p).gm
  match (upTo 4).find? fun q => q != p && s.portOn q && s.bit (portReg q) 4 && gm.isSome && (s.port q).gm == gm with
  | some q => s.ptpGoesOn q
  | none => s.timeLost

/-- A port takes part in PTP no longer: PTPST is `v`, and what it saw is gone. -/
def State.ptpLost (s : State) (p v : Nat) : State :=
  let sel := s.fld (portReg p + 0x20) 3 3 == 3
  let s := s.setFld (portReg p + 0x20) 3 3 v
  let s := if sel then s.ptpReselect p else s
  s.setPort p { s.port p with syncs := 0, gm := none, followUp := false, delayReq := false, asCapable := false }

/-- The ports of a fenced hub stop (12 R381, R386). -/
def State.ptpHubLost (s : State) (h : Nat) : State := (s.ptpLost (2 * h) 0).ptpLost (2 * h + 1) 0

/-- The ports of a hub in HOLD stop; its registers keep what they hold. -/
def State.ptpHubStop (s : State) (h : Nat) : State :=
  match [2 * h, 2 * h + 1].find? fun p => s.fld (portReg p + 0x20) 3 3 == 3 with
  | some p => s.ptpReselect p
  | none => s

/-- A hub is back from HOLD: its ports listen again, and its PTP registers follow those of the other hub. -/
def State.ptpHubBack (s : State) (h : Nat) : State :=
  let s := [2 * h, 2 * h + 1].foldl (fun s p =>
    let s := s.setPort p { s.port p with syncs := 0, gm := none, followUp := false, delayReq := false, asCapable := false }
    if s.fld (portReg p + 0x20) 3 3 = 0 then s else (s.setFld (portReg p + 0x20) 3 3 0).ptpListen p) s
  if !s.dieActs (1 - h) then s
  else [8, 0x10, 0x18].foldl (fun s o => s.setRg (hubReg h 7 + 0x1000 + o) (s.rg (hubReg (1 - h) 7 + 0x1000 + o))) s

end Sys2Proof.Machine
end

