-- ==== Sys2Proof/Machine/Place.lean ====
section
/-! DEFINITION. The places that the runtime chooses: physical blocks of domains and of its own objects, and the virtual places of what it
maps for a domain (16 R476, R477; 13 R402; assumption 25). -/

namespace Sys2Proof.Machine
open Sys2Proof

/-- A field of n bytes. -/
def fieldAt (bs : List Byte) (o n : Nat) : Nat := leNat ((bs.drop o).take n)

/-- Two ranges have a byte in common. -/
def rangesMeet (a n b m : Nat) : Bool := decide (a < b + m) && decide (b < a + n) && n != 0 && m != 0

/-- The host domains that are enabled. -/
def State.hosts (s : State) : List Nat := (upTo 16).filter fun d => d != 0 && s.domEn d

/-! ### MEMMAP records (14 Table 14-10) -/

/-- A MEMMAP record: VBASE, SIZE, PERM, MT, SHARE, SHAREID. -/
structure MemRec where
  vbase : Nat
  size : Nat
  perm : Nat
  mt : Nat
  share : Nat
  shareId : Nat
  resv : Nat
deriving DecidableEq, Repr

/-- The MEMMAP records of a domain. -/
def State.memmap (s : State) (d : Nat) : List MemRec :=
  let v := s.dVal (dKey (0x3100 + d) 8)
  (upTo (v.length / 16)).map fun i =>
    let b := v.drop (16 * i)
    ⟨fieldAt b 0 4 * 4096, fieldAt b 4 1, fieldAt b 5 1, fieldAt b 6 1, fieldAt b 7 1, fieldAt b 8 2, fieldAt b 10 6⟩

/-- The record of another domain that a record shares with. -/
def State.sharePartner (s : State) (d : Nat) (r : MemRec) : Option (Nat × Nat) :=
  if r.share = 0 then none
  else
    let rs := s.memmap r.share
    ((upTo rs.length).find? fun j =>
      match rs[j]? with
      | some x => x.share == d && x.shareId == r.shareId && x.size == r.size && x.mt == r.mt
      | none => false).map fun j => (r.share, j)

/-- The domain and record whose block a record maps: of two shared records the lower domain's. -/
def State.shareHome (s : State) (d i : Nat) (r : MemRec) : Nat × Nat :=
  match s.sharePartner d r with
  | some (e, j) => if e < d then (e, j) else (d, i)
  | none => (d, i)

/-! ### Bulk-delay rings (03 R85) -/

/-- The sources with an entry of family f in a store of dictionary values, ascending. -/
def State.famSlots (s : State) (m : SMap (List Byte)) (f : Nat) : List Nat :=
  m.filterMap fun e =>
    if srcBase f * 256 ≤ e.1 ∧ e.1 < (srcBase f + 16) * 256 then
      (let t := 128 * (e.1 / 256 - srcBase f) + e.1 % 256 - 1; if t < s.nSlots then some t else none)
    else none

/-- The sources with a bulk delay configured. -/
def State.delaySlots (s : State) : List Nat := s.famSlots s.dict 1

/-- The entries of the ring of a source with maximum delay `maxb`, 0 for none. -/
def ringEntries (maxb : Nat) : Nat := if maxb = 0 then 0 else 16 * cdiv (maxb + 32) 16

/-! ### Choosing -/

/-- A place of n bytes, aligned to n, below `top`: the one wanted where it is free, else a free one. -/
def pickPlace (used : List (Nat × Nat)) (want n top : Nat) : Nat :=
  ((want :: 0 :: used.map fun b => cdiv (b.1 + b.2) n * n).find? fun a =>
    decide (a + n ≤ top) && used.all fun b => !rangesMeet a n b.1 b.2).getD want

/-- The places of objects, each with its number i and 2^n bytes, one after another, where `want` says what is wanted. -/
def placeList (want : Nat → Nat) (top : Nat) : List (Nat × Nat) → List (Nat × Nat) → List (Nat × Nat)
  | [], _ => []
  | (i, n) :: os, used =>
    let a := pickPlace used (want i % (top / 2 ^ n) * 2 ^ n) (2 ^ n) top
    (i, a) :: placeList want top os ((a, 2 ^ n) :: used)

/-- No two ranges of a list meet. -/
def apartAll : List (Nat × Nat) → Bool
  | [] => true
  | b :: bs => (bs.all fun c => !rangesMeet b.1 b.2 c.1 c.2) && apartAll bs

/-- Objects placed keep apart from each other and from what is used. -/
def placedApart (objs l used : List (Nat × Nat)) : Bool := apartAll (used ++ (objs.zip l).map fun p => (p.2.2, 2 ^ p.1.2))

/-- The places of objects: what is wanted is free (Config.place), while it leaves room for all; else they lie as low as they can. -/
def placesOf (top : Nat) (objs used : List (Nat × Nat)) : List (Nat × Nat) :=
  let l := placeList Config.place top objs used
  if placedApart objs l used then l else placeList (fun _ => 0) top objs used

/-- Objects have room beside what is used. -/
def roomFor (top : Nat) (objs used : List (Nat × Nat)) : Bool := placedApart objs (placeList (fun _ => 0) top objs used) used

/-- The place of object i in a list, or what is wanted for one that the list does not hold. -/
def placeOf (l : List (Nat × Nat)) (i n top : Nat) : Nat :=
  ((l.find? fun p => p.1 == i).map (·.2)).getD (Config.place i % (top / 2 ^ n) * 2 ^ n)

/-! ### Physical places -/

/-- The blocks of the enabled host domains, largest first: those that their records map, and their code stores. -/
def State.blockObjs (s : State) : List (Nat × Nat) :=
  let all := s.hosts.flatMap fun d =>
    let rs := s.memmap d
    (16 + d, 24) :: (upTo rs.length).filterMap fun i =>
      match rs[i]? with
      | some r => if r.mt = 0 ∧ s.shareHome d i r = (d, i) then some (4096 + 256 * d + i, r.size) else none
      | none => none
  (upTo 43).flatMap fun n => all.filter fun o => o.2 == 42 - n

/-- The runtime's objects in the runtime region: bulk-delay rings, scene stores, block tables and return stubs. -/
def State.runtimeObjs (s : State) : List (Nat × Nat) :=
  (s.delaySlots.map fun t => (0x10000 + t, 22)) ++ ((upTo 16).map fun d => (32 + d, 19)) ++
    ((upTo 16).flatMap fun d => [(d, 12), (80 + d, 12)])

/-- The place of a domain's block in DRAM beyond the runtime region, and of an object of the runtime in that region: no two of them
meet. -/
def State.placeBlock (s : State) (i n : Nat) : Nat :=
  placeOf (placesOf s.shape.usable s.blockObjs [(0, 2 ^ 30)]) i n s.shape.usable
def State.placeDram (s : State) (i n : Nat) : Nat := placeOf (placesOf (2 ^ 30) s.runtimeObjs []) i n (2 ^ 30)

/-- A domain's code store: its DRAM, and its virtual base (16 R476). -/
def State.codeStore (s : State) (d : Nat) : Nat := s.placeBlock (16 + d) 24
def codeVa : Nat := 0xFFF00000000

/-- Where a record's block lies; a device record maps its own addresses. -/
def State.memPlace (s : State) (d i : Nat) (r : MemRec) : Nat :=
  if r.mt = 1 then r.vbase
  else let (e, j) := s.shareHome d i r; s.placeBlock (4096 + 256 * e + j) r.size

/-! ### Virtual places -/

/-- The virtual places of what the runtime maps for a domain besides its records and its code store, which they do not meet: the cluster
and pair windows of the lattice dies, the scene store, the return stub. -/
def vaObjs : List (Nat × Nat) := ((upTo 6).map fun n => (64 + n, 29)) ++ ((upTo 6).map fun n => (72 + n, 27)) ++ [(48, 19), (80, 12)]
def State.vaUsed (s : State) (d : Nat) : List (Nat × Nat) := (s.memmap d).map fun r => (r.vbase, 2 ^ r.size)
def State.placeVa (s : State) (d i n : Nat) : Nat := placeOf (placesOf codeVa vaObjs (s.vaUsed d)) i n codeVa

def State.clustersVa (s : State) (d n : Nat) : Nat := s.placeVa d (64 + n) 29
def State.pairsVa (s : State) (d n : Nat) : Nat := s.placeVa d (72 + n) 27
def State.sceneVa (s : State) (d : Nat) : Nat := s.placeVa d 48 19
def State.stubVa (s : State) (d : Nat) : Nat := s.placeVa d 80 12

end Sys2Proof.Machine
end

