-- ==== Sys2Proof/Machine/Scene.lean ====
section
/-! DEFINITION. Scene frames and the scene store, the law window, law calls and returns, the vet and the close point, and the
checked stream pairs with their programs (chapter 05). -/

namespace Sys2Proof.Machine
open Sys2Proof

/-! ### The runtime's objects (assumption 25) -/

/-- The copy of a domain's scene store that laws read: object records by law and OBJ, the layout, law parameters, slot tables. -/
def State.sceneMem (s : State) (d : Nat) : Nat := s.placeDram (32 + d) 19
def scLayout : Nat := 0x20000
def scLaw (l : Nat) : Nat := 0x70000 + 64 * l
def scSlots (c : Nat) : Nat := 0x74000 + 128 * c

/-- The DRAM of a domain's copy of the return stub (05 R161). -/
def State.stubMem (s : State) (d : Nat) : Nat := s.placeDram (80 + d) 12

/-- The runtime writes memory of its own: tags of the granules are cleared (08 R273). -/
def State.runtimePut (s : State) (a : Nat) (bs : List Byte) : State :=
  if bs.isEmpty then s else (s.poke a bs).untag a bs.length

/-- A number of 64-byte lines from the start of a core's cluster or pair SRAM. -/
def sramPlace (i : Nat) : Nat := Config.place (128 + i) % 0x1000 * 64

/-! ### Source inputs (03 R84-R86, 12 R378) -/

def State.srcInOf (s : State) (t : Nat) : SrcIn := SMap.get (dflt SrcIn.reset) s.srcIn t
def State.setSrcIn (s : State) (t : Nat) (x : SrcIn) : State := { s with srcIn := SMap.set (dflt SrcIn.reset) s.srcIn t x }

/-- The map entry of a source slot as the active hub's registers hold it; one that names no input gives none. -/
def State.mapOf (s : State) (t : Nat) : Nat := s.fld (hubReg s.active 7 + 0x6000 + 8 * (t / 2)) (32 * (t % 2)) 17

/-- The sources that have an input, or had one. -/
def State.sources (s : State) : List Nat :=
  let b := hubReg s.active 7 + 0x6000
  let m := s.regs.flatMap fun p => if b ≤ p.1 ∧ p.1 < b + 0x2000 then [(p.1 - b) / 4, (p.1 - b) / 4 + 1] else []
  (unionIdx (s.srcIn.map (·.1)) m).filter fun t => decide (t < s.nSlots)

/-- The sources with programs configured, and those that are buses (05 R174, R175). -/
def State.progSlots (s : State) : List Nat := s.famSlots s.force 6
def State.isBus (s : State) (t : Nat) : Bool := s.srcNat 5 t == 1
def State.busSlots (s : State) : List Nat := (s.famSlots s.dict 5).filter s.isBus

/-- The slots that a source fills: those that get input, and those with programs. -/
def State.inputSlots (s : State) : List Nat := unionIdx (unionIdx s.sources s.delaySlots) s.busSlots
def State.slotsUsed (s : State) : List Nat := unionIdx s.inputSlots s.progSlots

/-- The place of a source's ring in domain 0's DRAM, which the runtime chooses (03 R85; assumption 25). -/
def State.delayRing (s : State) (t : Nat) : Nat := s.placeDram (0x10000 + t) 22

/-! ### Reading a domain's memory -/

/-- A range cut at 64-byte lines: addresses and lengths. -/
def cutLines (va n : Nat) : List (Nat × Nat) :=
  if n = 0 then [] else
    (upTo ((va + n - 1) / 64 + 1 - va / 64)).map fun i =>
      let lo := max va (64 * (va / 64 + i))
      (lo, min (va + n) (64 * (va / 64 + i) + 64) - lo)

/-- A range of memory zeroed by the runtime, with what core `c` holds of it (15 R445, 16 R476). -/
def State.zeroRange (s : State) (c a len : Nat) : State :=
  let s := { s with mem := memZero s.mem a len }.clearTags (granulesOf a (max len 1))
  s.modCore c fun x => (cutLines a len).foldl (fun x w => x.dropLine w.1) x

/-- Lines of a domain's memory read by core `c` at level `priv`, all of them or none. -/
def State.domReadGo (c d priv : Nat) : List (Nat × Nat) → List Byte → State → Option (List Byte) × State
  | [], acc, s => (some acc, s)
  | (va, n) :: ls, acc, s =>
    match s.translate (16 + c) d priv va .read with
    | (.ok a _, s) =>
      match s.busRead (coreAttr c d priv) kRead a n with
      | ((.ok, bs), s) => State.domReadGo c d priv ls (acc ++ bs) s
      | (_, s) => (none, s)
    | (_, s) => (none, s)

def State.domRead (s : State) (c d priv va n : Nat) : Option (List Byte) × State := State.domReadGo c d priv (cutLines va n) [] s

/-! ### Scene stores and frames (05 R154-R158, R516) -/

def State.scene (s : State) (d : Nat) : SceneS := SMap.get (dflt SceneS.reset) s.scenes d
def State.setScene (s : State) (d : Nat) (x : SceneS) : State := { s with scenes := SMap.set (dflt SceneS.reset) s.scenes d x }

/-- Dictionary values of a host domain (14 Table 14-10). -/
def State.sceneBase (s : State) (d : Nat) : Nat := s.dNat (dKey (0x3100 + d) 1)
def State.sceneLen (s : State) (d : Nat) : Nat := s.dNat (dKey (0x3100 + d) 2)
def State.sceneQ (s : State) (d : Nat) : Nat := s.dNat (dKey (0x3100 + d) 3)
def State.replyQ (s : State) (d : Nat) : Nat := s.dNat (dKey (0x3100 + d) 4)

/-- The parts of a frame: its object, loudspeaker and law records. -/
def frObjs (bs : List Byte) : List (List Byte) := (upTo (fieldAt bs 2 2)).map fun i => (bs.drop (64 + 32 * i)).take 32
def frSpks (bs : List Byte) : List (List Byte) :=
  (upTo (fieldAt bs 4 2)).map fun i => (bs.drop (64 + 32 * (fieldAt bs 2 2 + i))).take 32
def frLaws (bs : List Byte) : List (List Byte) :=
  (upTo (fieldAt bs 6 2)).map fun i => (bs.drop (64 + 32 * (fieldAt bs 2 2 + fieldAt bs 4 2) + 64 * i)).take 64

/-- LENGTH as the header's counts give it (05 Table 5-1). -/
def frameLen (bs : List Byte) : Nat := 64 + 32 * (fieldAt bs 2 2 + fieldAt bs 4 2) + 64 * fieldAt bs 6 2

/-- The entry and the header are well formed (05 Table 5-6 code 3). -/
def headerOk (entry bs : List Byte) : Bool :=
  fieldAt entry 0 8 < 2 ^ 47 && fieldAt entry 28 4 == 0 && fieldAt entry 8 8 % 64 == 0 && fieldAt bs 0 2 == 1 &&
    fieldAt bs 2 2 ≤ 2048 && fieldAt bs 4 2 ≤ 9216 && fieldAt bs 6 2 ≤ 16 && fieldAt entry 16 4 == frameLen bs &&
    fieldAt bs 8 8 == fieldAt entry 0 8 && fieldAt bs 0x10 4 < 2 && fieldAt bs 0x14 0x2C == 0

/-- Reserved fields of records are 0. -/
def objFmt (r : List Byte) : Bool := fieldAt r 0x17 1 < 8 && fieldAt r 0x1C 4 == 0
def spkFmt (r : List Byte) : Bool := fieldAt r 0x18 8 == 0
def lawFmt (r : List Byte) : Bool := fieldAt r 3 1 == 0 && fieldAt r 0x22 2 == 0 && fieldAt r 0x30 16 == 0

/-- A domain has loaded a program of a kind and number. -/
def State.loaded (s : State) (d kind num : Nat) : Bool :=
  (SMap.get (dflt []) s.progs d).any fun p => p.kind == kind && p.num == num

/-- The lowest code of 5 to 8 that a record meets, 0 for none; `before` are the records of its section before it. -/
def State.objCode (s : State) (d : Nat) (before : List (List Byte)) (r : List Byte) : Nat :=
  if s.nSlots ≤ fieldAt r 0x0E 2 ∨ s.srcOwner (fieldAt r 0x0E 2) ≠ d then 5
  else if !s.loaded d 1 (fieldAt r 0x16 1) then 7
  else if satI 18 (signed 32 (fieldAt r 0x10 4)) ≠ signed 32 (fieldAt r 0x10 4) ∨ 2047 < fieldAt r 0x0C 2 ∨
      (before.any fun b => fieldAt b 0x0C 2 == fieldAt r 0x0C 2) then 8
  else 0
def State.spkCode (s : State) (d : Nat) (before : List (List Byte)) (r : List Byte) : Nat :=
  if !s.outOk (fieldAt r 0x10 2) || s.outOwner (fieldAt r 0x10 2) != d ||
      (before.any fun b => fieldAt b 0x10 2 == fieldAt r 0x10 2) then 6
  else if 16384 < (signed 16 (fieldAt r 0x0E 2)).natAbs ∨ 3 < fieldAt r 0x13 1 then 8
  else 0
def State.lawCode (s : State) (d : Nat) (r : List Byte) : Nat :=
  if !s.loaded d 1 (fieldAt r 0 1) then 7
  else if (2 < fieldAt r 1 1 ∧ fieldAt r 1 1 ≠ 255) ∨ fieldAt r 2 1 = 0 ∨ 7 < fieldAt r 2 1 ∨ fieldAt r 8 4 = 0 ∨
      fieldAt r 0x10 4 = 0 then 8
  else 0

/-- The first record with a code other than 0: its number and the code. -/
def firstCode (f : List (List Byte) → List Byte → Nat) : List (List Byte) → List (List Byte) → Nat → Option (Nat × Nat)
  | [], _, _ => none
  | r :: rs, before, i => if f before r = 0 then firstCode f rs (r :: before) (i + 1) else some (i, f before r)

/-- The check of a frame for tick `t` after it has been read: STATUS (0 for a pass) and INDEX (05 Table 5-6, R516). -/
def State.frameStatus (s : State) (d : Nat) (entry bs : List Byte) : Nat × Nat :=
  if !headerOk entry bs then (3, 0xFFFF)
  else
    let os := frObjs bs
    let ps := frSpks bs
    let ls := frLaws bs
    let fmt (ok : List Byte → Bool) (_ : List (List Byte)) (r : List Byte) : Nat := if ok r then 0 else 3
    match (firstCode (fmt objFmt) os [] 0).orElse fun _ => (firstCode (fmt spkFmt) ps [] os.length).orElse fun _ =>
        firstCode (fmt lawFmt) ls [] (os.length + ps.length) with
    | some (i, c) => (c, i)
    | none =>
      if crc32c bs ≠ fieldAt entry 20 4 then (4, 0xFFFF)
      else
        match (firstCode (s.objCode d) os [] 0).orElse fun _ => (firstCode (s.spkCode d) ps [] os.length).orElse fun _ =>
            firstCode (fun _ => s.lawCode d) ls [] (os.length + ps.length) with
        | some (i, c) => (c, i)
        | none => (0, 0xFFFF)

/-- The reply of a frame (05 Table 5-7). -/
def replyBytes (scene cookie status index : Nat) : List Byte :=
  natLE 8 scene ++ natLE 4 cookie ++ natLE 2 status ++ natLE 2 index

/-- A reply is appended to the domain's reply queue; a full queue takes none. -/
def State.sceneReply (s : State) (d scene cookie status index : Nat) : State :=
  (s.qAppend d (s.replyQ d) (replyBytes scene cookie status index)).getD s

/-- The parameters of a law that no frame gave (05 Table 5-5). -/
def lawDefault (l : Nat) : List Byte :=
  natLE 1 l ++ natLE 1 255 ++ natLE 1 1 ++ natLE 1 0 ++ natLE 4 0xFFFFFFFF ++ natLE 4 343000 ++ natLE 4 0 ++
    natLE 4 (10000 * 256) ++ natLE 4 (50000 * 256) ++ natLE 4 0x1000000 ++ natLE 4 0x1000000 ++ zeros 28

/-- An accepted frame merged into a scene store (05 R157). -/
def SceneS.merge (x : SceneS) (bs : List Byte) : SceneS :=
  let os := frObjs bs
  let ps := frSpks bs
  let keep := if bitOf (fieldAt bs 0x10 4) 0 then
      x.objs.filter fun o => os.any fun r => fieldAt r 0x0C 2 == o.1
    else x.objs
  { x with
    objs := os.foldl (fun m r =>
      let k := fieldAt r 0x0C 2
      SMap.set (dflt []) m k (if bitOf (fieldAt r 0x17 1) 2 then [] else r)) keep,
    spk := if ps.isEmpty then x.spk else ps,
    laws := (frLaws bs).foldl (fun m r => SMap.set lawDefault m (fieldAt r 0 1) r) x.laws }

/-- The objects that select a law, ascending OBJ; the laws that some object selects, ascending. -/
def SceneS.ofLaw (x : SceneS) (l : Nat) : List (List Byte) := (x.objs.map (·.2)).filter fun r => fieldAt r 0x16 1 == l
def SceneS.lawsUsed (x : SceneS) : List Nat := (upTo 16).filter fun l => !(x.ofLaw l).isEmpty

/-- The slot table of a cluster: the loudspeaker whose OUT is each slot (05 Table 5-10). -/
def SceneS.slotTable (x : SceneS) (c : Nat) : List Byte :=
  (upTo 64).flatMap fun q =>
    let o := 1536 * (c / 24) + 64 * (c % 24) + q
    natLE 2 (((upTo x.spk.length).find? fun i => fieldAt (x.spk.getD i []) 0x10 2 == o).getD 0xFFFF)

/-- The scene store as laws read it. -/
def State.sceneShow (s : State) (d : Nat) : State :=
  let x := s.scene d
  let a := s.sceneMem d
  let s := s.runtimePut a ((upTo 16).flatMap fun l => (x.ofLaw l).flatten)
  let s := s.runtimePut (a + scLayout) x.spk.flatten
  let s := (upTo 16).foldl (fun s l => s.runtimePut (a + scLaw l) (SMap.get lawDefault x.laws l)) s
  (upTo 144).foldl (fun s c => s.runtimePut (a + scSlots c) (x.slotTable c)) s

/-- The frame taken last of those that passed becomes the frame of tick `t`; one kept for an earlier tick is answered LATE
(05 R156, R157). -/
def State.sceneAccept (s : State) (d t : Nat) : State :=
  let x := s.scene d
  match x.cand with
  | none => s
  | some (scene, cookie, bs) =>
    if scene % 2 ^ 47 < t then (s.setScene d { x with cand := none }).sceneReply d scene cookie 1 0xFFFF
    else
      let s := s.setScene d { x.merge bs with tick := some t, cand := none }
      (s.sceneShow d).sceneReply d scene cookie 0 0xFFFF

/-- The stores are complete for tick `t`: block 2 of the tick before has ended (05 R156, R157). -/
def State.sceneClose (s : State) (t : Nat) : State :=
  ((s.scenes.map (·.1)).filter fun d => decide (d < 16)).foldl (fun s d => s.sceneAccept d t) s

/-- The entry at the head of the domain's scene queue (05 R154). -/
def State.sceneEntry (s : State) (d : Nat) : Option (List Byte) :=
  let q := s.qDesc d (s.sceneQ d)
  if q.en && decide (q.esz = 1) && decide (0 < q.count) then some (s.peek (q.slot q.head) 32) else none

/-- The entry at the head, if it is for tick `t` or earlier (05 R156). -/
def State.sceneHead (s : State) (d t : Nat) : Option (List Byte) := (s.sceneEntry d).filter fun e => decide (fieldAt e 0 8 % 2 ^ 47 ≤ t)

/-- The frame of an entry read from the scene area; none where it is not wholly readable (05 Table 5-6 code 2). The hub core
HC0 of the queue's home hub reads it at U. -/
def State.frameRead (s : State) (d : Nat) (e : List Byte) : Option (List Byte) × State :=
  let off := fieldAt e 8 8
  let len := fieldAt e 16 4
  if s.sceneLen d < off + len then (none, s)
  else s.domRead (4 * s.qHome d (s.sceneQ d)) d 0 (s.sceneBase d + off) len

/-- One entry taken for tick `t`. -/
def State.sceneTake (s : State) (d t : Nat) (e : List Byte) : State :=
  let scene := fieldAt e 0 8
  let cookie := fieldAt e 24 4
  let q := s.sceneQ d
  let s := s.setHead d q ((s.qDesc d q).head + 1)
  if scene % 2 ^ 47 < t then s.sceneReply d scene cookie 1 0xFFFF
  else
    match s.frameRead d e with
    | (none, s) => s.sceneReply d scene cookie 2 0xFFFF
    | (some bs, s) =>
      match s.frameStatus d e bs with
      | (0, _) =>
        let s := match (s.scene d).cand with
          | some (sc, ck, _) => s.sceneReply d sc ck 9 0xFFFF
          | none => s
        s.setScene d { s.scene d with cand := some (scene, cookie, bs) }
      | (c, i) => s.sceneReply d scene cookie c i

/-- SCENE_FRAME_TAKE (05 R156): during blocks 0-2 of a scene tick the distributor on the queue's home hub takes one entry, while the
reply queue has space for its reply and for that of a frame that waits (assumption 45). An entry for a later tick at the head ends the
tick's frames. -/
def execSceneFrameTake (dom : BitVec 4) (s : State) : Host.Outcome State Fault Refusal :=
  let d := dom.toNat
  let h := s.qHome d (s.sceneQ d)
  let pos := (s.die h).tide
  let t := pos / 512 + 1
  let r := s.qDesc d (s.replyQ d)
  if s.live && d != 0 && s.domEn d && s.dieActs h && decide (pos % 512 < 48) && r.takes &&
      decide (r.count + b2n (s.scene d).cand.isSome < r.n) && decide (r.esz = 0) then
    match s.sceneHead d t with
    | none => .next (if (s.sceneEntry d).isSome then s.sceneAccept d t else s)
    | some e => .next (s.sceneTake d t e)
  else .next s

/-! ### The law window (05 R159-R164) -/

def State.law (s : State) (n k : Nat) : LawS := SMap.get (dflt LawS.reset) s.lawS (25 * n + k)
def State.setLaw (s : State) (n k : Nat) (x : LawS) : State := { s with lawS := SMap.set (dflt LawS.reset) s.lawS (25 * n + k) x }

/-- The core that runs the laws of a cluster (15 R445). -/
def State.lawCore (s : State) (n k : Nat) : Nat := coreOf (n + 2) (s.unit n k)

/-- A capability that the runtime derives from a root with CSETB and CANDR: `len` bytes at `a`, null where the root does not hold them
(08 R260, R264, R266). -/
def Cap.within (root : Cap) (a len rights : Nat) : Cap :=
  let (e, m) := encodeLen len
  if root.tag && decide (root.base ≤ a) && decide (a + m * 2 ^ e ≤ root.top) && decide (e ≤ 28) then
    Cap.make a a m e (root.rights &&& rights) root.dom 0 true
  else Cap.null

/-- A capability of a domain from its data root, and one from its code root. -/
def State.domCap (s : State) (d a len rights : Nat) : Cap := ((SMap.get (dflt []) s.roots d).getD 0 Cap.null).within a len rights
def State.codeCap (s : State) (d a len : Nat) : Cap := ((SMap.get (dflt []) s.roots d).getD 1 Cap.null).within a len 0x4D

/-- The PCC of a loaded program (16 R476): the code root over the copy, its cursor at the entry. -/
def State.progPcc (s : State) (d : Nat) (p : Prog) : Cap := (s.codeCap d (codeVa + p.off) p.len).setCur (codeVa + p.off + p.entry)

/-- The return stub (05 R161): a runtime routine of one TRAP 0x7F01, executable at U; its place is the runtime's. -/
def State.stubCap (s : State) (d : Nat) : Cap := s.codeCap d (s.stubVa d) 64
def stubWord : Nat := encX 0x09 0x7F01

/-- A program is entered at U by CALLW and RETX in a fresh window, every other register and accumulator cleared (05 R161, 01 R40). The
runtime's own window, 0, is the one resident before, so CALLW raises no overflow (06 R194; assumption 88). The fast bank is kept. -/
def CoreS.enterU (x : CoreS) (ds : List (Nat × Nat)) (as : List (Nat × Cap)) (pcc stub : Cap) : CoreS :=
  let x := x.flush.setCwp 1
  let est := putBits (putBits (putBits x.pstat 0 2 0) 2 1 1) 3 1 1
  let x := (((x.setCapSys 0x100 pcc).setSys 0x101 est).setSys 0 est).setSys 3 0
  let d := ds.foldl (fun (m : SMap Word) p => SMap.set (dflt 0) m (x.physD p.1) (BitVec.ofNat 64 p.2)) (x.d.filter fun p => decide (208 ≤ p.1))
  let a0 := x.a.filter fun p => decide (16 ≤ p.1)
  let a := (as ++ [(13, stub)]).foldl (fun (m : SMap Cap) (p : Nat × Cap) => SMap.set aReset m p.1 p.2) (SMap.set aReset a0 0 Cap.null)
  { x.pflush with d := d, a := a, acc := [], accView := [], longq := [], delay := none, pcc := pcc, waiting := false, entered := none,
                  abandoned := [] }

/-- A program is abandoned with none to follow (05 R160): the runtime has the core at S, its registers cleared, and waits there
(assumption 88). -/
def CoreS.leaveU (x : CoreS) : CoreS :=
  if x.lvl != 0 then x
  else
    let y := x.enterU [] [] x.pcc Cap.null
    { (y.setPs 0 2 1).setPs 2 1 0 with pcc := y.capSys 0x106, waiting := true }

/-- A core can be given a program: it runs and is not halted. -/
def State.coreReady (s : State) (c : Nat) : Bool := (s.core c).running && !(s.core c).halted && s.dieActs (coreDie c)

/-- Wst (05 Table 5-9). -/
def State.wst (s : State) : Nat := if s.rate96 then 3494845 else 7111512

/-- The sizes of a domain's partitions on a cluster, and its share of the window (05 R160). -/
def State.partSize (s : State) (n k d : Nat) : Nat := (((s.parts n k).filter (·.1 == d)).map (·.2.2)).foldl (· + ·) 0
def State.share (s : State) (n k d : Nat) : Nat :=
  let tot := ((s.parts n k).map (·.2.2)).foldl (· + ·) 0
  if tot = 0 then 0 else s.wst * s.partSize n k d / tot

/-- The steps that the laws of the domain in progress have taken (05 R160). -/
def State.lawUsed (s : State) (n k : Nat) : Nat := ((s.core (s.lawCore n k)).sysReg 1).toNat - (s.law n k).start

/-- The partition of a domain on a cluster that its laws receive: its first one. -/
def State.partOf (s : State) (n k d : Nat) : Nat × Nat :=
  match (s.parts n k).find? (·.1 == d) with
  | some (_, f, z) => (f, z)
  | none => (0, 0)

/-- The place of a law's private area in its cluster's SRAM (05 Table 5-10). -/
def lawArea (d l : Nat) : Nat := sramPlace (16 * d + l)

/-- LAW_CALL (05 R161, Table 5-10): law `l` of domain `d`, the program `p`, for scene tick `t` on the core of cluster k. Its private area
is in the SRAM of the unit that does the work, but under a planned eclipse in the carried cluster's own (15 R445, R455). A frame still in
the buffer drains first (06 R209). -/
def State.lawEnter (s : State) (n k d l t : Nat) (p : Prog) : State :=
  let c := s.lawCore n k
  let u := s.unit n k
  if !s.coreReady c then s
  else
    match s.drain c (s.core c).pcc Cap.null false with
    | (false, s) => s
    | (true, s) =>
      let x := s.scene d
      let (p0, size) := s.partOf n k d
      let before := ((upTo l).map fun j => (x.ofLaw j).length).foldl (· + ·) 0
      let half (h : Nat) : Nat := s.clustersVa d n + u * 0x1000000 + 0x100000 + h * 0x80000 + 8 * p0
      let act := s.fld (s.clReg n k) 0 1
      let cl := 24 * n + k
      let ds := [(8, t), (9, b2n s.rate96 + 256 * k + 8192 * (n + 2)), (10, p0), (11, size), (12, (x.ofLaw l).length),
        (13, x.spk.length), (14, s.share n k d - s.lawUsed n k)]
      let as := [(0, s.domCap d (s.sceneVa d + 32 * before) (32 * (x.ofLaw l).length) 1),
        (1, s.domCap d (s.sceneVa d + scLayout) (32 * x.spk.length) 1), (2, s.domCap d (s.sceneVa d + scLaw l) 64 1),
        (3, s.domCap d (half (1 - act)) (8 * size) 3), (4, s.domCap d (half act) (8 * size) 1),
        (5, s.domCap d (s.clustersVa d n + (if (s.comet n).planned then k else u) * 0x1000000 + lawArea d l) p.area 3),
        (6, s.domCap d (s.sceneVa d + scSlots cl) 128 1)]
      s.modCore c fun y => y.enterU ds as (s.progPcc d p) (s.stubCap d)

/-- The laws of a list are called in order: the first that its domain had as the window opened runs, one that it had not fails (assumption 88). A new
domain's share starts at its first law (05 R159, R160). -/
def State.lawGo (n k : Nat) : List (Nat × Nat) → State → State
  | [], s => s.setLaw n k { s.law n k with cur := none, todo := [] }
  | (d, l) :: rest, s =>
    let w := s.law n k
    match (SMap.get (dflt []) w.progs d).find? (fun p => p.kind == 1 && p.num == l) with
    | none => State.lawGo n k rest (s.setLaw n k { w with revert := nsAdd w.revert d })
    | some p =>
      let fresh := match w.cur with | some (d', _) => d' != d | none => true
      let start := if fresh then ((s.core (s.lawCore n k)).sysReg 1).toNat else w.start
      (s.setLaw n k { w with cur := some (d, l), todo := rest, start := start }).lawEnter n k d l w.tick p

/-- The next law of the window. -/
def State.lawNext (s : State) (n k : Nat) : State := State.lawGo n k (s.law n k).todo s

/-- The core of a cluster is taken from a law that does not return, where none follows. -/
def State.lawStop (s : State) (n k : Nat) : State :=
  let c := s.lawCore n k
  if (s.law n k).cur.isSome ∨ !s.coreReady c then s else s.modCore c CoreS.leaveU

/-- Domains that hold a partition of a cluster, ascending. -/
def State.partDoms (s : State) (n k : Nat) : List Nat := (s.parts n k).foldl (fun l p => nsAdd l p.1) []

/-- The law window of tick `t` opens on a cluster (05 R158, R159): the core clears its data cache over the scene stores. -/
def State.lawOpen (s : State) (n k t : Nat) : State :=
  let s := if s.shst n k = 2 then s.cancel n k else s
  let doms := s.partDoms n k
  let s := doms.foldl (fun s d => s.evictRange (s.lawCore n k) (s.sceneMem d) 0x80000) s
  let called := doms.filter fun d => (s.scene d).tick == some t
  let w := s.law n k
  if w.barred then s.setLaw n k { w with opened := true, tick := t, cur := none, todo := [], revert := doms }
  else
    let todo := called.flatMap fun d => (s.scene d).lawsUsed.map fun l => (d, l)
    (s.setLaw n k { w with opened := true, tick := t, cur := none, todo := todo, progs := s.progs,
                           revert := doms.filter fun d => !called.contains d }).lawNext n k

/-! ### The vet (05 R163) -/

/-- An entry of a domain's partition passes the vet. -/
def State.vetOk (s : State) (n k d e : Nat) : Bool :=
  peInterp e != 3 && decide (peSrc e < s.nSlots) && s.srcOwner (peSrc e) == d && decide (peOut e < s.nOut) &&
    s.fld (s.clReg n k + 0x2000 + 0x80 * peOut e) 28 4 == d && decide (peDelay e ≤ (s.depth - 64) * 1024)

/-- An entry that fails is rewritten with V = 0 and recorded. -/
def State.vetOne (s : State) (n k d base i : Nat) : State :=
  let e := s.entry base i
  if s.vetOk n k d e then s
  else
    let s := (s.runtimePut (base + 8 * i) (natLE 8 (e % 2 ^ 63))).trouble (40 + d / 8) (d % 8)
    let cnt := s.dNat (dKey (0x3100 + d) 6)
    let s := if cnt = 0 then s.dSet (dKey (0x3100 + d) 5) (natLE 4 i) else s
    s.dSet (dKey (0x3100 + d) 6) (natLE 4 (min (2 ^ 32 - 1) (cnt + 1)))

/-- The vet of a domain's partition: what the core's data cache holds of it is written back first. A share that has not eight steps
left for each index is spent before the vet ends, and the partition is noted for a revert (05 Table 5-9, R160; DEDUCED, assumption 88). -/
def State.vet (s : State) (n k d : Nat) : State :=
  if s.share n k d < s.lawUsed n k + 8 * s.partSize n k d then
    s.setLaw n k { s.law n k with revert := nsAdd (s.law n k).revert d }
  else
    let base := s.shadowBase n k
    let s := s.evictRange (s.lawCore n k) base 0x80000
    let mine (i : Nat) : Bool := (s.parts n k).any fun p => p.1 == d && decide (p.2.1 ≤ i) && decide (i < p.2.1 + p.2.2)
    ((s.validIdx base).filter mine).foldl (fun s i => s.vetOne n k d base i) s

/-- The law in progress has ended, well or not (05 R162, R163): the next law is called; after a domain's last law its partition is
vetted or noted for a revert. -/
def State.lawEnded (s : State) (n k : Nat) (ok : Bool) : State :=
  let w := s.law n k
  match w.cur with
  | none => s
  | some (d, _) =>
    let w := if ok then w else { w with revert := nsAdd w.revert d }
    let s := s.setLaw n k w
    let last := w.todo.all fun p => p.1 != d
    let s := if last && !w.revert.contains d then s.vet n k d else s
    s.lawNext n k

/-- LAW_SHARE_EXPIRY (05 R160): the domain's share is spent; the running law is abandoned, and with it the rest of its domain's laws. -/
def execLawShareExpiry (d : Fin 6) (k : Fin 25) (s : State) : Host.Outcome State Fault Refusal :=
  let n := d.val
  let k := s.clOf d k
  let w := s.law n k
  match w.cur with
  | none => .next s
  | some (dom, _) =>
    if s.lawUsed n k < s.share n k dom then .next s
    else .next (((s.setLaw n k { w with revert := nsAdd w.revert dom, todo := w.todo.filter fun p => p.1 != dom }).lawNext n k).lawStop n k)

/-! ### The close point (05 R164) -/

/-- The DMA engine of a die that copies partitions at the close point, as a master: engine 0, in the runtime's name. The channel, its
class and what it meets at the gates are the model's choice (05 R164; DESIGN CHOICE, assumption 104). -/
def closeEng (n : Nat) : Nat := 2 * n + 2
def closeAttr (n : Nat) : Attr := ⟨chanMid (closeEng n) 15, 0, 2, 4⟩

/-- A partition's range of the active half copied over the shadow half by the die's DMA engine (05 R164). Pieces that a gate denies are not
made, nor are words that cannot be read, and the engine's trouble bit is set (09 Table 9-10, 01 R17). -/
def State.revertPart (s : State) (n k : Nat) (p : Nat × Nat × Nat) : State :=
  let src := s.activeBase n k + 8 * p.2.1
  let dst := s.shadowBase n k + 8 * p.2.1
  let len := 8 * p.2.2
  let trouble (s : State) : State := s.troubleDie (n + 2) 7
  let ue := s.badWords [(src, len)]
  let s := ue.foldl (fun s a => trouble (s.ueMet a)) s
  let (noR, s) := s.engLost (closeAttr n) [(src, len)] trouble
  let (noW, s) := s.engPut (closeAttr n) [(dst, len)] trouble
  let s := s.count (n + 2) 36 6 3 p.2.2 ⟨some (chanMid (closeEng n) 15), some 2, none⟩
  let free (i : Nat) : Bool := !nsMem noR ((src + 8 * i) / 256) && !nsMem noW ((dst + 8 * i) / 256) && !ue.contains (src + 8 * i)
  let inR (b a : Nat) : Bool := decide (b ≤ a) && decide (a < b + len)
  let z := { s with mem := s.mem.filter fun c => !(inR dst c.1 && free ((c.1 - dst) / 8)) }
  let all := ((s.mem.filter fun c => inR src c.1).map fun c => (c.1 - src) / 8).foldl nsAdd []
  (all.filter free).foldl (fun z i => z.poke (dst + 8 * i) (natLE 8 (s.entry src i))) z

/-- The close point of tick `t` on a cluster: laws still running are abandoned, what the core's data cache holds of the halves leaves
it, partitions are reverted and MARK is written. A cluster whose window did not open reverts every partition. -/
def State.lawClose (s : State) (n k t : Nat) : State :=
  let w := s.law n k
  let doms := s.partDoms n k
  let rev := if w.opened && w.tick == t then
      (match w.cur with | some (d, _) => [d] | none => []) ++ w.todo.map (·.1) ++ w.revert
    else doms
  let s := if w.cur.isSome then (s.setLaw n k LawS.reset).lawStop n k else s.setLaw n k LawS.reset
  let s := s.evictRange (s.lawCore n k) (min (s.activeBase n k) (s.shadowBase n k)) 0x100000
  let s := if s.shst n k = 0 then
      ((s.parts n k).filter fun p => rev.contains p.1).foldl (fun s p => s.revertPart n k p) s
    else s
  s.mark n k

/-! ### Checked pairs (05 R173-R178, 15 R449) -/

def State.pairOf (s : State) (n p : Nat) : PairS := SMap.get (dflt PairS.reset) s.pairS (6 * n + p)
def State.setPair (s : State) (n p : Nat) (x : PairS) : State := { s with pairS := SMap.set (dflt PairS.reset) s.pairS (6 * n + p) x }

/-- The pair that processes a source: moved after a die loss, else SPAIR; none where no pair was found (05 R173, 15 R453). -/
def State.srcPairOf (s : State) (slot : Nat) : Option Nat :=
  let m := SMap.get (dflt 0) s.srcPair slot
  if m = 0 then some (s.srcNat 4 slot) else if 36 < m then none else some (m - 1)

/-- The sources that a pair processes, in its processing order, which is ascending (05 R174; DESIGN CHOICE, assumption 88). -/
def State.pairSlots (s : State) (q : Nat) : List Nat := s.slotsUsed.filter fun t => s.srcPairOf t == some q

/-- Core numbers of a pair's cores. -/
def pairCore (n p : Nat) (b : Bool) : Nat := coreOf (n + 2) (25 + 2 * p + b2n b)

/-- An outcome that sets PSTICKY bits (05 R178): PREC names the first since all were 0 and counts. -/
def State.psticky (s : State) (n p slot bits : Nat) : State :=
  if bits = 0 then s
  else
    let a := spRegBase (n + 2) p
    let s := if s.fld (a + 0x10) 0 5 = 0 then s.setRg (a + 0x18) (BitVec.ofNat 64 slot) else s
    ((s.addSat (a + 0x18) 32 16 1).setFld (a + 0x10) 0 5 (s.fld (a + 0x10) 0 5 ||| bits)).troublePair (n + 2) p

/-- The outcome of two submissions (05 Table 5-11): the core chosen (false A, true B; none for a block not used), and the sticky
bits. -/
def compareBoth (a b : Submit) : Option Bool × Nat :=
  if a.crc = b.crc then
    (some (a.errf && !b.errf), (if a.errf then 2 else 0) + (if b.errf then 4 else 0))
  else if a.errf then (if b.errf then (none, 8) else (some true, 2))
  else if b.errf then (some false, 4)
  else (some false, 1)

/-- The outcome for a slot: `a`, `b` the submissions; a core that has not submitted counts as flagged; a retired core, and one
taken out for an update, leaves its pair to the other (05 R177, 15 R449, R454). -/
def PairS.outcome (x : PairS) (a b : Option Submit) : Option Bool × Nat :=
  let ra := x.retA || x.outA
  let rb := x.retB || x.outB
  if ra && rb then (none, 0)
  else if ra then
    (match b with | none => (none, 16) | some v => if v.errf then (none, 4) else (some true, 0))
  else if rb then
    (match a with | none => (none, 16) | some v => if v.errf then (none, 2) else (some false, 0))
  else
    match a, b with
    | some u, some v => compareBoth u v
    | some u, none => if u.errf then (none, 8 + 16) else (some false, 4 + 16)
    | none, some v => if v.errf then (none, 8 + 16) else (some true, 2 + 16)
    | none, none => (none, 8 + 16)

/-! #### The areas of a pair's SRAM (05 R174; assumption 25) -/

def pairSram (n p : Nat) : Nat := dieBase (n + 2) + 0x200000000 + p * 0x1000000

/-- Offsets of a source's sample block and send area for one core, of its parameter area, and of a program's state area. A send area is
sixteen words for each of eight targets (assumption 86). -/
def strmBlk (slot : Nat) (b : Bool) : Nat := sramPlace (512 + 2 * slot + b2n b)
def strmSend (slot : Nat) (b : Bool) : Nat := sramPlace (0x6000 + 2 * slot + b2n b)
def strmParam (slot : Nat) : Nat := sramPlace (0x4000 + slot)
def strmArea (slot num : Nat) (b : Bool) : Nat := sramPlace (0x100000 + (65536 * slot + num) * 2 + b2n b)

def State.strmOf (s : State) (c : Nat) : StrmS := SMap.get (dflt StrmS.reset) s.strm c
def State.setStrm (s : State) (c : Nat) (x : StrmS) : State := { s with strm := SMap.set (dflt StrmS.reset) s.strm c x }

/-- A source's programs in order: those configured that its owner domain has loaded. -/
def State.slotProgs (s : State) (slot : Nat) : List Nat :=
  ((upTo 4).map fun i => bitsOf (s.fNat (famKey (srcBase 6) slot)) (16 * i) 16).filter fun v => v != 0 && s.loaded (s.srcOwner slot) 2 v

/-- The programs of a source as loaded now, in its order (16 R476). -/
def State.slotLoaded (s : State) (slot : Nat) : List (Nat × Prog) :=
  (s.slotProgs slot).filterMap fun v =>
    ((SMap.get (dflt []) s.progs (s.srcOwner slot)).find? fun p => p.kind == 2 && p.num == v).map fun p => (slot, p)

/-- 32-bit words that the runtime of a core reads from `a` on; words that cannot be had set the core's error flag and are free. -/
def State.coreWords (s : State) (c a n : Nat) : List Nat × State :=
  (cutLines a (4 * n)).foldl (fun (p : List Nat × State) q =>
    match p.2.coreLine c q.1 q.2 with
    | (some bs, s) => (p.1 ++ (upTo (q.2 / 4)).map fun i => fieldAt bs (4 * i) 4, s)
    | (none, s) =>
      let s := s.markErr c
      (p.1 ++ (upTo (q.2 / 4)).map fun i => (Config.freeWord (s.fresh + i)).toNat % 2 ^ 32, { s with fresh := s.fresh + 16 })) ([], s)

/-! #### Resolving a source block (05 R177) -/

/-- The sends of a block added into the sums of their buses, which are the input of the next block (05 R175). -/
def State.addSends (s : State) (slot blk : Nat) (ws : List Nat) : State :=
  (upTo 8).foldl (fun s j =>
    let t := Config.sendTarget slot j
    if !s.isBus t || ws.isEmpty then s
    else
      let key := 2048 * (blk + 1) + t
      let old := SMap.get (dflt []) s.busSums key
      let sum := (upTo 16).map fun i => (old.getD i 0 + ws.getD (16 * j + i) 0) % 2 ^ 32
      { s with busSums := SMap.set (dflt []) s.busSums key sum }) s

/-- The state areas of a source's programs on the chosen core copied over the other's: the chosen core's lines are written back
first, and the other's leave its cache (05 R177). -/
def State.copyAreas (s : State) (n p slot : Nat) (b : Bool) : State :=
  ((s.pairOf n p).inForce.filter (·.1 == slot)).foldl (fun s v =>
    let len := v.2.area
    let src := pairSram n p + strmArea slot v.2.num b
    let dst := pairSram n p + strmArea slot v.2.num (!b)
    let s := s.evictRange (pairCore n p b) src len
    let s := s.runtimePut dst (s.peek src len)
    s.modCore (pairCore n p (!b)) fun x => (cutLines dst len).foldl (fun x q => x.dropLine q.1) x) s

/-- A slot is resolved (05 R177): sticky bits, the flagged cores, the block passed to the writer and the sends to the buses; after any
outcome but agreement the chosen core's state areas are copied over the other's. -/
def State.resolve (s : State) (n p slot : Nat) : State :=
  let x := s.pairOf n p
  if x.resolved.contains slot then s
  else
    let a := SMap.get (dflt none) x.subA slot
    let b := SMap.get (dflt none) x.subB slot
    let (w, bits) := x.outcome a b
    let used : Option Submit := w.bind fun core => if core then b else a
    let fa := bitOf bits 1 || (a.isNone && !(x.retA || x.outA))
    let fb := bitOf bits 2 || (b.isNone && !(x.retB || x.outB))
    let s := s.setPair n p { x with resolved := nsAdd x.resolved slot, flagA := x.flagA || fa, flagB := x.flagB || fb,
                                    passed := SMap.set (dflt none) x.passed slot (used.map fun v => (x.blk, v.out)) }
    let s := match used with
      | some v => s.addSends slot x.blk v.sends
      | none => s
    let s := match w with
      | some core => if bits = 0 ∧ a.isSome ∧ b.isSome then s else s.copyAreas n p slot core
      | none => s
    s.psticky n p slot bits

/-- A core's processed block of a source and its send words, sat24 formed of each output word (05 R174, R176); a bus sends nothing. -/
def State.strmResult (s : State) (n p slot : Nat) (b : Bool) : (List Int × List Nat) × State :=
  let c := pairCore n p b
  let (ws, s) := s.coreWords c (pairSram n p + strmBlk slot b) 16
  let (sends, s) := if s.isBus slot then ([], s) else s.coreWords c (pairSram n p + strmSend slot b) 128
  ((ws.map fun w => satI 24 (signed 32 w), sends), s)

/-- The words of an output block as a command carries them. -/
def blockOf (v : BitVec 384) : List Int := (upTo 16).map fun i => signed 24 (bitsOf v.toNat (24 * i) 24)

/-- The CRC-32C over a core's output and send words, in order (05 R176). -/
def resultCrc (out : List Int) (sends : List Nat) : Nat :=
  crc32c ((out.flatMap fun v => natLE 4 (unsigned 32 v)) ++ sends.flatMap (natLE 4))

/-- A submission of a core; its error flag then starts anew (05 R176). -/
def State.submit (s : State) (n p slot : Nat) (b : Bool) (u : Submit) : State :=
  let c := pairCore n p b
  let s := s.setStrm c { s.strmOf c with err := false }
  let x := s.pairOf n p
  s.setPair n p (if b then { x with subB := SMap.set (dflt none) x.subB slot (some u) }
    else { x with subA := SMap.set (dflt none) x.subA slot (some u) })

/-- A core still has programs of a source to run. -/
def State.strmBusy (s : State) (c slot : Nat) : Bool :=
  let x := s.strmOf c
  (match x.cur with | some (t, _) => t == slot | none => false) || x.todo.any fun q => q.1 == slot

/-- COMPARE_SUBMIT (05 R176): a core in service has processed a source of its pair and submits. Without an error the block is the one
that its programs left, and the CRC that of its words; `errf` is 1 wherever the state shows an error, and for those that it does not
show, a residue error and the watchdog (assumption 44). -/
def execCompareSubmit (d p : Fin 6) (coreB : Bool) (slot : BitVec 11) (crc : BitVec 32) (errf : Bool) (out : BitVec 384) (s : State) :
    Host.Outcome State Fault Refusal :=
  let n := d.val
  let x := s.pairOf n p.val
  let c := pairCore n p.val coreB
  let gone := if coreB then x.retB || x.outB else x.retA || x.outA
  if s.live && !gone && s.coreReady c && (s.pairSlots (6 * n + p.val)).contains slot.toNat && !s.strmBusy c slot.toNat then
    let ((o, sends), t) := s.strmResult n p.val slot.toNat coreB
    let agrees := errf || (!(t.strmOf c).err && decide (blockOf out = o) && decide (crc.toNat = resultCrc o sends))
    .next (if agrees then t.submit n p.val slot.toNat coreB ⟨crc.toNat, errf, blockOf out, sends⟩ else s)
  else .next s

/-- A write of PSUBA or PSUBB by the pair's core, with the CRC and the slot that it names (05 Table 5-12). -/
def State.psubWrite (s : State) (n p : Nat) (coreB : Bool) (v : Word) : State :=
  let slot := getBits v 32 11
  let ((out, sends), s) := s.strmResult n p slot coreB
  s.submit n p slot coreB ⟨getBits v 0 32, (s.strmOf (pairCore n p coreB)).err, out, sends⟩

/-- The next source of a pair to be resolved: the first in its processing order that is not (05 R178). -/
def State.pairTurn (s : State) (n p : Nat) : Option Nat :=
  (s.pairSlots (6 * n + p)).find? fun t => !(s.pairOf n p).resolved.contains t

/-- COMPARE_RESOLVE (05 R177, R178): once the cores in service have submitted, and in the pair's order. -/
def execCompareResolve (d p : Fin 6) (slot : BitVec 11) (s : State) : Host.Outcome State Fault Refusal :=
  let x := s.pairOf d.val p.val
  let a := SMap.get (dflt none) x.subA slot.toNat
  let b := SMap.get (dflt none) x.subB slot.toNat
  if s.live && s.dieActs (d.val + 2) && (a.isSome || x.retA || x.outA) && (b.isSome || x.retB || x.outB) &&
      (a.isSome || b.isSome) && s.pairTurn d.val p.val == some slot.toNat then .next (s.resolve d.val p.val slot.toNat)
  else .next s

/-- COMPARE_DEADLINE (05 R177): every source of the pair that is not resolved is resolved, cores that have not submitted counting
as flagged. -/
def execCompareDeadline (d p : Fin 6) (s : State) : Host.Outcome State Fault Refusal :=
  if s.live && s.dieActs (d.val + 2) then
    .next ((s.pairSlots (6 * d.val + p.val)).foldl (fun s t => s.resolve d.val p.val t) s)
  else .next s

/-- The samples of a source block that its pair passed to the broadcast writer (05 R177). -/
def State.passedBlock (s : State) (slot blk : Nat) : Option (List Int) :=
  match s.srcPairOf slot with
  | some q => ((SMap.get (dflt none) (s.pairOf (q / 6) (q % 6)).passed slot).filter fun v => v.1 == blk).map (·.2)
  | none => none

/-- BROADCAST_WRITE (02 R52, 03 R80; 05 R177): the samples of a source block that its pair passed arrive at a die's window writer. A
block that the writer has already filled takes no more. -/
def execBroadcastWrite (d : Fin 6) (slot : BitVec 11) (blk : BitVec 52) (samples : BitVec 384) (s : State) :
    Host.Outcome State Fault Refusal :=
  let n := d.val
  match s.passedBlock slot.toNat blk.toNat with
  | none => .next s
  | some vs =>
    if decide (vs = blockOf samples) && s.live && s.dieActs (n + 2) && decide (slot.toNat < s.nSlots) && decide (SMap.get (dflt 0) s.concealed n ≤ blk.toNat) then
      let s := s.winBlock n slot.toNat blk.toNat vs
      .next { s with written := SMap.set (dflt []) s.written n (nsAdd (SMap.get (dflt []) s.written n) (blk.toNat * 2048 + slot.toNat)) }
    else .next s

/-- A stream core is retired (15 R449): its pair's trouble bit is set; with its partner retired the pair is lost. -/
def State.retireCore (s : State) (n p : Nat) (b : Bool) : State :=
  let x := s.pairOf n p
  if if b then x.retB else x.retA then s
  else (s.setPair n p (if b then { x with retB := true } else { x with retA := true })).troublePair (n + 2) p |>.degrade

/-- The end of a block at a pair: flagged blocks in a row, retirement at eight, and submissions dropped. -/
def State.pairBlock (s : State) (n p : Nat) : State :=
  let x := s.pairOf n p
  let ra := if x.flagA then x.rowA + 1 else 0
  let rb := if x.flagB then x.rowB + 1 else 0
  let s := s.setPair n p { x with subA := [], subB := [], resolved := [], flagA := false, flagB := false, rowA := ra, rowB := rb }
  let s := if 8 ≤ ra then s.retireCore n p false else s
  if 8 ≤ rb then s.retireCore n p true else s

/-! ### Stream programs (05 R174, 02 R57) -/

/-- The steps a core has run since its program was entered. -/
def State.strmSteps (s : State) (c : Nat) : Nat :=
  let x := s.strmOf c
  x.used + (if x.cur.isSome then ((s.core c).sysReg 1).toNat - x.start else 0)

/-- A source's block of input in the SRAM of a pair for one of its cores, as sixteen words, and a send area of zeros (05 R174). -/
def State.strmLoad (s : State) (n p slot : Nat) (b : Bool) : State :=
  let blk := (s.srcInOf slot).block
  let a := pairSram n p + strmBlk slot b
  let e := pairSram n p + strmSend slot b
  let s := s.runtimePut a ((upTo 16).flatMap fun i => natLE 4 (unsigned 32 (blk.getD i 0)))
  let s := s.runtimePut e (zeros 512)
  s.modCore (pairCore n p b) fun x => (cutLines a 64 ++ cutLines e 512).foldl (fun x q => x.dropLine q.1) x

/-- A stream program is entered on a core with the registers of R174. -/
def State.strmEnter (s : State) (n p c slot num : Nat) (blk : Nat) : State :=
  let d := s.srcOwner slot
  match (s.pairOf n p).inForce.find? (fun q => q.1 == slot && q.2.num == num) with
  | none => s
  | some (_, q) =>
    if !s.coreReady c then s
    else
      match s.drain c (s.core c).pcc Cap.null false with
      | (false, s) => s
      | (true, s) =>
        let va := s.pairsVa d n + p * 0x1000000
        let b := c == pairCore n p true
        let ds := [(8, slot), (9, 16 * blk)]
        let len := (Config.place (0x8000 + num)) % 0x10000
        let as := [(0, s.domCap d (va + strmBlk slot b) 64 3), (1, s.domCap d (va + strmArea slot num b) q.area 3),
          (2, s.domCap d (va + strmParam slot) len 1), (3, s.domCap d (va + strmSend slot b) (if s.isBus slot then 0 else 512) 3)]
        s.modCore c fun y => y.enterU ds as (s.progPcc d q) (s.stubCap d)

/-- The next stream program of a core. -/
def State.strmNext (s : State) (n p c : Nat) : State :=
  let x := s.strmOf c
  let used := s.strmSteps c
  match x.todo with
  | [] => s.setStrm c { x with cur := none, used := used }
  | (slot, num) :: rest =>
    let s := s.setStrm c ⟨some (slot, num), rest, ((s.core c).sysReg 1).toNat, used, x.err⟩
    s.strmEnter n p c slot num (s.pairOf n p).blk

/-- The steps of a block that a pair's programs may take (02 R57). -/
def State.strmLimit (s : State) : Nat := if s.rate96 then 58275 else 116550

/-- A changed or new program of a pair starts with its state areas zeroed (16 R476). -/
def State.zeroArea (s : State) (n p : Nat) (v : Nat × Prog) : State :=
  [false, true].foldl (fun s b => s.zeroRange (pairCore n p b) (pairSram n p + strmArea v.1 v.2.num b) v.2.area) s

/-- A block starts at a pair: the steps of the block before are held against R57's limit, the programs loaded now come into force, each
core in service gets the input of the pair's sources, and their programs begin. -/
def State.strmBlock (s : State) (n p : Nat) : State :=
  let lim := s.strmLimit
  let q := 6 * n + p
  let spent := (upTo 2).foldl (fun v b => max v (s.strmSteps (pairCore n p (b == 1)))) 0
  let s := if lim < spent then s.trouble (29 + q / 8) (q % 8) else s
  let slots := s.pairSlots q
  let now := slots.flatMap s.slotLoaded
  let todo := now.map fun v => (v.1, v.2.num)
  let old := (s.pairOf n p).inForce
  let s := (now.filter fun v => !old.contains v).foldl (fun s v => s.zeroArea n p v) s
  let x := { s.pairOf n p with blk := (s.die (n + 2)).tide / 16 - 1, spent := spent, inForce := now }
  [false, true].foldl (fun s b =>
    let c := pairCore n p b
    let s := s.setStrm c StrmS.reset
    if (if b then x.retB || x.outB else x.retA || x.outA) then s
    else
      let s := slots.foldl (fun s t => s.strmLoad n p t b) s
      if todo.isEmpty then s else (s.setStrm c ⟨none, todo, 0, 0, false⟩).strmNext n p c) (s.setPair n p x)

/-- A core runs a law or a stream program of a host domain. -/
def State.inProgram (s : State) (c : Nat) : Bool :=
  if coreKind c = 3 then false
  else if coreKind c = 2 then (s.strmOf c).cur.isSome
  else (s.law (coreDie c - 2) (s.workOf (coreDie c - 2) (coreLocal c))).cur.isSome

/-- The program of a core has faulted: a law is noted for a revert and the next one called; a stream program makes no submission in
this block (05 R162; assumption 46). -/
def State.programFault (s : State) (c : Nat) : State :=
  let n := coreDie c - 2
  if coreKind c < 2 then s.lawEnded n (s.workOf n (coreLocal c)) false else s

/-- TRAP 0x7F01 at U on a core: the return of a law or of a stream program (05 R161, R174). -/
def State.programReturn (s : State) (c : Nat) : State :=
  let n := coreDie c - 2
  let r := coreLocal c
  let d8 := (SMap.get (dflt 0) (s.core c).d 8).toNat
  if coreKind c = 3 then s
  else if coreKind c = 2 then s.strmNext n ((r - 25) / 2) c
  else s.lawEnded n (s.workOf n r) (d8 == 0)

end Sys2Proof.Machine
end

