-- ==== Sys2Proof/Machine/Trust.lean ====
section
/-! DEFINITION. The trouble record, OTP, images and their verification, measurement and attestation, and service sessions
(15 R458, R459; 16 R465-R475, R479; 14 R431-R433). -/

namespace Sys2Proof.Machine
open Sys2Proof

/-! ### The trouble record (15 R458, R459) -/

/-- Both hubs' copies are written together: the authoritative one, and the other that follows it. -/
def State.trCopy (s : State) (f : Nat → State → State) : State := f 1 (f 0 s)

/-- A set reaches the authoritative copy. -/
def State.trSet (s : State) (m : TroubleMsg) : State :=
  let empty := s.trBits m.group == 0
  s.trCopy fun h s =>
    let a := hubReg h 6
    let s := if empty then s.setRg (a + 0x600 + 8 * m.group) (BitVec.ofNat 64 (m.stamp % 2 ^ 63 + 2 ^ 63)) else s
    s.setBit (a + 0x400 + 8 * m.group) m.bit true

/-- Bits of a group are cleared; an empty group has no valid first stamp. -/
def State.trClear (s : State) (g v : Nat) : State :=
  let left := s.trBits g &&& (255 - v % 256)
  s.trCopy fun h s =>
    let a := hubReg h 6
    let s := s.setFld (a + 0x400 + 8 * g) 0 8 left
    if left = 0 then s.setBit (a + 0x600 + 8 * g) 63 false else s

/-- TROUBLE_SET (15 R459): the oldest set on its way reaches the record. -/
def execTroubleSet (s : State) : Host.Outcome State Fault Refusal :=
  match s.troubles with
  | [] => .next s
  | m :: ms => .next ({ s with troubles := ms }.trSet m)

/-- TRBITS_CLEAR (15 R459): a W1C write to TRBITS of the authoritative copy. -/
def execTrbitsClear (g : Fin 64) (v : Byte) (s : State) : Host.Outcome State Fault Refusal :=
  .next (s.trClear g.val v.toNat)

/-! ### OTP (16 R465, R479) -/

/-- A fuse word of a hub, and of both hubs together. -/
def State.fuse (s : State) (h i : Nat) : Word := SMap.get (dflt 0) s.fuses (64 * h + i)
def State.orFuse (s : State) (i : Nat) : Word := s.fuse 0 i ||| s.fuse 1 i

/-- The eight words of a key differ between the hubs; a key slot is blank. -/
def State.keyDiffers (s : State) (i : Nat) : Bool := (upTo 8).any fun w => s.fuse 0 (i + w) != s.fuse 1 (i + w)
def State.slotBlank (s : State) (k : Nat) : Bool := (upTo 8).all fun w => s.orFuse (5 + 8 * k + w) == 0

/-- LC as it reads: 3 reads as 2. -/
def State.lcFuse (s : State) : Nat := min 2 (getBits (s.orFuse 0) 0 2)

/-- The OTP registers of a hub as the fuses give them; `diff` and `mism` were found at power-up. -/
def State.otpHub (s : State) (diff : Nat) (mism : Bool) (h : Nat) : State :=
  let a := hubReg h 11
  let blank := (upTo 4).foldl (fun n k => if s.slotBlank k then n + 2 ^ k else n) 0
  let s := s.setRg a (BitVec.ofNat 64 (s.lcFuse + 4 * b2n mism))
  let s := s.setRg (a + 8) (BitVec.ofNat 64 (getBits (s.orFuse 1) 0 4 + 16 * blank + 256 * diff))
  let s := ((s.setRg (a + 0x10) (s.orFuse 2)).setRg (a + 0x18) (s.fuse h 3)).setRg (a + 0x20) (putBits 0 0 48 (getBits (s.fuse h 4) 0 48))
  (upTo 48).foldl (fun s j => s.setRg (a + 0x100 + 8 * j) (s.fuse h (5 + j))) s

/-- The registers of both hubs after a burn. -/
def State.otpShow (s : State) : State :=
  let a := hubReg s.active 11
  let diff := s.fld (a + 8) 8 4
  let mism := s.bit a 2
  (s.otpHub diff mism 0).otpHub diff mism 1

/-- The boot ROM reads OTP at power-up (16 R465). -/
def State.otpBoot (s : State) : State :=
  let diff := (upTo 4).foldl (fun n k => if s.keyDiffers (5 + 8 * k) then n + 2 ^ k else n) 0
  let mism := (upTo 53).any fun i => s.fuse 0 i != s.fuse 1 i
  let s := { s with lifecycle := s.lcFuse }
  (s.otpHub diff mism 0).otpHub diff mism 1

/-- A burn sets fuses on both hubs; one that is fenced takes none. -/
def State.burn (s : State) (i : Nat) (v : Word) : State :=
  let one (s : State) (h : Nat) : State :=
    if nsMem s.fenced h then s else { s with fuses := SMap.set (dflt 0) s.fuses (64 * h + i) (s.fuse h i ||| v) }
  (one (one s 0) 1).otpShow

/-- A key slot qualifies in the lifecycle state (16 R468 code 5, Table 16-5). -/
def State.slotOk (s : State) (k : Nat) : Bool :=
  let v := s.rg (hubReg s.active 11 + 8)
  decide (k < 4) && !bitOf v.toNat k && !bitOf v.toNat (4 + k) && !bitOf v.toNat (8 + k) && (s.lifecycle != 2 || decide (k < 2))

/-- A key slot's hash. -/
def State.slotHash (s : State) (k : Nat) : Nat :=
  (upTo 8).foldl (fun n w => n + (s.rg (hubReg s.active 11 + 0x100 + 0x40 * k + 8 * w)).toNat * 2 ^ (64 * w)) 0

/-- SHA-512 of bytes as a number, first byte lowest. -/
def sha (bs : List Byte) : Nat := (Config.sha512 bs).toNat

/-- The slot that a public key's hash matches. -/
def State.keySlot (s : State) (h : Nat) : Option Nat := (upTo 4).find? fun k => s.slotOk k && s.slotHash k == h

/-! ### Measurement (16 R473-R475) -/

/-- The device timescale in a record: 0 before tide valid. -/
def State.measureTime (s : State) : Nat := if (s.die s.active).tideValid then s.nowNs else 0

/-- A record is appended, or dropped with OVF when the log is full (16 R473). -/
def State.measure (s : State) (ty dom slot hash : Nat) : State :=
  if 4096 ≤ s.mlog.length then { s with mlogOvf := true }
  else { s with mlog := s.mlog ++ [⟨ty, dom, slot, s.measureTime, BitVec.ofNat 512 hash⟩], fresh := s.fresh + 1 }

/-- A record's 80 bytes (16 Table 16-7). -/
def MRec.bytes (r : MRec) (seq : Nat) : List Byte :=
  natLE 2 r.ty ++ natLE 1 r.dom ++ natLE 1 r.slot ++ natLE 4 seq ++ natLE 8 r.time ++ natLE 64 r.hash.toNat

/-- The signed log (16 Table 16-8). -/
def State.signedLog (s : State) (dom : Nat) (nonce : List Byte) : List Byte :=
  let rs := (s.mlog.zip (upTo s.mlog.length)).filter fun p => p.1.dom = 0 ∨ p.1.dom = dom
  let body := natLE 4 0x54415842 ++ natLE 4 rs.length ++
    natLE 4 (b2n s.mlogOvf + 2 * s.lifecycle + 8 * b2n s.dbgUnlock) ++ natLE 4 dom ++ nonce ++ idKey ++
    natLE 8 (s.rg (hubReg s.active 11 + 0x18)).toNat ++ rs.flatMap fun p => p.1.bytes p.2
  body ++ natLE 64 (Config.edSign idSeed (natLE 64 (sha body))).toNat

/-- An attestation request of a domain (16 R475, Table 16-5): the code and the part from the offset. -/
def State.attest (s : State) (dom nonce off : Nat) : (Nat × List Byte) × State :=
  if s.lifecycle = 2 then ((abGeneral, []), s)
  else if off = 0 then
    let l := s.signedLog dom (natLE 32 nonce)
    ((0, l.take 4088), { s with attSnap := some (nonce, l) })
  else
    match s.attSnap with
    | some (n, l) => if n = nonce then ((0, (l.drop off).take 4088), s) else ((abGeneral, []), s)
    | none => ((abGeneral, []), s)

/-! ### Images (16 R466-R468, R478) -/

/-- The staging area of an image (16 R467). -/
def imgBase : Nat := 0x100000000

/-- A field of an image's bytes. -/
def imgNat (bs : List Byte) (o n : Nat) : Nat := leNat ((bs.drop o).take n)

/-- The segments of an image: offset, size, destination. -/
def imgSegs (bs : List Byte) : List (Nat × Nat × Nat) :=
  (upTo (min 12 (imgNat bs 0x16 2))).map fun n =>
    (imgNat bs (0x40 + 16 * n) 4, imgNat bs (0x44 + 16 * n) 4, imgNat bs (0x48 + 16 * n) 8)

/-- Code 4 of 16 R468: the header and the segments are correct. -/
def imgHeaderOk (bs : List Byte) : Bool :=
  let segs := imgSegs bs
  let nseg := imgNat bs 0x16 2
  let len := imgNat bs 8 8
  let entries := (upTo 4).map fun i => imgNat bs (0x18 + 8 * i) 8
  imgNat bs 0 4 == 0x4D495842 && imgNat bs 4 2 == 1 && imgNat bs 6 2 == 1 && decide (1 ≤ nseg) && decide (nseg ≤ 12) &&
    imgNat bs 0x38 8 == 0 && imgNat bs (0x40 + 16 * nseg) (0xC0 - 16 * nseg) == 0 && imgNat bs (len - 32) 32 == 0 &&
    decide (imgNat bs 0x14 2 ≤ 64) &&
    (segs.all fun g => decide (256 ≤ g.1) && decide (g.1 + g.2.1 ≤ len - 128) && decide (g.2.2 + g.2.1 ≤ 0x40000000)) &&
    ((upTo segs.length).all fun i => (upTo i).all fun j =>
      let a := segs.getD i (0, 0, 0)
      let b := segs.getD j (0, 0, 0)
      !rangesMeet a.2.2 a.2.1 b.2.2 b.2.1) &&
    entries.all fun e => segs.any fun g => decide (g.2.2 ≤ e) && decide (e < g.2.2 + g.2.1)

/-- The checks of an image in order: the IMGSTAT code, and what is kept of an image that passes (16 R468). -/
def State.verify (s : State) (bs : List Byte) : Nat × RunImg :=
  let len := imgNat bs 8 8
  let r : RunImg := ⟨imgNat bs 0x10 4, imgNat bs 0x14 2, 0, (upTo 4).map fun i => imgNat bs (0x18 + 8 * i) 8⟩
  let key := (bs.drop (len - 128)).take 32
  if bs.length ≠ len ∨ len < 384 ∨ 0x4000000 < len then (3, r)
  else if !imgHeaderOk bs then (4, r)
  else match s.keySlot (sha key) with
    | none => (5, r)
    | some k =>
      let sig := BitVec.ofNat 512 (imgNat bs (len - 96) 64)
      if !Config.edValid (BitVec.ofNat 256 (leNat key)) (natLE 64 (sha (bs.take (len - 128)))) sig then (6, r)
      else if r.svn < popCount 64 (s.rg (hubReg s.active 11 + 0x10)).toNat then (7, r)
      else (2, { r with slot := k })

/-- The answer to a LAST part by its IMGSTAT code (16 R468). -/
def imgReply (code : Nat) : Nat := if code = 2 then 0 else if code ≤ 4 then abRange else abAuth

/-- A load is abandoned: nothing has been received (14 R420). -/
def State.imgDrop (s : State) : State := { s with imgOwner := none, imgLen := 0, imgStat := 0 }

/-- An image part in LOADING (16 R467): its code, or none where the answer waits for the verification. -/
def State.imagePart (s : State) (p : Path) (off : Nat) (last : Bool) (data : List Byte) : Option Nat × State :=
  let q := pathNum p
  if s.dev ≠ 1 ∨ !s.bootAdmits p then (some abState, s)
  else if s.imgWait ∨ s.imgStat = 2 then (some abCond, s)
  else if s.imgOwner.any (· != q) then (some abCond, s)
  else if off ≠ 0 ∧ (s.imgOwner.isNone ∨ off ≠ s.imgLen) then (some abGeneral, if s.imgOwner.isNone then s else s.imgDrop)
  else if 0x4000000 < off + data.length then (some abLength, s.imgDrop)
  else
    let s := { (s.poke (imgBase + off) data).untag (imgBase + off) data.length with imgOwner := some q, imgLen := off + data.length, imgStat := 1 }
    if last then (none, { s with imgWait := true }) else (some 0, s)

/-- A staged load is abandoned. -/
def State.stageDrop (s : State) : State := { s with stageLen := 0, stageBuf := [], stageStat := 0, stageOwner := none }

/-- A part of a staged image in RUN or DEGRADED, in the way of an image in LOADING: the path that wrote offset 0 owns the load
(16 R467, R478). -/
def State.stagePart (s : State) (p : Path) (off : Nat) (last : Bool) (data : List Byte) : Option Nat × State :=
  if s.dev ≠ 3 ∧ s.dev ≠ 4 then (some abState, s)
  else if s.update.stat = 1 ∨ s.update.stat = 2 ∨ s.stageWait.isSome = true ∨ s.stageOwner.any (· != pathNum p) = true then (some abCond, s)
  else if off ≠ 0 ∧ (s.stageOwner.isNone = true ∨ off ≠ s.stageLen) then (some abGeneral, if s.stageOwner.isNone then s else s.stageDrop)
  else if 0x4000000 < off + data.length then (some abLength, s.stageDrop)
  else
    let s := { s with stageBuf := s.stageBuf.take off ++ data, stageLen := off + data.length, stageStat := 1, stagedImg := none,
                      stageOwner := some (pathNum p) }
    if last then (none, { s with stageWait := some (pathNum p) }) else (some 0, s)

/-- A frame of the long-transfer service from the device (14 R429): 64 bytes, unused ones 0. -/
def State.longFrame (s : State) (bs : List Byte) : Reply :=
  .frame (0x1F5B000 + s.straps.node.toNat) ((bs ++ zeros 64).take 64)

/-- An SDO response, and an SDO abort (14 R428). -/
def State.sdoFrame (s : State) (bs : List Byte) : Reply := .frame (0x580 + s.straps.node.toNat) ((bs ++ zeros 8).take 8)
def State.sdoAbort (s : State) (i sub code : Nat) : Reply := s.sdoFrame ([0x80] ++ natLE 2 i ++ natLE 1 sub ++ natLE 4 code)

/-! ### Service sessions (14 R430-R433) -/

/-- Setting a CANSTICKY bit sets the hub's service trouble bit (14 R430). -/
def State.canSticky (s : State) (h i : Nat) : State := (s.setBit (hubReg h 10 + 8) i true).troubleHub h 1 6

/-- The session ends. -/
def State.endSession (s : State) : State :=
  { s with session := false, sessKey := 0 }.setBit (hubReg s.canActive 10) 12 false

/-- A key's hash is trusted: named by TRUST, or a factory key while FACTORYOK is 1 (14 R431, 16 R465). -/
def State.trusted (s : State) (h : Nat) : Bool :=
  let t := s.dVal (dKey 0xA100 0)
  ((upTo (t.length / 64)).any fun i => leNat ((t.drop (64 * i)).take 64) == h) ||
    (s.dNat (dKey 0xA101 0) == 1 && (upTo 2).any fun j => !s.keyDiffers (37 + 8 * j) &&
      (upTo 8).foldl (fun n w => n + (s.fuse 0 (37 + 8 * j + w)).toNat * 2 ^ (64 * w)) 0 == h)

/-- A session whose key is no longer trusted ends (14 R433). -/
def State.sessionCheck (s : State) : State := if s.session && !s.trusted s.sessKey then s.endSession else s

/-- NONCE read (14 R432): 32 fresh bytes of the random source. -/
def State.readNonce (s : State) : List Byte × State :=
  let b := (upTo 4).flatMap fun i => natLE 8 (Config.freeWord (s.fresh + i)).toNat
  (b, { s with fresh := s.fresh + 4, nonceNow := some (leNat b) })

/-- AUTH written (14 R432): its code. -/
def State.auth (s : State) (key : BitVec 256) (sig : BitVec 512) : Nat × State :=
  let n := s.nonceNow
  let s := { s with nonceNow := none }
  if s.authLock then (abAuth, s)
  else
    let h := sha (natLE 32 key.toNat)
    if s.trusted h && n.any fun v => Config.edValid key (natLE 32 v) sig then
      (0, { s with session := true, sessKey := h, authFails := 0 }.setBit (hubReg s.canActive 10) 12 true)
    else
      let s := { s with authFails := s.authFails + 1, authLock := decide (4 ≤ s.authFails + 1) }
      (abAuth, s.canSticky s.canActive 3)

/-- SESSION_TIMEOUT (14 R433): 120 s without an access from the port. -/
def execSessionTimeout (s : State) : Host.Outcome State Fault Refusal := .next (if s.session then s.endSession else s)

/-- AUTH_LOCKOUT_EXPIRY (14 R432): AUTH is served again. -/
def execAuthLockoutExpiry (s : State) : Host.Outcome State Fault Refusal :=
  .next (if s.authLock then { s with authLock := false, authFails := 0 } else s)

/-- NONCE_EXPIRY (14 R432): 30 s after its read a nonce is invalid. -/
def execNonceExpiry (s : State) : Host.Outcome State Fault Refusal := .next { s with nonceNow := none }

/-! ### Burns (16 R470, R479): the code of each -/

/-- LCADVANCE: one state forward, in CONFIG only; a TYPE 5 record. -/
def State.lcAdvance (s : State) (v : Nat) : Nat × State :=
  if s.dev ≠ 2 then (abState, s)
  else if v ≠ s.lifecycle + 1 ∨ s.lcFuse = v then (abCond, s)
  else (0, (s.burn 0 (BitVec.ofNat 64 v)).measure 5 0 255 v)

/-- OWNERKEY: a blank owner slot takes a key hash. -/
def State.ownerKey (s : State) (i v : Nat) : Nat × State :=
  if !s.slotBlank (2 + i) || v % 2 ^ 512 == 0 then (abCond, s)
  else (0, (upTo 8).foldl (fun s w => s.burn (5 + 8 * (2 + i) + w) (BitVec.ofNat 64 (v / 2 ^ (64 * w)))) s)

/-- REVOKE: neither the last slot that qualifies nor the one that verified the running image. -/
def State.revoke (s : State) (k : Nat) : Nat × State :=
  if getBits (s.orFuse 1) k 1 = 1 ∨ (upTo 4).filter s.slotOk = [k] ∨ s.runImg.any (·.slot == k) then (abCond, s)
  else (0, s.burn 1 (BitVec.ofNat 64 (2 ^ k)))

/-- SVNFLOOR: the floor rises, not above the running image's SVN. -/
def State.svnFloor (s : State) (v : Nat) : Nat × State :=
  if v ≤ popCount 64 (s.orFuse 2).toNat ∨ s.runImg.all (fun r => decide (r.svn < v)) then (abCond, s)
  else (0, s.burn 2 (BitVec.ofNat 64 (2 ^ v - 1)))

end Sys2Proof.Machine
end

