-- ==== Sys2Proof/Machine/Net.lean ====
section
/-! DEFINITION. The media ports: frames, PTP, ingress streams with their rings, concealment and delivery, and egress packets
(chapter 12). -/

namespace Sys2Proof.Machine
open Sys2Proof

/-! ### Ports (12 R362-R364) -/

/-- The register blocks of the tables of a hub. -/
def inReg (h n : Nat) : Nat := hubReg h 7 + 0x2000 + 32 * n
def inStat (h n : Nat) : Nat := hubReg h 7 + 0x8000 + 16 * n
def egReg (h e : Nat) : Nat := hubReg h 8 + 0x2000 + 32 * e
def egStat (h e : Nat) : Nat := hubReg h 8 + 0xA000 + 8 * e

/-- The partner port (12 R375). -/
def partner (p : Nat) : Nat := (p + 2) % 4

/-- Network sticky bits set the hub's media-port trouble bit (12 R364). -/
def State.netTrouble (s : State) (h : Nat) : State := s.troubleHub h 1 4
def State.portSticky (s : State) (p i : Nat) : State := (s.setBit (portReg p + 0x28) i true).netTrouble (p / 2)
def State.inSticky (s : State) (h n i : Nat) : State := (s.setBit (inStat h n) i true).netTrouble h

/-- A port's address: link-local before CONFIG (14 R425). -/
def State.portIp (s : State) (p : Nat) : Nat :=
  if s.dev < 2 then 0xA9FE0000 + 256 * (100 + s.straps.node.toNat) + 10 + p else s.fld (portReg p + 0x10) 0 32

/-- A frame arrives at a port that works: counted; false where it is discarded (12 R362). -/
def State.rxFrame (s : State) (p bytes : Nat) (fcsOk : Bool) : Bool × State :=
  let s := (s.addSat (portReg p + 0x30) 0 32 1).meter (p / 2) (5 + p % 2) 0 bytes
  if !fcsOk || decide (bytes < 64) || decide (1522 < bytes) then (false, s.addSat (portReg p + 0x30) 32 32 1) else (true, s)

/-- The destination is the port's own address or a group address. -/
def State.forPort (s : State) (p : Nat) (dmac : Nat) : Bool := bitOf dmac 40 || dmac == s.fld (portReg p + 8) 0 48

/-! #### ARP (12 R363) -/

/-- The address that a packet for `d` goes to next: itself in the port's own network, else the gateway where there is one. -/
def State.nextHop (s : State) (p d : Nat) : Nat :=
  let m := 2 ^ (32 - min 32 (s.fld (portReg p + 0x10) 32 6))
  let gw := s.fld (portReg p + 0x18) 0 32
  if d / m = s.fld (portReg p + 0x10) 0 32 / m ∨ gw = 0 then d else gw

/-- A request for a destination's MAC address, once until the link goes down; when it is repeated is left out (timing). -/
def State.arpAsk (s : State) (p d : Nat) : State :=
  let x := s.port p
  let a := s.nextHop p d
  if !s.portOn p || x.asked.contains a then s else (s.setPort p { x with asked := nsAdd x.asked a }).txFrame p 64

/-- A reply to a request of the port. -/
def State.arpTake (s : State) (p sender mac : Nat) : State :=
  let x := s.port p
  if x.asked.contains sender then s.setPort p { x with arp := SMap.set (dflt 0) x.arp sender (mac + 1) } else s

/-! #### IGMP (12 R385) -/

/-- Answers to a query: one report of version 3, or one for each group of an older version. A query of an older version makes the port
report in that version; how long for is left out (timing). -/
def State.igmpAnswer (s : State) (p g version : Nat) : State :=
  let x := s.port p
  let s := s.setPort p { x with igmp := min x.igmp version }
  let gs := x.groups.filter fun j => g == 0 || j.1 == g
  if gs.isEmpty then s
  else { State.txFrames (if (s.port p).igmp = 3 then 1 else gs.length) p 64 s with resp := .net 3 p gs.length }

/-- FRAME_RECEIVE (12 R362, R363): ARP, ICMP echo and IGMP queries are answered, ARP replies taken; every other frame here is discarded. -/
def execFrameReceive (p : Fin 4) (f : FrameIn) (s : State) : Host.Outcome State Fault Refusal :=
  if !s.portOn p.val then .next s
  else
    let a := portReg p.val
    let s := (s.addSat (a + 0x40) 0 32 f.fecCorrected).addSat (a + 0x40) 32 32 f.fecUncorr
    let s := if 0 < f.fecUncorr then s.portSticky p.val 1 else s
    let (ok, s) := s.rxFrame p.val f.len f.fcsOk
    if !ok || 0 < f.fecUncorr then .next s
    else if f.noBuffer then .next ((s.addSat (a + 0x38) 32 32 1).portSticky p.val 2)
    else if !s.forPort p.val f.dmac.toNat then .next s
    else
      let ip := s.portIp p.val
      match f.kind with
      | .arp t => if t.toNat = ip then .next { s.txFrame p.val 64 with resp := .net 1 p.val ip } else .next s
      | .arpReply t d m => if t.toNat = ip then .next (s.arpTake p.val d.toNat m.toNat) else .next s
      | .icmpEcho d b n => if d.toNat = ip ∧ !b then .next { s.txFrame p.val (max 64 n) with resp := .net 2 p.val n } else .next s
      | .igmpQuery g v => .next (s.igmpAnswer p.val g.toNat (v.val + 1))
      | .pause _ => .next s
      | .other => .next s

/-- The rate and the FEC that a link may come up with (12 R362, Table 12-2): the rate is PCTL.SPEED's; RS-FEC runs at 25 Gb/s only, as PCTL.FEC
says or, with auto-negotiation, as the ends agree. -/
def State.linkAsSet (s : State) (p : Nat) (speed10 fec : Bool) : Bool :=
  let a := portReg p
  speed10 == s.bit a 1 && (if speed10 then !fec else s.bit a 3 || fec == s.bit a 2)

/-- PORT_LINK_UP (12 Table 12-2): a port that takes part in PTP listens, and the port reports the groups it has joined. -/
def execPortLinkUp (p : Fin 4) (speed10 fec : Bool) (s : State) : Host.Outcome State Fault Refusal :=
  let a := portReg p.val
  if !s.dieActs (p.val / 2) || nsMem s.sdDown (p.val / 2) || !(s.bit a 0 || decide (s.dev < 2)) || !s.linkAsSet p.val speed10 fec then .next s
  else
    let s := ({ s with up := nsAdd s.up p.val }.setFld (a + 0x20) 0 3 (1 + 2 * b2n speed10 + 4 * b2n fec)).ptpListen p.val
    .next (if (s.port p.val).groups.isEmpty then s else State.txFrames 2 p.val 64 s)

/-- A media port's link goes down (12 R386). -/
def State.portDown (s : State) (p : Nat) : State :=
  if !nsMem s.up p then s
  else
    let s := (({ s with up := nsDel s.up p }.setFld (portReg p + 0x20) 0 3 0).portSticky p 0).ptpLost p 0
    s.setPort p (s.port p).unlinked

/-- PORT_LINK_DOWN (12 R386). -/
def execPortLinkDown (p : Fin 4) (s : State) : Host.Outcome State Fault Refusal := .next (s.portDown p.val)

/-! ### Time from the network (12 R365-R367, 02 R47, R49) -/

/-- The servo reports valid time (02 R47): FREE goes to ACQUIRE, with a step outside RUN; HOLDOVER to LOCKED or ACQUIRE by the phase
error. -/
def State.timeValid (s : State) (phase : Int) : State :=
  let s := (s.ptpFld 8 0 1 1).bothGens fun g => { g with valid := true }
  let st := s.fld (hubReg s.active 6) 0 2
  if st = 0 then (s.genState 1).bothGens fun g => { g with stepDue := !s.live }
  else if st = 3 then
    if phase.natAbs ≤ 100 then s.genState 2 else (s.genState 1).bothGens fun g => { g with stepDue := !s.live }
  else s

/-- A port takes a message: one of the selected profile and domain; under IEEE 802.1AS a port that is not asCapable takes those of the peer
delay mechanism alone, which the AES67 media profile has not (12 R365). -/
def State.ptpTakes (s : State) (p : Nat) (k : PtpMsg) : Bool :=
  let peer := k.kind == .pdelayReq || k.kind == .pdelayResp
  k.gptp == s.gptp p && k.domain.toNat == s.fld (hubReg (p / 2) 7 + 0x1000) 1 8 &&
    (if s.gptp p then peer || ((s.port p).asCapable && k.kind != .delayResp) else !peer)

/-- An Announce: the port sees its grandmaster, and `best` says that the best master clock algorithm prefers it (12 R366). -/
def State.ptpAnnounce (s : State) (p : Nat) (k : PtpMsg) : State :=
  let sel := s.ptpSel
  let s := s.setPort p { s.port p with gm := some k.gmid.toNat }
  if k.best && sel != some p then
    let same := match sel with | some q => (s.port q).gm == some k.gmid.toNat | none => false
    let s := s.ptpFld 0x10 0 64 k.gmid.toNat
    if same then s.ptpGoesOn p
    else let s := s.ptpSelect p; (s.setPort p { s.port p with syncs := 0 }).timeLost
  else s

/-- A Sync with its time, on the selected port: the offset, the servo from the eighth on, and the next delay request of the end-to-end
mechanism (12 R365, R366). -/
def State.ptpSync (s : State) (p : Nat) (k : PtpMsg) : State :=
  if s.ptpSel != some p then s
  else
    let x := s.port p
    let s := s.setPort p { x with syncs := x.syncs + 1 }
    let s := s.ptpFld 0x18 0 32 (unsigned 32 (clampI (-(2 ^ 31)) (2 ^ 31 - 1) k.ofsNs))
    let s := s.tideStat 16 16 (unsigned 16 (clampI (-32767) 32767 k.ofsNs))
    let s := if s.gptp p || x.delayReq then s else s.askDelay p
    if 8 ≤ x.syncs + 1 then
      let s := if 20000 < k.wantPpb.natAbs then s.tideSticky 33 else s
      (s.bothGens fun g => g.ask s.rateHz k.wantPpb).timeValid k.ofsNs
    else s

/-- The answer to the device's own delay request: the mean path delay of the selected port; under IEEE 802.1AS it makes the port asCapable,
and the next request follows. -/
def State.ptpDelay (s : State) (p : Nat) (k : PtpMsg) : State :=
  let x := s.port p
  if !x.delayReq then s
  else
    let s := s.setPort p { x with delayReq := false, asCapable := x.asCapable || s.gptp p }
    let s := if s.ptpSel == some p then s.ptpFld 0x18 32 32 (min (2 ^ 32 - 1) k.delayNs) else s
    if s.gptp p then s.askDelay p else s

/-- What a message that the port takes does. Sync intervals of the AES67 media profile are 2^-4 s to 2 s. -/
def State.ptpMessage (s : State) (p : Nat) (k : PtpMsg) : State :=
  match k.kind with
  | .announce => s.ptpAnnounce p k
  | .sync two i =>
    if !s.gptp p && (decide (i < -4) || decide (1 < i)) then s
    else if two then s.setPort p { s.port p with followUp := true }
    else s.ptpSync p k
  | .followUp => if (s.port p).followUp then (s.setPort p { s.port p with followUp := false }).ptpSync p k else s
  | .delayResp | .pdelayResp => s.ptpDelay p k
  | .pdelayReq => State.txFrames 2 p 72 s

/-- PTP_EVENT_MESSAGE (12 R365, R366). -/
def execPtpEventMessage (p : Fin 4) (k : PtpMsg) (s : State) : Host.Outcome State Fault Refusal :=
  if !s.portOn p.val || !s.bit (portReg p.val) 4 then .next s
  else
    let (ok, s) := s.rxFrame p.val 90 k.intact
    .next (if ok && s.ptpTakes p.val k then s.ptpMessage p.val k else s)

/-- PTP_ANNOUNCE_TIMEOUT (12 R366): the selected port's master is silent; another port that sees the same grandmaster goes on. -/
def execPtpAnnounceTimeout (p : Fin 4) (other : Option (Fin 4)) (s : State) : Host.Outcome State Fault Refusal :=
  if s.ptpSel ≠ some p.val then .next s
  else
    let gm := (s.port p.val).gm
    let s := s.setFld (portReg p.val + 0x20) 3 3 1
    let s := s.setPort p.val { s.port p.val with syncs := 0, gm := none, followUp := false }
    match other with
    | some q => if q ≠ p ∧ s.portOn q.val ∧ (s.port q.val).gm = gm ∧ gm.isSome then .next (s.ptpGoesOn q.val) else .next s.timeLost
    | none => .next s.timeLost

/-- PPS_INPUT_EDGE (12 R367). -/
def execPpsInputEdge (h : Fin 2) (sec : BitVec 31) (ns : BitVec 30) (s : State) : Host.Outcome State Fault Refusal :=
  let a := hubReg h.val 7 + 0x1000
  if s.dieActs h.val && s.bit (a + 0x20) 1 then .next (s.setRg (a + 0x28) (BitVec.ofNat 64 (ns.toNat + 2 ^ 32 * sec.toNat + 2 ^ 63)))
  else .next s

/-! ### Stream formats (12 R368, R369) -/

/-- Samples per packet, and bytes of a sample by FMT. -/
def State.perPacket (s : State) (ptime : Nat) : Nat := (if ptime = 0 then 6 else if ptime = 1 then 12 else 48) * (if s.rate96 then 2 else 1)
def fmtBytes (f : Nat) : Nat := if f = 0 then 3 else if f = 1 then 2 else 4

/-- An entry's fields, the same places in ICFG and ECFG. -/
structure StreamCfg where
  en : Bool
  aaf : Bool
  pair : Bool
  port : Nat
  nch : Nat
  ptime : Nat
  fmt : Nat
deriving DecidableEq, Repr

def State.cfgAt (s : State) (a : Nat) : StreamCfg :=
  let v := (s.rg a).toNat
  ⟨bitOf v 0, bitOf v 1, bitOf v 2, bitsOf v 3 2, bitsOf v 5 6 + 1, bitsOf v 11 2, bitsOf v 13 2⟩

/-- The payload bytes of a packet; a ring's length. -/
def State.payload (s : State) (c : StreamCfg) : Nat := s.perPacket c.ptime * c.nch * fmtBytes c.fmt
def StreamCfg.ring (c : StreamCfg) : Nat := 384 * c.nch * fmtBytes c.fmt

/-- The frame bytes of a packet, destination address to FCS. -/
def State.frameBytes (s : State) (c : StreamCfg) (tagged : Bool) : Nat :=
  max 64 (14 + (if tagged then 4 else 0) + (if c.aaf then 24 else 40) + s.payload c + 4)

/-- The enabled ingress streams of a hub, and the enabled egress streams. -/
def State.inStreams (s : State) (h : Nat) : List Nat :=
  s.regs.filterMap fun p =>
    let o := p.1 - inReg h 0
    if inReg h 0 ≤ p.1 ∧ o < 0x4000 ∧ o % 32 = 0 ∧ bitOf p.2.toNat 0 then some (o / 32) else none
def State.egStreams (s : State) (h : Nat) : List Nat :=
  s.regs.filterMap fun p =>
    let o := p.1 - egReg h 0
    if egReg h 0 ≤ p.1 ∧ o < 0x8000 ∧ o % 32 = 0 ∧ bitOf p.2.toNat 0 then some (o / 32) else none

/-! ### Enabling a stream (12 R370, R379, R380, R385) -/

/-- The ring of an ingress stream: its offset, bits [5:0] ignored. -/
def State.ringBase (s : State) (h n : Nat) : Nat := s.fld (inReg h n + 0x18) 0 22 / 64 * 64

/-- The group of an ingress stream: its DADDR where that is a multicast address. -/
def State.inGroup (s : State) (h n : Nat) : Option Nat :=
  let d := s.fld (inReg h n + 8) 0 32
  if !(s.cfgAt (inReg h n)).aaf && d / 2 ^ 28 == 14 then some d else none

/-- The ports of a hub that receive or send a stream. -/
def StreamCfg.portsOf (c : StreamCfg) (h : Nat) : List Nat :=
  [2 * h, 2 * h + 1].filter fun p => c.port == p || (c.pair && partner c.port == p)

/-- A group joined with the source of one more stream: INCLUDE of the sources, or EXCLUDE of none, which holds every source. -/
def joinGroup (gs : List (Nat × List Nat)) (g src : Nat) : List (Nat × List Nat) :=
  let rest := gs.filter fun j => j.1 != g
  let old := gs.find? fun j => j.1 == g
  let all := src == 0 || old.any fun j => j.2.isEmpty
  (rest.filter fun j => decide (j.1 < g)) ++ [(g, if all then [] else nsAdd ((old.map (·.2)).getD []) src)] ++
    rest.filter fun j => decide (g < j.1)

/-- Groups joined by a port: those of its enabled streams, and PTP's under the AES67 profile (12 R385). -/
def State.groupsOf (s : State) (p : Nat) : List (Nat × List Nat) :=
  let h := p / 2
  let base := if s.gptp p || !s.bit (portReg p) 4 then [] else [(0xE0000181, [])]
  (s.inStreams h).foldl (fun gs n =>
    if ((s.cfgAt (inReg h n)).portsOf h).contains p then
      match s.inGroup h n with
      | some g => joinGroup gs g (s.fld (inReg h n + 0x10) 0 32)
      | none => gs
    else gs) base

/-- The frames that report a change of membership once: one of IGMPv3; in an older version one for each group joined. -/
def reportFrames (version : Nat) (old new : List (Nat × List Nat)) : Nat :=
  let added := (new.filter fun j => !(old.any fun k => k.1 == j.1)).length
  if version = 3 then 1 else added

/-- Membership changes are reported twice, and in version 2 a group left is reported once (12 R385). -/
def State.rejoin (s : State) (p : Nat) : State :=
  let gs := s.groupsOf p
  let x := s.port p
  if gs = x.groups then s
  else
    let s := s.setPort p { x with groups := gs }
    let left := if x.igmp = 2 then (x.groups.filter fun j => !(gs.any fun k => k.1 == j.1)).length else 0
    if s.portOn p then State.txFrames (2 * reportFrames x.igmp x.groups gs + left) p 64 s else s

/-- EN of ingress stream n is refused (12 R370); the entry holds EN = 1 while this is asked. -/
def State.inRefused (s : State) (h n : Nat) : Bool :=
  let a := inReg h n
  let c := s.cfgAt a
  let others := (s.inStreams h).filter (· != n)
  let chans := (others.map fun m => (s.cfgAt (inReg h m)).nch).foldl (· + ·) 0
  (c.fmt == 2 && !c.aaf) || c.fmt == 3 || c.ptime == 3 || decide (1440 < s.payload c) || decide (2048 < chans + c.nch) ||
    decide (0x300000 < s.ringBase h n + c.ring) ||
    (others.any fun m => rangesMeet (s.ringBase h n) c.ring (s.ringBase h m) (s.cfgAt (inReg h m)).ring) ||
    (c.portsOf h).any fun p => decide (512 < (s.groupsOf p).length)

/-- EN of ingress stream n of a hub has been set. -/
def State.inEnable (s : State) (h n : Nat) : State :=
  if s.inRefused h n then (s.setBit (inReg h n) 0 false).inSticky h n 7
  else
    let s := { s with ing := SMap.set (dflt IngS.reset) s.ing (512 * h + n) { IngS.reset with since := (s.die h).tide / 16 } }
    ((s.cfgAt (inReg h n)).portsOf h).foldl (fun s p => s.rejoin p) s

/-- EN of ingress stream n has been cleared. -/
def State.inDisable (s : State) (h n : Nat) : State :=
  let s := { s with ing := SMap.set (dflt IngS.reset) s.ing (512 * h + n) IngS.reset }
  ((s.cfgAt (inReg h n)).portsOf h).foldl (fun s p => s.rejoin p) (s.setBit (inStat h n) 0 false)

/-- The bits per second of a stream on the wire, with preamble and gap. -/
def State.wireRate (s : State) (h e : Nat) : Nat :=
  let c := s.cfgAt (egReg h e)
  (s.frameBytes c (s.fld (egReg h e) 24 12 != 0) + 20) * 8 * s.rateHz / s.perPacket c.ptime

/-- The traffic limit of a port (12 R379). -/
def State.txLimit (s : State) (p : Nat) : Nat := if s.bit (portReg p) 1 then 8000000000 else 20000000000

def State.egRefused (s : State) (h e : Nat) : Bool :=
  let c := s.cfgAt (egReg h e)
  let pt := s.fld (egReg h e) 36 7
  (c.fmt == 2 && !c.aaf) || c.fmt == 3 || c.ptime == 3 || (!c.aaf && decide (pt < 96)) || decide (1440 < s.payload c) ||
    (c.portsOf h).any fun p =>
      decide (s.txLimit p < (((s.egStreams h).filter fun x => ((s.cfgAt (egReg h x)).portsOf h).contains p).map (s.wireRate h)).foldl (· + ·) 0)

/-- The destination of an AES67 stream that is no group is asked for. -/
def State.egAsk (s : State) (p a : Nat) : State :=
  let d := s.fld (a + 8) 0 32
  if (s.cfgAt a).aaf || d / 2 ^ 28 == 14 then s else s.arpAsk p d

/-- EN of egress stream e of a hub has been set: SEQ0 is shared with the other hub's copy (12 R380). -/
def State.egEnable (s : State) (h e : Nat) : State :=
  if s.egRefused h e then ((s.setBit (egReg h e) 0 false).setBit (egStat h e) 33 true).netTrouble h
  else
    let o := 1 - h
    let get (i : Nat) : EgS := SMap.get (dflt EgS.reset) s.egs (1024 * i + e)
    let since := 16 * ((s.die h).tide / 16 + 1)
    let put (s : State) (i : Nat) (x : EgS) : State := { s with egs := SMap.set (dflt EgS.reset) s.egs (1024 * i + e) x }
    let s := ((s.cfgAt (egReg h e)).portsOf h).foldl (fun s p => s.egAsk p (egReg h e)) s
    if s.bit (egReg o e) 0 then put s h ⟨(get o).seq0, since⟩
    else
      let (v, s) := s.draw
      put (put s h ⟨v.toNat % 65536, since⟩) o { get o with seq0 := v.toNat % 65536 }

/-- INGRESS_STREAM_ENABLE (12 R370): ICFG.EN written as 1. -/
def execIngressStreamEnable (h : Fin 2) (n : Fin 512) (s : State) : Host.Outcome State Fault Refusal :=
  if s.bit (inReg h.val n.val) 0 || !s.dieActs h.val then .next s else .next ((s.setBit (inReg h.val n.val) 0 true).inEnable h.val n.val)

/-- EGRESS_STREAM_ENABLE (12 R379, R380): ECFG.EN written as 1. -/
def execEgressStreamEnable (h : Fin 2) (e : Fin 1024) (s : State) : Host.Outcome State Fault Refusal :=
  if s.bit (egReg h.val e.val) 0 || !s.dieActs h.val then .next s else .next ((s.setBit (egReg h.val e.val) 0 true).egEnable h.val e.val)

/-! ### Ingress (12 R371-R374) -/

def State.ingOf (s : State) (h n : Nat) : IngS := SMap.get (dflt IngS.reset) s.ing (512 * h + n)
def State.setIng (s : State) (h n : Nat) (x : IngS) : State := { s with ing := SMap.set (dflt IngS.reset) s.ing (512 * h + n) x }

/-- The integer congruent to `r` modulo 2^32 nearest to `at_`. -/
def nearest32 (r at_ : Nat) : Int :=
  let d : Nat := (r + 2 ^ 32 - at_ % 2 ^ 32) % 2 ^ 32
  if d < 2 ^ 31 then (at_ : Int) + (d : Int) else (at_ : Int) + (d : Int) - 2 ^ 32

/-- A packet on port p matches stream n (12 R371). -/
def State.matches_ (s : State) (h n p : Nat) (k : AudioPkt) : Bool :=
  let a := inReg h n
  let c := s.cfgAt a
  (c.port == p || (c.pair && partner c.port == p)) && c.aaf == k.aaf &&
    (if c.aaf then s.rg (a + 8) == k.streamId
    else s.fld (a + 8) 0 32 == k.daddr.toNat && s.fld (a + 8) 32 16 == k.dport.toNat && s.fld a 24 7 == k.pt.toNat &&
      (s.fld (a + 0x10) 0 32 == 0 || s.fld (a + 0x10) 0 32 == k.saddr.toNat))

/-- The packet has the stream's format (12 R368). -/
def State.formatOk (s : State) (c : StreamCfg) (k : AudioPkt) : Bool :=
  k.headerOk && k.rate96 == s.rate96 && k.nsamp == s.perPacket c.ptime && k.nch == c.nch && k.fmtBits == 8 * fmtBytes c.fmt &&
    k.samples.length == k.nsamp * k.nch

/-- The first ingress position of a packet (12 R371); none for a sparse packet that is discarded. -/
def State.firstPos (s : State) (h n : Nat) (leg : LegS) (k : AudioPkt) : Option Int :=
  let a := inReg h n
  let lo := s.fld a 15 9
  if !k.aaf then 
    let r : Nat := (k.ts.toNat + 2 ^ 32 - s.fld (a + 0x10) 32 32) % 2 ^ 32
    some (nearest32 r (s.die h).tide + (lo : Int))
  else if k.tsValid then
    let t := nearest32 k.ts.toNat k.arrNs
    let x := t * s.rateHz
    some ((x + 999999999) / 1000000000 + lo)
  else
    match leg.p0, leg.seq with
    | some p, some q =>
      let d := (k.seq.toNat % 256 + 256 - q % 256) % 256
      if 1 ≤ d ∧ d ≤ 8 then some ((p + s.perPacket (s.cfgAt a).ptime * d : Nat) : Int) else none
    | _, _ => none

/-- The ring byte of a position of a hub's stream (12 R372). -/
def State.ringAt (s : State) (h n t : Nat) : Nat :=
  let c := s.cfgAt (inReg h n)
  dieBase h + 0x1080000 + s.ringBase h n + t % 384 * c.nch * fmtBytes c.fmt

/-- The engine of media port p, whose accesses travel as T1 (01 Tables 1-7, 1-10), and the port bit that a denial sets. -/
def portAttr (p : Nat) : Attr := engAttr (mid (p / 2) (8 + p % 2) 2 0) 1
def State.troublePort (s : State) (h : Nat) : State := s.troubleHub h 1 4

/-- The wire bytes of a sample: network byte order. -/
def wireBytes (n v : Nat) : List Byte := (natLE n v).reverse

/-- A packet of stream n has written a sample: the line of the stream asserts on the hub's engine, to every channel that selects it
(12 R377). -/
def State.lineAssert (s : State) (h n : Nat) : State :=
  (upTo 64).foldl (fun s c =>
    if s.chEn h c && s.chReqsel h c == 0x400 + n then
      { s with lineDue := SMap.set (dflt 0) s.lineDue (64 * h + c) (SMap.get (dflt 0) s.lineDue (64 * h + c) + 1) }
    else s) s

/-- A packet of stream n is applied to a hub's ring (12 R373). -/
def State.ingest (s : State) (h n p : Nat) (k : AudioPkt) : State :=
  let a := inReg h n
  let c := s.cfgAt a
  let x := s.ingOf h n
  let isA := c.port == p
  let leg := if isA then x.legA else x.legB
  if !s.formatOk c k then s
  else
    match s.firstPos h n leg k with
    | none => s
    | some p0 =>
      let pp := s.perPacket c.ptime
      let b := (s.die h).tide / 16
      let s := match leg.seq with
        | some q => if !k.aaf && k.seq.toNat != (q + 1) % 65536 then s.inSticky h n 4 else s
        | none => s
      let early := decide (((16 * b + 384 : Nat) : Int) ≤ p0 + pp - 1 + 16)
      if early then
        let leg := if k.aaf then leg else { leg with seq := some k.seq.toNat }
        (s.setIng h n (if isA then { x with legA := leg } else { x with legB := leg })).inSticky h n 3
      else
        let late (j : Nat) : Bool := decide (p0 + j < ((16 * b : Nat) : Int))
        let js := (upTo pp).filter fun j => !late j
        let pos (j : Nat) : Nat := (p0 + j).toNat
        let new := js.filter fun j => !nsMem x.marks (pos j)
        let s := if (upTo pp).any late then s.inSticky h n 2 else s
        let bytes := fmtBytes c.fmt
        let s := new.foldl (fun s j =>
          s.engRun (portAttr p) (s.ringAt h n (pos j)) (((k.samples.drop (j * c.nch)).take c.nch).flatMap fun v => wireBytes bytes v.toNat)
            fun s => s.troublePort (p / 2)) s
        let leg : LegS := ⟨some k.seq.toNat, some p0.toNat, some b⟩
        let x := { x with first := x.first.orElse fun _ => some (max p0.toNat (16 * b)), marks := new.foldl (fun m j => nsAdd m (pos j)) x.marks, ran := some b }
        let s := (s.setIng h n (if isA then { x with legA := leg } else { x with legB := leg })).setBit (inStat h n) 0 true
        let s := s.addSat (inStat h n + 8) 0 32 1
        if new.isEmpty then s.addSat (inStat h n + 8) 32 32 1 else s.lineAssert h n

/-- Every enabled stream of a hub that a packet matches takes it (12 R371). -/
def State.ingestAll (s : State) (h p : Nat) (k : AudioPkt) : State :=
  ((s.inStreams h).filter fun n => s.matches_ h n p k).foldl (fun s n => s.ingest h n p k) s

/-- AUDIO_PACKET_RECEIVE (12 R373): the receiving hub's own ring. -/
def execAudioPacketReceive (p : Fin 4) (k : AudioPkt) (s : State) : Host.Outcome State Fault Refusal :=
  if !s.portOn p.val then .next s
  else
    let (ok, s) := s.rxFrame p.val k.bytes k.fcsOk
    .next (if ok then s.ingestAll (p.val / 2) p.val k else s)

/-- FORWARDED_PACKET (12 R374): the other hub's ring, against its own tide position. -/
def execForwardedPacket (h : Fin 2) (p : Fin 4) (k : AudioPkt) (s : State) : Host.Outcome State Fault Refusal :=
  if s.dieActs h.val && p.val / 2 != h.val && k.fcsOk then .next (s.ingestAll h.val p.val k) else .next s

/-! ### Completion of ingress blocks (12 R375, R376) -/

/-- The engine of the port of a stream's own hub that completes its blocks. -/
def State.ringAttr (s : State) (h n : Nat) : Attr := portAttr (2 * h + (s.cfgAt (inReg h n)).port % 2)

/-- The sixteen raw samples of a channel's block in a ring, as signed numbers of its format, read by an engine; a sample that it does
not get is a free value (assumption 1). -/
def State.ringBlock (s : State) (b : Attr) (h n blk ch : Nat) : List Int × State :=
  let w := fmtBytes (s.cfgAt (inReg h n)).fmt
  (upTo 16).foldl (fun (p : List Int × State) i =>
    match p.2.engRead b (p.2.ringAt h n (16 * blk + i) + ch * w) w fun s => s.troublePort h with
    | (some bs, s) => (p.1 ++ [signed (8 * w) (leNat bs.reverse)], s)
    | (none, s) => let (v, s) := s.draw; (p.1 ++ [signed (8 * w) v.toNat], s)) ([], s)

/-- Samples of one channel written into the ring from position `t` on. -/
def State.ringPut (s : State) (h n t ch : Nat) (vs : List Int) : State :=
  let c := s.cfgAt (inReg h n)
  let w := fmtBytes c.fmt
  ((upTo vs.length).zip vs).foldl (fun s p =>
    s.engRun (s.ringAttr h n) (s.ringAt h n (t + p.1) + ch * w) (wireBytes w (unsigned (8 * w) p.2)) fun s => s.troublePort h) s

/-- Block b of an enabled stream is completed on a hub. -/
def State.ingComplete (s : State) (h n b : Nat) : State :=
  let c := s.cfgAt (inReg h n)
  let x := s.ingOf h n
  let chans := upTo c.nch
  let started := match x.first with | some f => decide (f / 16 ≤ b) | none => false
  let marked (t : Nat) : Bool := nsMem x.marks t || (match x.first with | some f => decide (t < f) | none => false)
  let s :=
    if !started then
      let s := chans.foldl (fun s ch => s.ringPut h n (16 * b) ch ((upTo 16).map fun _ => 0)) s
      s.setIng h n { x with prev := [] }
    else if (upTo 16).all fun i => marked (16 * b + i) then
      let s := match x.first with
        | some f => if f / 16 = b then chans.foldl (fun (s : State) ch => s.ringPut h n (16 * b) ch ((upTo (f % 16)).map fun _ => 0)) s else s
        | none => s
      let (prev, s) := chans.foldl (fun (p : List Int × State) ch =>
        let (vs, s) := p.2.ringBlock (s.ringAttr h n) h n b ch
        let ws := if x.missed then ((upTo 16).zip vs).map fun p => rnd (p.2 * (p.1 + 1 : Nat)) 4 else vs
        (p.1 ++ [ws.getLastD 0], if x.missed then s.ringPut h n (16 * b) ch ws else s)) ([], s)
      s.setIng h n { x with missed := false, prev := prev }
    else
      let s := chans.foldl (fun s ch => s.ringPut h n (16 * b) ch (missValues (x.prev.getD ch 0))) s
      ((s.setIng h n { x with missed := true, prev := [] }).addSat (inStat h n) 32 32 1).inSticky h n 1
  s.setIng h n { s.ingOf h n with marks := (s.ingOf h n).marks.filter fun t => decide (16 * b ≤ t) }

/-- The legs of a pair, judged as block `b` begins: one that delivered nothing in the 8 blocks before while the other did is silent
(12 R375); RUN says whether a packet was accepted in those blocks (Table 12-6). -/
def State.legCheck (s : State) (h n b : Nat) : State :=
  let c := s.cfgAt (inReg h n)
  let x := s.ingOf h n
  let fresh (l : Option Nat) : Bool := match l with | some v => decide (b ≤ v + 8) | none => false
  let due := c.pair && decide (x.since + 9 ≤ b)
  let s := if due && fresh x.legB.heard && !fresh x.legA.heard then s.inSticky h n 5 else s
  let s := if due && fresh x.legA.heard && !fresh x.legB.heard then s.inSticky h n 6 else s
  s.setBit (inStat h n) 0 (fresh x.ran)

/-- Block B begins on a hub: block B - 1 of every stream is completed, and the legs are judged. -/
def State.ingressBlock (s : State) (h b : Nat) : State :=
  (s.inStreams h).foldl (fun s n => (s.ingComplete h n (b - 1)).legCheck h n b) s

/-! ### Delivery (12 R377, R378; 03 R85, R86) -/

/-- The ingress DMA of the active hub: its engine in domain 0 at S, paced by the tide (01 Tables 1-7, 1-10; which channel it uses is
the model's choice, assumption 83). -/
def State.ingressAttr (s : State) : Attr := engAttr (mid s.active 0 1 63) 1

/-- A sample of an input format as a 24-bit one (12 R378). -/
def fmtSample (fmt : Nat) (v : Int) : Int := if fmt = 0 then v else if fmt = 1 then v * 256 else v / 256

/-- Block b of what source t's map entry `e` names: a network channel, show media, whose samples are free (assumption 50), or zeros. A bus
has no ingress: its input is sat24 of the sum of the sends to it, whatever its entry says; KIND 3 gives zeros elsewhere (05 R175; DEDUCED,
assumption 86). -/
def State.inputOf (s : State) (t e b : Nat) : List Int × State :=
  let zero : List Int := (upTo 16).map fun _ => 0
  let kind := bitsOf e 15 2
  if s.isBus t then
    let sum := SMap.get (dflt []) s.busSums (2048 * b + t)
    ((upTo 16).map fun i => satI 24 (signed 32 (sum.getD i 0)), s)
  else if kind = 1 then
    let h := s.active
    let n := bitsOf e 0 9
    let c := s.cfgAt (inReg h n)
    if !c.en || c.nch ≤ bitsOf e 9 6 then (zero, s)
    else
      let (vs, s) := s.ringBlock s.ingressAttr h n b (bitsOf e 9 6)
      (vs.map (fmtSample c.fmt), s)
  else if kind = 2 ∧ s.fNat (famKey (srcBase 9) t) ≠ 0 then
    ((upTo 16).map fun i => signed 24 (Config.freeWord (s.fresh + i)).toNat, { s with fresh := s.fresh + 16 })
  else (zero, s)

/-- The crossfade of R86. -/
def crossfade (old new : List Int) : List Int :=
  ((upTo 16).zip (old.zip new)).map fun p => rnd (p.2.1 * (15 - p.1 : Nat) + p.2.2 * (p.1 + 1 : Nat)) 4

/-- The position played of show media moves on with a block; a loop starts again, a file that ends stops there (14 Table 14-10). -/
def State.mediaMove (s : State) (t : Nat) : State :=
  let m := s.fNat (famKey (srcBase 9) t)
  if bitsOf (s.mapOf t) 15 2 ≠ 2 ∨ m = 0 then s
  else
    let len := s.fNat (famKey (srcBase 8) t)
    let p := s.dNat (famKey (srcBase 10) t) + 16
    s.dSet (famKey (srcBase 10) t) (natLE 8 (if m = 2 then (if len = 0 then 0 else p % len) else min p len))

/-- The ring entry of a position, as a sample; a read that does not return it gives a free value (03 R85; assumption 83). -/
def State.ringEntry (s : State) (t len pos : Nat) : Int × State :=
  match s.engRead s.ingressAttr (s.delayRing t + 4 * (pos % len)) 4 fun s => s.troubleDma s.active with
  | (some bs, s) => (signed 24 (leNat (bs.take 3)), s)
  | (none, s) => let (v, s) := s.draw; (signed 24 v.toNat, s)

/-- The sixteen entries of block b behind a delay; positions before 0 hold zeros. -/
def State.ringTap (s : State) (t len b dl : Nat) : List Int × State :=
  (upTo 16).foldl (fun (p : List Int × State) i =>
    if 16 * b + i < dl then (p.1 ++ [0], p.2)
    else
      let (v, s) := p.2.ringEntry t len (16 * b + i - dl)
      (p.1 ++ [v], s)) ([], s)

/-- A block's samples written into the ring, each word a sample sign-extended (03 R85). -/
def State.ringStore (s : State) (t len b : Nat) (inp : List Int) : State :=
  s.engRun s.ingressAttr (s.delayRing t + 4 * (16 * b % len)) (inp.flatMap fun v => natLE 4 (unsigned 32 v)) fun s => s.troubleDma s.active

/-- The bulk delay of a block of input: the ring takes it, and the pair receives the entries behind B, crossfaded where B changed
(03 R85, R86). -/
def State.bulkDelay (s : State) (t b old new : Nat) (inp : List Int) : List Int × State :=
  let len := ringEntries (s.srcNat 1 t)
  if len = 0 then (inp, s)
  else
    let (now, s) := (s.ringStore t len b inp).ringTap t len b new
    if old = new then (now, s)
    else
      let (was, s) := s.ringTap t len b old
      (crossfade was now, s)

/-- The block that a source's pair receives in block b + 1: the map's input with its crossfade, then the bulk delay. -/
def State.deliver (s : State) (b t : Nat) : State :=
  let x := s.srcInOf t
  let e := s.mapOf t
  let (new, s) := s.inputOf t e b
  let (inp, s) := if e = x.map then (new, s) else
      let (old, s) := s.inputOf t x.map b
      (crossfade old new, s)
  let d := s.fNat (famKey (srcBase 2) t)
  let (out, s) := s.bulkDelay t b x.delay d inp
  let out := if x.fadeIn then ((upTo 16).zip out).map fun p => rnd (p.2 * (p.1 + 1 : Nat)) 4 else out
  (s.setSrcIn t ⟨e, d, if out.all (· == 0) then [] else out, false⟩).mediaMove t

/-- Ingress block b is delivered to the stream pairs. -/
def State.deliverAll (s : State) (b : Nat) : State :=
  let s := s.inputSlots.foldl (fun s t => s.deliver b t) s
  { s with delivered := some b, busSums := s.busSums.filter fun e => decide (2048 * (b + 1) ≤ e.1) }

/-! ### Egress (12 R379-R382) -/

/-- The played value of a channel at a position of a hub; positions not played give 0. -/
def State.played (s : State) (h ch t : Nat) : Int :=
  let top := 16 * SMap.get (dflt 0) s.playNext h
  if t < top ∧ SMap.get (dflt 0) s.playFrom h ≤ t then (s.chanPlayOf h ch).vals.getD (top - 1 - t) 0 else 0

/-- A 24-bit value packed (12 R380). -/
def packSample (fmt : Nat) (v : Int) : List Byte :=
  if fmt = 0 then wireBytes 3 (unsigned 24 v) else if fmt = 1 then wireBytes 2 (unsigned 16 (v / 256)) else wireBytes 4 (unsigned 32 (v * 256))

/-- The destination MAC of a packet: EMAC for AAF; for AES67 that of the group, or the one that ARP found; where it has
found none yet the spec states none, and it is free (12 R363, R379; assumption 51). -/
def State.egMac (s : State) (p a : Nat) (aaf : Bool) : Nat :=
  let d := s.fld (a + 8) 0 32
  if aaf then s.fld (a + 0x18) 0 48
  else if d / 2 ^ 28 = 14 then 0x01005E000000 + d % 2 ^ 23
  else
    let m := SMap.get (dflt 0) (s.port p).arp (s.nextHop p d)
    if m = 0 then (Config.freeWord s.fresh).toNat % 2 ^ 48 else m - 1

/-- A port sends the packet of stream e for position q; it carries its own MAC and IP addresses (12 R381). -/
def State.egPacket (s : State) (p e q : Nat) : PktOut :=
  let h := p / 2
  let a := egReg h e
  let c := s.cfgAt a
  let pp := s.perPacket c.ptime
  let off := s.fld (a + 0x10) 0 32
  let seq0 := (SMap.get (dflt EgS.reset) s.egs (1024 * h + e)).seq0
  { port := p, stream := e, aaf := c.aaf, seq := (seq0 + q / pp) % (if c.aaf then 256 else 65536),
    stampField := (if c.aaf then q * 1000000000 / s.rateHz + off else q + off) % 2 ^ 32, ssrc := if c.aaf then 0 else s.fld (a + 0x10) 32 32,
    tv := c.aaf, id := s.rg (a + 8), dmac := s.egMac p a c.aaf, smac := s.fld (portReg p + 8) 0 48, sip := s.fld (portReg p + 0x10) 0 32,
    pcp := s.fld a 15 3, dscp := s.fld a 18 6, vid := s.fld a 24 12, pt := s.fld a 36 7,
    payload := (upTo pp).flatMap fun k => (upTo c.nch).flatMap fun ch => packSample c.fmt (s.played h (64 * e + ch) (q + k)) }

/-- Position q begins a packet that the port sends or drops: the stream is enabled there, aligned, due, and not taken before. -/
def State.egDue (s : State) (p e q : Nat) : Bool :=
  let h := p / 2
  let c := s.cfgAt (egReg h e)
  let pp := s.perPacket c.ptime
  s.portOn p && c.en && (c.portsOf h).contains p && q % pp == 0 &&
    decide ((SMap.get (dflt EgS.reset) s.egs (1024 * h + e)).since ≤ q) && decide (q + pp ≤ (s.die h).tide)

/-- The packet for position q has waited 250 µs since the start of position q + P (12 R382). -/
def State.egLate (s : State) (p e q : Nat) : Bool :=
  decide (q + s.perPacket (s.cfgAt (egReg (p / 2) e)).ptime + (if s.rate96 then 24 else 12) ≤ (s.die (p / 2)).tide)

/-- The packet for position q has been taken: the stream goes on behind it. -/
def State.egTaken (s : State) (p e q : Nat) : State :=
  let i := 1024 * (p / 2) + e
  let x := SMap.get (dflt EgS.reset) s.egs i
  { s with egs := SMap.set (dflt EgS.reset) s.egs i { x with since := q + s.perPacket (s.cfgAt (egReg (p / 2) e)).ptime } }

/-! ### Request lines of DMA channels (11 R350, 12 R377, R383) -/

/-- A packet slot of egress stream e begins at a position of a hub. -/
def State.slotAt (s : State) (h e q : Nat) : Bool :=
  let c := s.cfgAt (egReg h e)
  c.en && q % s.perPacket c.ptime == 0

/-- A line that the tide drives asserts at a position of the engine's die: of kind 1 a block, a scene tick or a quarter-block begins there; of
kind 3 a packet slot of either stream of the pair. -/
def State.tideLine (s : State) (e r q : Nat) : Bool :=
  let n := r % 512
  if r / 512 = 1 then q % (if n = 0 then 16 else if n = 1 then 512 else 4) == 0
  else e < 2 && (s.slotAt e (2 * n) q || s.slotAt e (2 * n + 1) q)

/-- DMA_REQUEST: the line that a channel selects asserts: once for each packet written, and once at each position of a line that the tide
drives. -/
def execDmaRequest (e : Fin 14) (ch : Fin 64) (s : State) : Host.Outcome State Fault Refusal :=
  let i := 64 * e.val + ch.val
  let r := s.chReqsel e ch
  let q := (s.die (engDie e)).tide
  let due := SMap.get (dflt 0) s.lineDue i
  if !s.chActs e ch || !reqselOk (engDie e) r then .next s
  else if r / 512 = 2 ∧ 0 < due then .next ({ s with lineDue := SMap.set (dflt 0) s.lineDue i (due - 1) }.chRequest e ch)
  else if (r / 512 = 1 ∨ r / 512 = 3) ∧ s.tideLine e r q = true ∧ SMap.get (dflt 0) s.lineAt i ≠ q + 1 then
    .next ({ s with lineAt := SMap.set (dflt 0) s.lineAt i (q + 1) }.chRequest e ch)
  else .next s

/-- EGRESS_PACKET_SEND (12 R380, R382). -/
def execEgressPacketSend (p : Fin 4) (e : Fin 1024) (q : BitVec 56) (s : State) : Host.Outcome State Fault Refusal :=
  if !s.egDue p.val e.val q.toNat || s.egLate p.val e.val q.toNat then .next s
  else
    let a := egReg (p.val / 2) e.val
    let s := s.egAsk p.val a
    let s := { s with sent := some (s.egPacket p.val e.val q.toNat) }
    let s := (s.egTaken p.val e.val q.toNat).txFrame p.val (s.frameBytes (s.cfgAt a) (s.fld a 24 12 != 0))
    .next (s.addSat (egStat (p.val / 2) e.val) 0 32 1)

/-- EGRESS_PACKET_DROP (12 R382): TXLATE in PSTICKY and in the stream's status. -/
def execEgressPacketDrop (p : Fin 4) (e : Fin 1024) (q : BitVec 56) (s : State) : Host.Outcome State Fault Refusal :=
  if !s.egDue p.val e.val q.toNat || !s.egLate p.val e.val q.toNat then .next s
  else .next (((s.egTaken p.val e.val q.toNat).setBit (egStat (p.val / 2) e.val) 32 true).portSticky p.val 3)

end Sys2Proof.Machine
end

