-- ==== Sys2Proof/Machine/Points.lean ====
section
/-! DEFINITION. Observation points and the TMX balls of H0 (17 R495, R496). -/

namespace Sys2Proof.Machine
open Sys2Proof

/-- The level of local point `p` of a lattice die n at work. Levels that the state holds are given; request and acknowledge lines, ticks
and other pulses are free (assumption 87); reserved points drive 0. -/
def State.pointLattice (s : State) (n p : Nat) : Bool :=
  let d := n + 2
  let line := Config.lineLevel (512 * d + p) s.fresh
  if p = 3 then nsMem s.held d
  else if p < 5 then line
  else if 16 ≤ p ∧ p < 216 then
    let k := (p - 16) / 8
    let i := (p - 16) % 8
    let w := if (s.comet n).carry = some k then none else if k = 24 then (s.comet n).carry else some k
    if i = 5 then (match w with | some j => (s.cl n j).busy | none => false)
    else if i = 7 then k == 24 && (s.comet n).carry.isSome
    else line
  else if 216 ≤ p ∧ p < 264 then
    let c := coreOf d (25 + (p - 216) / 4)
    if (p - 216) % 4 = 2 then (SMap.get (dflt StrmS.reset) s.strm c).err
    else if (p - 216) % 4 = 3 then (s.core c).waiting
    else line
  else if p = 267 then nsMem s.linksDown n
  else if p = 271 then nsMem s.linksDown (6 + n)
  else if 264 ≤ p ∧ p < 271 then line
  else false

/-- The level of local point `p` of a hub h at work. -/
def State.pointHub (s : State) (h p : Nat) : Bool :=
  let line := Config.lineLevel (512 * h + p) s.fresh
  if p = 3 then nsMem s.held h
  else if p < 5 then line
  else if p = 5 then s.active == h
  else if 16 ≤ p ∧ p < 48 then
    let x := s.core (coreOf h ((p - 16) / 8))
    let i := (p - 16) % 8
    if i < 2 then line else if i = 2 then x.waiting else if i = 3 then getBits (SMap.get (fun _ => 0) x.sys 0) 12 1 == 1 else false
  else if 264 ≤ p ∧ p < 280 then
    if (p - 264) % 4 = 3 then s.chanFailed h ((p - 264) / 4) else line
  else if 296 ≤ p ∧ p < 300 then line
  else false

/-- Every point of a die that is high. -/
def State.pointsHigh (s : State) (d : Nat) : List Nat :=
  (upTo 512).filter fun p => if d < 2 then s.pointHub d p else s.pointLattice (d - 2) p

/-- A die stops in HOLD or is fenced: its points hold their last levels (17 R496). -/
def State.pointsStop (s : State) (d : Nat) : State :=
  if (s.pointStop.any fun e => e.1 == d) then s else { s with pointStop := SMap.set (fun _ => []) s.pointStop d (2 ^ 9 :: s.pointsHigh d) }

/-- The level of an observation point: die index in [11:9], local point in [8:0]. -/
def State.pointLevel (s : State) (q : Nat) : Bool :=
  let d := q / 512
  let p := q % 512
  match s.pointStop.find? fun e => e.1 == d with
  | some e => nsMem e.2 p
  | none => if d < 2 then s.pointHub d p else s.pointLattice (d - 2) p

/-- The level of ball TMX[n] (17 R495): 0 where it is off, the point's level with DIV = 0; a ball that divides its point's transitions has
a free level, as the transitions of pulses are not counted (assumption 87). -/
def State.tmxBall (s : State) (n : Nat) : Bool :=
  let r := s.rg (counterBlock 0 + 0xF800 + 8 * n)
  if getBits r 12 1 = 0 then false
  else if getBits r 13 4 = 0 then s.pointLevel (getBits r 0 12)
  else Config.lineLevel (2 ^ 12 + n) s.fresh

end Sys2Proof.Machine
end

