-- ==== Sys2Proof/Machine/Avail.lean ====
section
/-! DEFINITION. Availability: cluster faults and eclipse, the comet audit, retirement, hub and die loss, the live update, and the
die links (chapter 15, 01 R13-R15, R22). -/

namespace Sys2Proof.Machine
open Sys2Proof

/-! ### The comet's registers (15 Table 15-4) -/

def cometReg (n : Nat) : Nat := clRegBase (n + 2) 24 + 0x8000

/-- A bit of COMETSTICKY, with the comet's trouble bit. -/
def State.cometSticky (s : State) (n i : Nat) : State := (s.setBit (cometReg n + 0x10) i true).troubleCluster (n + 2) 24

/-- COMETSTAT shows the comet. -/
def State.cometShow (s : State) (n mode carry : Nat) (planned : Bool) : State :=
  (((s.setFld (cometReg n) 0 2 mode).setFld (cometReg n) 2 5 carry).setBit (cometReg n) 7 planned)

/-- A cluster's core runs with a loaded runtime: it runs, and no update of it is in progress (15 R455). -/
def State.coreLoaded (s : State) (n k : Nat) : Bool :=
  let c := coreOf (n + 2) k
  (s.core c).running && !(s.core c).halted && !((s.update.stat = 1 ∨ s.update.stat = 2) ∧ s.update.unit = c)

/-! ### Lost, eclipsed and released clusters (15 R443-R446, R455) -/

/-- A cluster is lost: it is fenced, does no further work, and its outputs stay silent (15 R446). -/
def State.loseCluster (s : State) (n k : Nat) : State :=
  let s := s.modCl n k fun x => { x with cond := 2, work := [], busy := false, quarter := 0 }
  let s := s.modComet n fun c => { c with waiting := if c.waiting = some k then none else c.waiting }
  (s.cometSticky n 2).degrade

/-- The register words of a unit that its work takes with it: PTSTAT, CHKREC, SLOPE and SUM records, FLIPPOS, FREEZE, FIRSTAT,
PBUS, the slots and the biquads. -/
def carriedRegs (o : Nat) : Bool := o == 0 || o == 0x10 || o == 0x30 || o == 0x38 || (0x1000 ≤ o && o < 0x6000 && o != 0x1008 && o != 0x1018 && o != 0x1020)

/-- Memory of one range put in the place of another. -/
def State.copyMem (s : State) (src dst n : Nat) : State :=
  let cs := s.mem.filter fun c => decide (src ≤ c.1) && decide (c.1 < src + n)
  let m := cs.foldl (fun m c => memWrite m (c.1 - src + dst) c.2) (memZero s.mem dst n)
  { s with mem := m }

/-- The work of a cluster moves between its own unit and the comet: registers, the two table halves, the staging area and the
regions of their gate, whose bases move with the halves (15 R445). -/
def State.moveWork (s : State) (n from_ to_ : Nat) : State :=
  let a := clRegBase (n + 2) from_
  let b := clRegBase (n + 2) to_
  let inA (x base : Nat) : Bool := decide (base ≤ x) && decide (x < base + 0x6000) && carriedRegs (x - base)
  let cleared := s.regs.filter fun p => !inA p.1 b
  let regs := (s.regs.filter fun p => inA p.1 a).foldl (fun m p => SMap.set regReset m (p.1 - a + b) p.2) cleared
  let s := { s with regs := regs }
  let s := (upTo 48).foldl (fun s j =>
    let v := s.rg (gateReg (n + 2) (3 + 3 * from_) + 0x80 + 8 * j)
    s.setRg (gateReg (n + 2) (3 + 3 * to_) + 0x80 + 8 * j)
      (if j % 3 = 1 ∧ v ≠ 0 then putBits v 0 44 (getBits v 0 44 + to_ * 0x1000000 - from_ * 0x1000000) else v)) s
  let w (k : Nat) : Nat := dieBase (n + 2) + 0x100000000 + k * 0x1000000 + 0x100000
  s.copyMem (w from_) (w to_) 0x102000

/-- The mirror holds the table in force and the one before it, so the comet of an unplanned eclipse finds the outgoing half in its
shadow half, and nothing that a law had prepared: a half that was CHECKING or READY is OPEN again (15 R440, R445; DEDUCED,
assumption 82). -/
def State.shadowFromMirror (s : State) (n k : Nat) : State :=
  match s.mirArea n k with
  | none => s
  | some (a, _) =>
    let dst := s.shadowBase n k
    let src := a + 0x3000 + 8 * s.partCount n k * (1 - (s.cl n k).mirSlot)
    let z := { s with mem := memZero s.mem dst 0x80000 }
    let z := ((s.partsAsc n k).foldl (fun (p : Nat × State) q =>
      (p.1 + 8 * q.2.2, p.2.poke (dst + 8 * q.2.1) (s.peek p.1 (8 * q.2.2)))) (src, z)).2
    if z.shst n k = 3 then z else z.setShst n k 0

/-- The private areas of a cluster's laws in its comet's SRAM start zeroed (15 R445). -/
def State.zeroLawAreas (s : State) (n k : Nat) : State :=
  (s.partDoms n k).foldl (fun s d => (SMap.get (dflt []) s.progs d).foldl (fun s p =>
    if p.kind = 1 then s.zeroRange (coreOf (n + 2) 24) (dieBase (n + 2) + 0x100000000 + 24 * 0x1000000 + lawArea d p.num) p.area
    else s) s) s

/-- The comet takes over a cluster's work with the mirror's state: after an unplanned eclipse the block under render from its start, after
a planned one with no block rendered again (15 R443, R445, R455). A second audit run that is due is still made (15 R448). The figures are
halved from here on (04 R146). -/
def State.takeOver (s : State) (n k : Nat) (planned : Bool) : State :=
  let s := s.moveWork n k 24
  let s := s.modComet n fun c =>
    { c with carry := some k, loading := none, waiting := none, audit := if planned && c.rerun then c.audit else none,
             rerun := planned && c.rerun }
  let s := if planned then s else ((s.shadowFromMirror n k).zeroLawAreas n k).renderAgain n k
  (if (s.cl n k).busy then s else s.renderStart n k).reqUpdate n

/-- A cluster gets its work back from the comet; its blocks may complete in their spare blocks. After a fault it renders from its next block
that has no completion word, `again`, and at a release from the boundary on (15 R448, R455). -/
def State.handBack (s : State) (n k : Nat) (again : Bool) : State :=
  let s := s.moveWork n 24 k
  let s := s.modComet n fun c => { c with carry := none, planned := false, releasing := false }
  let s := s.modCl n k fun x => { x with cond := 0 }
  let s := if again then s.renderAgain n k else s.graceTop n k
  (s.cometShow n 2 0 false).reqUpdate n

/-- The notices of an eclipse over T0, sent to both hubs in the comet's name (15 Table 15-3, 01 Table 1-7; assumption 99). -/
def State.eclipseNotice (s : State) (n : Nat) : State := (s.message (mid (n + 2) 24 2 1) 0).message (mid (n + 2) 24 2 1) 1

/-- An unplanned eclipse begins: the cluster is fenced, any audit abandoned, and the comet loads (15 R443, R444). The laws of an
open window do not go on (15 R445). -/
def State.beginEclipse (s : State) (n k : Nat) : State :=
  let s := s.modCl n k fun x => { x with cond := 1 }
  let s := s.modComet n fun c => { c with loading := some k, planned := false, waiting := none, audit := none, rerun := false }
  let s := (s.cometShow n 1 k false).cometSticky n 3
  let s := s.setLaw n k { LawS.reset with barred := true }
  (s.eclipseNotice n).degrade

/-- A fault of a cluster that renders: an eclipse, after the release of a planned carry where that is possible, or the loss of the
cluster (15 R443, R446, R455). -/
def State.failCluster (s : State) (n k : Nat) : State :=
  let c := s.comet n
  let free := c.carry.isNone && c.loading.isNone && !c.failed
  if !s.covered n k then s.loseCluster n k
  else if free then s.beginEclipse n k
  else
    match c.carry with
    | some j => if c.planned && !c.failed && s.coreLoaded n j then (s.handBack n j true).beginEclipse n k else s.loseCluster n k
    | none => s.loseCluster n k

/-- A comet fails (15 R448): a planned carry is released where its core is loaded, any other carry is lost. -/
def State.cometFail (s : State) (n : Nat) : State :=
  let c := s.comet n
  if c.failed then s
  else
    let carried := c.carry.orElse fun _ => c.loading
    let s := s.modComet n fun c => { c with failed := true, audit := none, rerun := false, waiting := none }
    let s := match carried with
      | some k =>
        if c.planned && c.carry.isSome && s.coreLoaded n k then s.handBack n k true
        else (s.loseCluster n k).modComet n fun c => { c with carry := none, loading := none, planned := false }
      | none => s
    ((s.cometShow n 3 0 false).cometSticky n 1).degrade

/-- The sticky bits of a fault of a cluster: RESIDUE for a residue mismatch, and the trouble bit (03 R100, R116). They are the
cluster's own, whoever does its work. -/
def State.faultBits (s : State) (n k : Nat) (residue : Bool) : State :=
  let a := clRegBase (n + 2) k
  let s := if residue && !s.bit (a + 0x18) 4 then (s.setBit (a + 0x18) 4 true).setBit (a + 0x48) 5 true else s
  s.troubleCluster (n + 2) k

/-- CLUSTER_FAULT (15 R443, R446): a fault of a cluster, or of the comet. Faults of a fenced cluster are not detected, nor
is one on a die in HOLD, which does no work (02 R74). -/
def State.clusterFault (s : State) (n k : Nat) (residue : Bool) : State :=
  if !s.live || !s.dieActs (n + 2) then s
  else if k = 24 then (s.faultBits n 24 residue).cometFail n
  else
    match (s.cl n k).cond with
    | 0 => (s.faultBits n k residue).failCluster n k
    | 3 =>
      let s := (s.faultBits n k residue).modCl n k fun x => { x with cond := 1 }
      ((s.modComet n fun c => { c with planned := false, releasing := false }).setBit (cometReg n) 7 false).degrade
    | _ => s

/-- CLUSTER_FAULT as a command; a fault by an uncorrectable word records its address too (01 R17). -/
def execClusterFault (d : Fin 6) (k : Fin 25) (f : FaultKind) (s : State) : Host.Outcome State Fault Refusal :=
  match f with
  | .uncorrectable a => .next ((s.ueMet a.toNat).clusterFault d.val k.val false)
  | .residue => .next (s.clusterFault d.val k.val true)
  | _ => .next (s.clusterFault d.val k.val false)

/-- ECLIPSE_LOAD_COMPLETE (15 R443, R444): the comet starts the blocks that have no completion word. -/
def execEclipseLoadComplete (d : Fin 6) (s : State) : Host.Outcome State Fault Refusal :=
  match (s.comet d.val).loading with
  | some k => if s.dieActs (d.val + 2) then .next (s.takeOver d.val k false) else .next s
  | none => .next s

/-- COMETCMD (15 R456): ECLIPSE names a covered, rendering cluster and is ignored while MODE is 1 or 3; RELEASE is ignored unless
PLANNED is 1. -/
def State.cometcmd (s : State) (n v : Nat) : State :=
  let k := v % 32
  let c := s.comet n
  let mode := s.fld (cometReg n) 0 2
  let s := if bitOf v 5 && mode != 1 && mode != 3 && decide (k < 24) && s.live && (s.cl n k).cond == 0 && s.covered n k then
      s.modComet n fun c => { c with waiting := some k }
    else s
  if bitOf v 6 && c.planned then s.modComet n fun c => { c with releasing := true } else s

/-- ECLIPSE and RELEASE as commands of their own. -/
def execEclipse (d : Fin 6) (k : BitVec 5) (s : State) : Host.Outcome State Fault Refusal :=
  if s.dieActs (d.val + 2) then .next (s.cometcmd d.val (k.toNat + 32)) else .next s
def execRelease (d : Fin 6) (s : State) : Host.Outcome State Fault Refusal :=
  if s.dieActs (d.val + 2) then .next (s.cometcmd d.val 64) else .next s

/-- The boundary of 15 R455: the start of the render block at 512 s + 48 of a scene tick whose flip was made and whose shadow half is
free. -/
def State.plannedBoundary (s : State) (n k : Nat) : Bool :=
  let pos := (s.die (n + 2)).tide
  pos % 512 == 48 && s.flippedAt n k (pos / 512) && s.shst n k == 0

/-- PLANNED_ECLIPSE_TAKE_EFFECT (15 R455). -/
def execPlannedEclipseTakeEffect (d : Fin 6) (s : State) : Host.Outcome State Fault Refusal :=
  let n := d.val
  let c := s.comet n
  match c.waiting with
  | some k =>
    if s.live && s.dieActs (n + 2) && c.carry.isNone && c.loading.isNone && !c.failed && (s.cl n k).cond == 0 && s.covered n k &&
        s.plannedBoundary n k then
      let s := (s.takeOver n k true).modComet n fun c => { c with planned := true }
      .next ((s.modCl n k fun x => { x with cond := 3 }).cometShow n 1 k true)
    else .next s
  | none => .next s

/-- RELEASE_TAKE_EFFECT (15 R455). -/
def execReleaseTakeEffect (d : Fin 6) (s : State) : Host.Outcome State Fault Refusal :=
  let n := d.val
  let c := s.comet n
  match c.carry with
  | some k =>
    if s.live && s.dieActs (n + 2) && c.planned && c.releasing && s.plannedBoundary n k then .next (s.handBack n k false) else .next s
  | none => .next s

/-! ### The audit (15 R447, R448) -/

/-- The next cluster to audit: covered and rendering, from NEXT on, wrapping. -/
def State.nextAuditee (s : State) (n : Nat) : Option Nat :=
  ((upTo 24).map fun i => ((s.comet n).nextAudit + i) % 24).find? fun k => s.covered n k && (s.cl n k).cond == 0

/-- The update of a comet's core is in progress, and its audit pauses (15 R454). -/
def State.cometUpdating (s : State) (n : Nat) : Bool :=
  (s.update.stat == 1 || s.update.stat == 2) && s.update.unit == coreOf (n + 2) 24

/-- An audit starts with a render block at level 0 on a comet that carries nothing. -/
def State.auditStart (s : State) (n blk level : Nat) : State :=
  let c := s.comet n
  if c.failed || c.carry.isSome || c.loading.isSome || c.rerun then s
  else if level ≠ 0 ∨ s.cometUpdating n = true then (s.modComet n fun c => { c with audit := none }).setFld (cometReg n) 0 2 2
  else match s.nextAuditee n with
    | none => (s.modComet n fun c => { c with audit := none }).setFld (cometReg n) 0 2 2
    | some k =>
      let s := s.modComet n fun c => { c with audit := some (k, blk), nextAudit := (k + 1) % 24 }
      (s.setFld (cometReg n) 0 2 0).setFld (cometReg n) 8 5 ((k + 1) % 24)

/-- AUDIT_CRC (15 R447): the comet's own CRC-32C is over the block's words as the lattice and output stage form them, which the comet
computes bit-identically (03 R99). -/
def execAuditCrc (d : Fin 6) (crc : BitVec 32) (s : State) : Host.Outcome State Fault Refusal :=
  let n := d.val
  match (s.comet n).audit with
  | some (k, blk) =>
    let ws := (s.cl n k).words
    if (s.comet n).rerun || ws.length != 8 * s.nOut || !s.dieActs (n + 2) then .next s
    else
      let s := (s.addSat (cometReg n + 0x20) 0 32 1).count (n + 2) 24 2 7 1 EvAttr.none
      if crc32c (ws.flatMap fun w => natLE 8 w.toNat) = crc.toNat then .next (s.modComet n fun c => { c with audit := none })
      else
        let s := (s.addSat (cometReg n + 0x20) 32 32 1).cometSticky n 0
        let s := if s.bit (cometReg n + 0x18) 63 then s
          else s.setRg (cometReg n + 0x18) (BitVec.ofNat 64 (k + 256 * (blk % 2 ^ 40) + 2 ^ 63))
        .next (s.modComet n fun c => { c with rerun := true })
  | none => .next s

/-- AUDIT_RERUN_COMPLETE (15 R448): agreement fails the cluster, disagreement the comet. -/
def execAuditRerunComplete (d : Fin 6) (agrees : Bool) (s : State) : Host.Outcome State Fault Refusal :=
  let n := d.val
  match (s.comet n).rerun, (s.comet n).audit with
  | true, some (k, _) =>
    if !s.dieActs (n + 2) then .next s else
    let s := s.modComet n fun c => { c with audit := none, rerun := false }
    if agrees then .next (s.clusterFault n k false) else .next (s.cometFail n)
  | _, _ => .next s

/-! ### Die links (01 R13-R15) -/

/-- Link l: Ln-H0 for l = n, Ln-H1 for l = 6 + n, H0-H1 for l = 12. A direction is 1 towards the hub, or from H0 to H1. -/
def State.link (s : State) (l : Nat) (up : Bool) : LinkS := SMap.get (dflt LinkS.reset) s.links (2 * l + b2n up)
def State.setLink (s : State) (l : Nat) (up : Bool) (x : LinkS) : State :=
  { s with links := SMap.set (dflt LinkS.reset) s.links (2 * l + b2n up) x }

/-- Link blocks in a replay buffer (01 Table 1-1). -/
def replayMax (l : Nat) : Nat := if l = 12 then 128 else 64

/-- The hubs' and lattice dies' ends of a direction of a link: the die or hub that sends and the one that receives. -/
def linkEnds (l : Nat) (up : Bool) : Nat × Nat :=
  let e := if l < 6 then (l + 2, 0) else if l < 12 then (l % 6 + 2, 1) else (0, 1)
  if up then e else (e.2, e.1)

/-- The counted unit and the meter of a link at one of its ends (17 Tables 17-1, 17-5). -/
def linkUnit (l d : Nat) : Nat × Nat :=
  if l = 12 then (22, 13) else if d < 2 then (16 + l % 6, 7 + l % 6) else (41 + l / 6, l / 6)

/-- A link event at an end (17 Table 17-3, class 5). -/
def State.linkCount (s : State) (l d ev : Nat) : State := s.count d (linkUnit l d).1 5 ev 1 EvAttr.none

/-- A link block is sent and kept until it is acknowledged; `via` are the links that it still has to cross. -/
def State.linkSend (s : State) (l : Nat) (up : Bool) (data : Flits) (via : List Nat) : State :=
  let x := s.link l up
  let d := (linkEnds l up).1
  ((s.setLink l up { x with next := x.next + 1, unacked := x.unacked ++ [⟨x.next, data, via⟩] }).linkCount l d 0).meter d
    (linkUnit l d).2 1 256

/-- A flit of class T4 is among the four (01 R23). -/
def hasT4 (f : Flits) : Bool := [0, 1, 2, 3].any fun i => bitsOf f.tc.toNat (3 * i) 3 == 4

/-- A block may be sent on a direction of a link: its replay buffer has room, and a hub that withholds T4 credits gets no T4 flit
(01 Table 1-1, 02 R71). -/
def State.linkRoom (s : State) (l : Nat) (up : Bool) (data : Flits) : Bool :=
  decide ((s.link l up).unacked.length < replayMax l) && !(hasT4 data && s.t4Withheld (linkEnds l up).2)

/-- A link and direction as one number. -/
def hop (l : Nat) (up : Bool) : Nat := 2 * l + b2n up

/-- The detour of link H0-H1, through the lowest-numbered lattice die with both links up (01 Table 1-2). -/
def State.hubDetour (s : State) (up : Bool) : Option (List Nat) :=
  ((upTo 6).find? fun n => !nsMem s.linksDown n && !nsMem s.linksDown (6 + n)).map fun n =>
    if up then [hop n false, hop (6 + n) true] else [hop (6 + n) false, hop n true]

/-- The detour of a direction of a link (01 Table 1-2). A detour over H0-H1 takes that link's own detour while it is down too; with both
links of a lattice die down there is none. -/
def State.detourPath (s : State) (l : Nat) (up : Bool) : Option (List Nat) :=
  let hubs (up : Bool) : Option (List Nat) := if nsMem s.linksDown 12 then s.hubDetour up else some [hop 12 up]
  if l < 12 then
    let o := if l < 6 then 6 + l else l - 6
    if nsMem s.linksDown o then none
    else if up then (hubs (decide (6 ≤ l))).map fun p => hop o true :: p
    else (hubs (decide (l < 6))).map fun p => p ++ [hop o false]
  else s.hubDetour up

/-- The first link that a block for a direction of a link takes, the links after it, and whether that is a detour; none while it has to
wait in its sender (01 R14). -/
def State.onward (s : State) (l : Nat) (up : Bool) (data : Flits) (via : List Nat) : Option (Nat × List Nat × Bool) :=
  if nsMem s.linksDown l then
    match s.detourPath l up with
    | some (h :: hs) => if s.linkRoom (h / 2) (h % 2 == 1) data then some (h, hs ++ via, true) else none
    | _ => none
  else if s.linkRoom l up data then some (hop l up, via, false) else none

/-- A block sent on the link that was found for it. -/
def State.linkPut (s : State) (p : Nat × List Nat × Bool) (data : Flits) : State :=
  let s' := s.linkSend (p.1 / 2) (p.1 % 2 == 1) data p.2.1
  if p.2.2 then s'.linkCount (p.1 / 2) (linkEnds (p.1 / 2) (p.1 % 2 == 1)).1 3 else s'

/-- LINK_BLOCK_SEND (01 R12-R14): on the link, or on its detour once it is down, while the replay buffer has room; otherwise the sender
keeps it. -/
def execLinkBlockSend (l : Fin 13) (up : Bool) (data : Flits) (s : State) : Host.Outcome State Fault Refusal :=
  match s.onward l.val up data [] with
  | some p => .next (s.linkPut p data)
  | none => .next s

/-- The links that a block still has to cross after a link. -/
def LinkS.viaOf (x : LinkS) (seq : Nat) : List Nat := match x.unacked.find? (·.seq == seq) with | some b => b.via | none => []

/-- A good link block is acknowledged and passed on: to its next link, or delivered. One whose next link has no room for it is not
taken, and its sender keeps it (01 R13; assumption 102). -/
def State.linkTake (s : State) (l : Nat) (up : Bool) (seq : Nat) (data : Flits) : State :=
  let x := s.link l up
  let d := (linkEnds l up).2
  let take (got : Option Flits) : State :=
    { (s.setLink l up { x with expect := x.expect + 1, got := got }).meter d (linkUnit l d).2 0 256 with resp := .link true seq }
  match x.viaOf seq with
  | [] => take (some data)
  | h :: hs =>
    match s.onward (h / 2) (h % 2 == 1) data hs with
    | some p => (take x.got).linkPut p data
    | none => s

/-- LINK_BLOCK_RECEIVE (01 R13): delivered in order and once, and acknowledged; one with a CRC error or out of order is rejected.
The CRC-32C is over the block's 256 bytes. -/
def execLinkBlockReceive (l : Fin 13) (up : Bool) (seq : Nat) (data : Flits) (crc : BitVec 32) (s : State) :
    Host.Outcome State Fault Refusal :=
  if nsMem s.linksDown l.val then .next s
  else if crc32c (natLE 256 data.bits.toNat) ≠ crc.toNat then
    .next { s.linkCount l.val (linkEnds l.val up).2 2 with resp := .link false seq }
  else if seq ≠ (s.link l.val up).expect then .next { s with resp := .link false seq }
  else .next (s.linkTake l.val up seq data)

/-- Blocks of a direction of a link that is down go onto its detour, oldest first, until one has to wait (01 R14). -/
def State.detourGo (l : Nat) (up : Bool) : List LinkBlk → State → State
  | [], s => s
  | b :: bs, s =>
    match s.onward l up b.data b.via with
    | some p =>
      let x := s.link l up
      State.detourGo l up bs ((s.setLink l up { x with unacked := x.unacked.filter fun c => c.seq != b.seq }).linkPut p b.data)
    | none => s

/-- The unacknowledged blocks of a link that is down are replayed on its detour, in sequence order, but for those that its receiver has
taken: no block is delivered twice (01 R13, R14). -/
def State.detour (s : State) (l : Nat) (up : Bool) : State :=
  let x := s.link l up
  let left := x.unacked.filter fun b => decide (x.expect ≤ b.seq)
  State.detourGo l up left (s.setLink l up { x with unacked := left })

/-- LINK_BLOCK_ACKNOWLEDGE (01 R13): the acknowledged block leaves the replay buffer, and the run of failed replays ends. Blocks of links
that are down, which waited for room on a detour, go on. -/
def execLinkBlockAcknowledge (l : Fin 13) (up : Bool) (seq : Nat) (s : State) : Host.Outcome State Fault Refusal :=
  let x := s.link l.val up
  if nsMem s.linksDown l.val || !(x.unacked.any (·.seq == seq)) then .next s
  else
    let s := s.setLink l.val up { x with unacked := x.unacked.filter fun p => p.seq != seq, replays := 0 }
    .next (s.linksDown.foldl (fun s m => (s.detour m true).detour m false) s)

/-- The trouble bit of a link (15 Table 15-7). -/
def State.troubleLink (s : State) (l : Nat) : State :=
  if l < 6 then s.trouble 42 l else if l < 12 then s.trouble 43 (l - 6) else s.trouble 42 6

/-- A lattice die is fenced (15 R453). -/
def State.dieFence (s : State) (n : Nat) : State :=
  let d := n + 2
  if nsMem s.fenced d then s
  else
    let s := { s.pointsStop d with fenced := nsAdd s.fenced d, held := nsDel s.held d }
    let s := (upTo 25).foldl (fun s k => s.modCl n k fun x => { x with work := [], busy := false, quarter := 0 }) s
    let s := (s.trouble 49 0).degrade
    if s.dev = 5 && s.held.isEmpty then s.setDev s.devBack else s

/-- LINK_DOWN (01 R14): the link stays down until reset; a die with both links down is fenced. A die whose ticks came over the link
takes the other path at the next block boundary (01 R15). -/
def State.linkDown (s : State) (l : Nat) : State :=
  if nsMem s.linksDown l then s
  else
    let s := { s with linksDown := nsAdd s.linksDown l }
    let s := ((s.troubleLink l).detour l true).detour l false
    let s := s.degrade
    let s := if l < 12 ∧ l / 6 = s.active then s.modDie (l % 6 + 2) fun d => { d with detourNext := some true } else s
    if l < 12 ∧ nsMem s.linksDown (l % 6) ∧ nsMem s.linksDown (6 + l % 6) then s.dieFence (l % 6) else s

def execLinkDown (l : Fin 13) (s : State) : Host.Outcome State Fault Refusal := .next (s.linkDown l.val)

/-- LINK_REPLAY (01 R13, R14): the sender replays from the rejected block on, and keeps every block that has not been acknowledged. A
rejection that follows eight replays with no acknowledge between them takes the link down: all eight have failed. -/
def execLinkReplay (l : Fin 13) (up : Bool) (seq : Nat) (s : State) : Host.Outcome State Fault Refusal :=
  let x := s.link l.val up
  if nsMem s.linksDown l.val || !(x.unacked.any (·.seq == seq)) then .next s
  else if 8 ≤ x.replays then .next (s.linkDown l.val)
  else .next ((s.setLink l.val up { x with replays := x.replays + 1 }).linkCount l.val (linkEnds l.val up).1 1)

/-- DIE_FENCE (15 R453). -/
def execDieFence (d : Fin 6) (s : State) : Host.Outcome State Fault Refusal := .next (s.dieFence d.val)

/-- MIRROR_ARRAY_LOSS (15 R442). -/
def State.arrayLoss (s : State) (n a : Nat) : State :=
  let s := (upTo 4).foldl (fun s i => s.setBit (cometReg n + 0x100 + 8 * (4 * a + i)) 63 false) s
  let s := s.modComet n fun c => match c.audit with
    | some (k, _) => if k / 4 = a then { c with audit := none, rerun := false } else c
    | none => c
  let s := { s with lostArrays := nsAdd s.lostArrays (6 * n + a) }
  let s := { s with prot := s.protected_ }
  (s.trouble (44 + (6 * n + a) / 8) ((6 * n + a) % 8)).degrade

def execMirrorArrayLoss (d a : Fin 6) (s : State) : Host.Outcome State Fault Refusal := .next (s.arrayLoss d.val a.val)

/-! ### Hub loss (15 R450-R452) -/

/-- The delays of a die's two tick paths, measured in BOOT and after every path change: free values (01 R15, 02 R50; assumption 1). -/
def State.calibrate (s : State) (d : Nat) : State :=
  let (a, s) := s.draw
  let (b, s) := s.draw
  s.modDie d fun x => { x with calDirect := a.toNat % 2 ^ 16, calOther := b.toNat % 2 ^ 16 }

/-- The path of a die's ticks follows the link to the active hub; another active hub is another path, measured again: where it changes, the die takes the other path, with that path's
calibrated delay, at the next block boundary (01 R15). -/
def State.tickPath (s : State) (d : Nat) : State :=
  let down := nsMem s.linksDown (6 * s.active + (d - 2))
  if (s.die d).detour == down then (s.modDie d fun x => { x with detourNext := none }).calibrate d
  else s.modDie d fun x => { x with detourNext := some down }

/-- The calibrated delay in force on a die's tick path (01 R15). -/
def State.tickDelay (s : State) (d : Nat) : Nat := if (s.die d).detour then (s.die d).calOther else (s.die d).calDirect

/-- The duties of the active hub move to hub `h`: tide, runtime, collector and service port; a session ends (14 R433). -/
def State.moveRoles (s : State) (h : Nat) : State :=
  let s := if s.session then s.endSession else s
  let set (s : State) (i : Nat) : State :=
    let on := i == h
    ((s.setBit (hubReg i 6) 2 on).setBit (hubReg i 10) 9 on).setBit (counterBlock i + 0xF060) 34 on
  let s := set (set { s with active := h, canActive := h } 0) 1
  let s := (upTo 6).foldl (fun s n => (s.message (mid h 5 2 0) (n + 2)).tickPath (n + 2)) s
  (s.troubleHub h 2 2).troubleHub h 2 3

/-- The path of a transfer, by its number, goes through a hub: a mailbox by its device's port, the service port by the serving
controller; NGP by the media ports that carried it. -/
def State.pathOn (s : State) (q h : Nat) : Bool :=
  if q < 16 then (s.ld q).port == h
  else if q < 32 then (SMap.get (dflt []) s.ngpHubs (q - 16)).contains h
  else s.canActive == h

/-- The logical devices whose vector 0 the fence of H0 signals beside its events: MSI-X is enabled, and the event does not signal it, by
its policy or because its log is full (13 R406, R409). -/
def State.fenceList (s : State) : List Nat :=
  (upTo 15).filter fun k =>
    let x := s.ld k
    bitOf (x.cfgWord 0x40).toNat 31 && (!bitOf x.policy (logNum .failure) || decide (64 ≤ (x.log .failure).length))

/-- A hub is fenced (15 R450, R451, Table 15-6). Its port's link goes down, and the requests that wait there are lost (13 R409). -/
def State.hubFence (s : State) (h : Nat) : State :=
  if nsMem s.fenced h then s
  else
    let old := s.aks
    let s := { s with xfers := s.xfers.filter fun p => !s.pathOn p.1 h }
    let s := (upTo 15).foldl (fun s k => s.modLd k fun x =>
      { x.setQueue h [] with port := if x.port = h then 1 - h else x.port }) { s with cxHeld := SMap.set (dflt []) s.cxHeld h [] }
    let s := if s.imgOwner.any (fun q => s.pathOn q h) && !s.imgWait && s.dev == 1 then s.imgDrop else s
    let s := if s.stageOwner.any (fun q => s.pathOn q h) && s.stageWait.isNone then s.stageDrop else s
    let s := { s.pointsStop h with fenced := nsAdd s.fenced h, held := nsDel s.held h, hostWait := true, col := SMap.set (dflt none) s.col h none }
    let s := (s.setBit (counterBlock h + 0xF060) 32 false).ptpHubLost h
    let s := (upTo 6).foldl (fun s n => s.modDie (n + 2) fun d => if h = 0 then { d with hub0 := false } else { d with hub1 := false }) s
    let s := ((s.setFld (hubReg h 9) 0 8 0).troubleHub h 2 0).akMoved old
    let s := if s.active = h then s.moveRoles (1 - h)
      else if s.canActive = h then { s with canActive := s.active } else s
    let ks := if h = 0 then s.fenceList else []
    let s := ks.foldl (fun s k => s.msixSignal k 0) (s.postFailure 1 h)
    let s := s.degrade.soleShow
    if s.dev = 5 && s.held.isEmpty then s.setDev s.devBack else s

/-- HUB_FENCE (15 R450). -/
def execHubFence (h : Fin 2) (s : State) : Host.Outcome State Fault Refusal :=
  if nsMem s.fenced (1 - h.val) then .next s else .next (s.hubFence h.val)

/-- HUB_PATH_LOSS (15 R450): the other hub found no path for 1 µs and fences this one. -/
def execHubPathLoss (h : Fin 2) (s : State) : Host.Outcome State Fault Refusal :=
  if nsMem s.fenced (1 - h.val) then .next s else .next (s.hubFence h.val)

/-! ### Watchdogs (15 R438) -/

/-- The die of a watched unit is in HOLD, or a link's end is and the hubs have been told: its watchdogs do not expire (02 R73, R74). -/
def State.watchQuiet (s : State) (u : WatchUnit) : Bool :=
  match u with
  | .cluster d _ => nsMem s.held (d.val + 2)
  | .core c => nsMem s.held (coreDie c.val)
  | .pair d _ => nsMem s.held (d.val + 2)
  | .link l =>
    if l.val < 12 then (nsMem s.held (l.val % 6 + 2) && (s.die (l.val % 6 + 2)).noticed) || nsMem s.held (l.val / 6)
    else nsMem s.held 0 || nsMem s.held 1
  | .hub h => nsMem s.held h.val
  | .die d => nsMem s.held (d.val + 2)
  | .engine e => nsMem s.held (engDie e.val)
  | .plane d _ _ => nsMem s.held (d.val + 2)

/-- The die whose tide ticks arm a watchdog: of a link, and of its two ends, the hub's or H0 (15 R438). -/
def WatchUnit.die_ (u : WatchUnit) : Nat :=
  match u with
  | .cluster d _ | .pair d _ | .die d | .plane d _ _ => d.val + 2
  | .core c => coreDie c.val
  | .link l => if l.val < 12 then l.val / 6 else 0
  | .hub h => h.val
  | .engine e => engDie e.val

/-- HANDSHAKE_WATCHDOG_EXPIRY (15 R438): two ticks have passed without a handshake of a group that has work outstanding, which its
watchdog sees and no command shows; a die that has had no tick arms none (DESIGN CHOICE, assumption 107). A fault of the unit that holds
the group; a failed hub core's runtime duties move to another (15 Table 15-1). A plane of a region switch is fenced; the other carries the
region alone (01 Table 1-6). -/
def execHandshakeWatchdogExpiry (u : WatchUnit) (s : State) : Host.Outcome State Fault Refusal :=
  if s.watchQuiet u || !(s.die (WatchUnit.die_ u)).tideValid then .next s
  else match u with
  | .cluster d k => .next (s.clusterFault d.val k.val false)
  | .core c =>
    let n := coreDie c.val - 2
    if coreKind c.val = 3 then .next { s.troubleCore c.val with lostHc := nsAdd s.lostHc c.val }
    else if coreKind c.val = 2 then .next ((s.markErr c.val).retireCore n ((coreLocal c.val - 25) / 2) ((coreLocal c.val - 25) % 2 == 1))
    else .next (s.clusterFault n (coreLocal c.val) false)
  | .pair d p => .next (s.troublePair (d.val + 2) p.val)
  | .link l => .next (s.linkDown l.val)
  | .hub h => if nsMem s.fenced (1 - h.val) then .next s else .next (s.hubFence h.val)
  | .die d => .next (s.dieFence d.val)
  | .engine e => .next (s.troubleDma (engDie e.val))
  | .plane d g p => .next { s with planes := nsAdd s.planes (8 * d.val + 2 * g.val + p.val) }

/-! ### The live update (15 R454) -/

/-- The units of an update in order: the standby hub's cores, the active hub's, then on every die the clusters that can be eclipsed
and the comets, then core B and core A of every pair. -/
def State.updateUnits (s : State) : List Nat :=
  let hub (h : Nat) : List Nat := if nsMem s.fenced h then [] else (upTo 4).map (4 * h + ·)
  let dies := (upTo 6).filter fun n => !nsMem s.fenced (n + 2)
  hub (1 - s.active) ++ hub s.active ++
    (upTo 25).flatMap (fun k => (dies.filter fun n => k = 24 ∨ s.covered n k).map fun n => coreOf (n + 2) k) ++
    (upTo 6).flatMap fun p => dies.flatMap fun n => [pairCore n p true, pairCore n p false]

/-- The start of a unit's update: a cluster is put under a planned eclipse, a stream core taken out of its pair. -/
def State.unitStart (s : State) (c : Nat) : State :=
  let n := coreDie c - 2
  let r := coreLocal c
  if coreKind c = 0 then s.modComet n fun x => { x with waiting := some r }
  else if coreKind c = 2 then
    let p := (r - 25) / 2
    let x := s.pairOf n p
    s.setPair n p (if (r - 25) % 2 = 1 then { x with outB := true } else { x with outA := true })
  else s

/-- UPDCMD = 1: refused where no staged image has passed, or a comet has failed or a cluster is eclipsed (16 R478). -/
def State.updStart (s : State) : Nat × State :=
  let refuse := (abCond, { s with update := { s.update with stat := 5 } }.trouble 49 2)
  if s.dev ≠ 3 ∧ s.dev ≠ 4 then (abState, s)
  else if s.update.stat = 1 ∨ s.update.stat = 2 then (abCond, s)
  else if s.stageStat ≠ 2 ∨ ((upTo 6).any fun n => (s.comet n).failed || ((s.comet n).carry.isSome && !(s.comet n).planned) || (s.comet n).loading.isSome) = true then refuse
  else match s.updateUnits with
    | [] => refuse
    | c :: cs => (0, { s with update := ⟨1, c, cs, false⟩ }.unitStart c)

/-- UPDCMD = 2: the update stops after the unit in progress. -/
def State.updStop (s : State) : Nat × State :=
  if s.update.stat = 1 ∨ s.update.stat = 2 then (0, { s with update := { s.update with stop := true } }) else (abCond, s)

/-- Every segment of an image in its DEST (16 R469). -/
def State.loadSegments (s : State) (bs : List Byte) : State :=
  (imgSegs bs).foldl (fun s g => s.runtimePut g.2.2 ((bs.drop g.1).take g.2.1)) s

/-- A core loads the staged runtime and starts it at its ENTRY (16 R469, R478). The spec gives one DEST for every unit, and not where the
old image stays for the units that still run it: each load puts the segments in their DEST (DESIGN CHOICE, assumption 108). -/
def State.coreReload (s : State) (c : Nat) : State :=
  match s.stagedImg with
  | some r => (s.loadSegments s.stageBuf).setCore c (CoreS.reset (r.entries.getD (coreKind c) 0) true)
  | none => s

/-- The unit in progress can be loaded: a hub core of the standby hub, a cluster core under its planned eclipse, a comet core while it
carries nothing, or a stream core; none on a die in HOLD (02 R74). -/
def State.unitReady (s : State) (c : Nat) : Bool :=
  let n := coreDie c - 2
  if !s.dieActs (coreDie c) then false
  else if coreKind c = 3 then coreDie c != s.active
  else if coreKind c = 0 then (s.cl n (coreLocal c)).cond == 3
  else if coreKind c = 1 then (s.comet n).carry.isNone
  else true

/-- UPDATE_UNIT_COMPLETE (15 R454). -/
def execUpdateUnitComplete (s : State) : Host.Outcome State Fault Refusal :=
  let u := s.update
  if (u.stat ≠ 1 ∧ u.stat ≠ 2) ∨ !s.unitReady u.unit then .next s
  else
    let c := u.unit
    let n := coreDie c - 2
    let r := coreLocal c
    let s := s.coreReload c
    let s := if coreKind c = 0 then s.modComet n fun x => { x with releasing := true }
      else if coreKind c = 2 then
        let p := (r - 25) / 2
        let x := s.pairOf n p
        s.setPair n p (if (r - 25) % 2 = 1 then { x with outB := false } else { x with outA := false })
      else s
    if u.stop then .next ({ s with update := { u with stat := 4, todo := [], stop := false } }.trouble 49 2)
    else match u.todo with
      | [] =>
        let s := { s with update := { u with stat := 3 }, runImg := s.stagedImg }
        let slot := match s.stagedImg with | some r => r.slot | none => 255
        .next ((s.measure 6 0 slot (sha s.stageBuf)).trouble 49 1)
      | c :: cs => .next ({ s with update := ⟨if c < 8 then 1 else 2, c, cs, false⟩ }.unitStart c)

/-- HUB_ROLE_SWAP (15 R454): once the standby hub's cores have the new runtime, the roles move to it, at a block boundary. -/
def execHubRoleSwap (s : State) : Host.Outcome State Fault Refusal :=
  let u := s.update
  if u.stat = 1 ∧ coreKind u.unit = 3 ∧ coreDie u.unit = s.active ∧ !nsMem s.fenced (1 - s.active) ∧ (s.die s.active).tide % 16 = 0 then .next (s.moveRoles (1 - s.active))
  else .next s

end Sys2Proof.Machine
end

