-- ==== Sys2Proof/Machine/Runtime.lean ====
section
/-! DEFINITION. The runtime's dictionary service: reads and writes in parts, what each entry does to the hardware, customer
programs, the checks of COMMAND, and the entry into RUN (14 R411-R423, R431; 16 R476, R477; 15 R439-R441; 04 R122, R129-R132). -/

namespace Sys2Proof.Machine
open Sys2Proof

/-! ### The runtime's register writes -/

/-- The hub core of the active hub that has the runtime's duties: the lowest that works (15 R435; the choice is the model's,
assumption 105). -/
def State.rtCore (s : State) : Nat :=
  ((upTo 4).find? fun i => !nsMem s.lostHc (4 * s.active + i) && !(s.core (4 * s.active + i)).halted).getD 0

/-- The runtime writes as that hub core, at M. -/
def State.rtAttr (s : State) : Attr := ⟨mid s.active s.rtCore 0 0, 0, 2, 3⟩

/-- Bits of a register written by the runtime, in a transaction as any other (01 R22, R35); for a die in HOLD the write waits (02 R73,
R74). -/
def State.rtWrite (s : State) (a : Nat) (v mask : Word) : State :=
  match s.reaches s.rtAttr kWrite a with
  | (.ok, t) => (t.performed s.rtAttr a 8 0).regWrite s.rtAttr a v mask
  | (.held, _) => { s with rtWait := s.rtWait ++ [(a, v, mask)] }
  | (_, t) => t

/-- A core loads what it has cached of code anew: 06 R205's sequence, run where code was newly loaded. -/
def State.iflushCore (s : State) (c : Nat) : State := (s.modCore c fun x => { x with icache := [] }).reload c 0 none

/-- What waited for a die is done when it rejoins: register writes in their order, and 06 R205's sequence on its cores. -/
def State.rtRejoin (s : State) (d : Nat) : State :=
  let mine (w : Nat × Word × Word) : Bool := s.placeDie (s.loc w.1) == some d
  let s := (s.rtWait.filter mine).foldl (fun s w => s.rtWrite w.1 w.2.1 w.2.2) { s with rtWait := s.rtWait.filter fun w => !mine w }
  if nsMem s.iflushDue d then
    (s.cores.map (·.1)).foldl (fun s c => if coreDie c = d then s.iflushCore c else s) { s with iflushDue := nsDel s.iflushDue d }
  else s
def State.rtWord (s : State) (a v : Nat) : State := s.rtWrite a (BitVec.ofNat 64 v) (BitVec.allOnes 64)
def State.rtFld (s : State) (a lsb w x : Nat) : State :=
  s.rtWrite a (BitVec.ofNat 64 (x % 2 ^ w * 2 ^ lsb)) (BitVec.ofNat 64 ((2 ^ w - 1) * 2 ^ lsb))

/-- A value's 8-byte words written from an address up. -/
def State.rtWords (s : State) (a : Nat) (bs : List Byte) : State :=
  (upTo ((bs.length + 7) / 8)).foldl (fun s i => s.rtWord (a + 8 * i) (leNat ((bs.drop (8 * i)).take 8))) s

/-- A stream's entry is written with EN = 0, its other words, then whole: while EN is 1 a write changes only EN (12 R370). -/
def State.rtStream (s : State) (a : Nat) (bs : List Byte) : State :=
  let s := (s.rtFld a 0 1 0).rtFld a 1 63 (leNat (bs.take 8) / 2)
  let s := s.rtWords (a + 8) (bs.drop 8)
  s.rtFld a 0 1 (leNat (bs.take 1))

/-- The same on both hubs. -/
def State.onHubs (s : State) (f : Nat → State → State) : State := f 1 (f 0 s)

/-! ### Owners (04 R132) -/

/-- OCFG.OWNER and OCFG.PRIO of an output, set by the monitor. -/
def State.ownerShow (s : State) (o : Nat) : State :=
  let a := s.outReg o
  let d := s.outOwner o
  (s.setFld a 28 4 d).setBit a 27 (s.prioDom != 0 && d == s.prioDom)

/-- The outputs whose OOWNER differs from its default. -/
def State.ownedOuts (s : State) : List Nat :=
  s.dict.filterMap fun e =>
    if outBase 0 * 256 ≤ e.1 ∧ e.1 < (outBase 0 + 72) * 256 then some (128 * (e.1 / 256 - outBase 0) + e.1 % 256 - 1) else none

/-! ### The mirror areas (15 R439-R441) -/

/-- The taps of a FIR value: none stand for one tap of 1.0. -/
def firCoefs (v : List Byte) : List Nat :=
  if v = [] then [0x400000] else (upTo (v.length / 3)).map fun i => leNat ((v.drop (3 * i)).take 3)

/-- The taps of a slot once the values that wait for it are committed: one queued, else one pending, else those it has (15 R440,
R441). -/
def State.tapsToBe (s : State) (n k o : Nat) : Nat :=
  let x := s.slotS n k o
  if (SMap.get (dflt []) s.firQ (25 * n + k)).contains o then
    (firCoefs (s.fVal (famKey (outBase 6) (1536 * n + 64 * k + o)))).length
  else if x.coefNew.isEmpty then x.coef.length else x.coefNew.length

/-- The footprint of a cluster, with slot `slot` taken to have `taps` taps (15 R440). -/
def State.footprint (s : State) (n k slot taps : Nat) : Nat :=
  let p := ((s.parts n k).map (·.2.2)).foldl (· + ·) 0
  let one (o : Nat) : Nat :=
    let t := if o = slot then taps else s.tapsToBe n k o
    4 * t + 4 * (16 * cdiv t 16 + 16)
  cdiv (0x3000 + 16 * p + ((upTo s.nOut).map one).foldl (· + ·) 0 + 0x4000) 4096 * 4096

/-- A FIR value of a covered cluster fits its area (15 R441). -/
def State.firFits (s : State) (o taps : Nat) : Bool :=
  let (n, k, t) := outHome o
  match s.mirArea n k with
  | some (_, len) => decide (s.footprint n k t taps ≤ len)
  | none => true

/-- The covered clusters of an array with their footprints in 4 KiB units, in ascending k, and the units left (15 R439). -/
def placeAreas (rest : Nat) : List (Nat × Nat) → List (Nat × Nat) × Nat
  | [] => ([], rest)
  | (k, f) :: ks =>
    if f ≤ rest then let (l, r) := placeAreas (rest - f) ks; ((k, f) :: l, r) else placeAreas rest ks

/-- MIRDIR of an array's clusters (15 R439); those of an array that is lost, or of a fenced die, are uncovered (15 R442). -/
def State.mirrorPlace (s : State) (n a : Nat) : State :=
  let ks := (upTo 4).map fun i => 4 * a + i
  let there := !nsMem s.lostArrays (6 * n + a) && !nsMem s.fenced (n + 2)
  let (l, rest) := placeAreas (if there then 768 else 0) (ks.map fun k => (k, s.footprint n k 64 0 / 4096))
  let extra := if l.isEmpty then 0 else rest / l.length
  let clear := ks.foldl (fun s k => s.setRg (cometReg n + 0x100 + 8 * k) 0) s
  (l.foldl (fun (p : Nat × State) x =>
    (p.1 + x.2 + extra,
      p.2.setRg (cometReg n + 0x100 + 8 * x.1) (BitVec.ofNat 64 (p.1 + 2 ^ 16 * (x.2 + extra) + 2 ^ 63)))) (768 * a, clear)).2

/-! ### FIR values (04 R122) -/

/-- The next FIR value of a cluster is staged and committed when no commit is pending. -/
def State.firStage (s : State) (n k : Nat) : State :=
  match SMap.get (dflt []) s.firQ (25 * n + k) with
  | [] => s
  | t :: rest =>
    if !s.clActs n k || s.bit (s.clReg n k + 0x1010) 0 then s
    else
      let c := firCoefs (s.fVal (famKey (outBase 6) (1536 * n + 64 * k + t)))
      let s := { s with firQ := SMap.set (dflt []) s.firQ (25 * n + k) rest }
      let base := dieBase (n + 2) + 0x100000000 + s.unit n k * 0x1000000 + 0x200000
      (s.poke base (c.flatMap fun v => natLE 4 v)).firCommit n k t (c.length - 1)

def State.firStageAll (s : State) : State := (s.firQ.map (·.1)).foldl (fun s i => s.firStage (i / 25) (i % 25)) s

/-- Outside RUN no FIR runs and no crossfade begins: a pending commit is installed at a block boundary, and PENDING clears at that
block's end, when FIRLEN shows its length (04 R122). -/
def State.firIdle (s : State) (n k : Nat) : State :=
  let a := s.clReg n k + 0x1010
  let o := s.fld a 1 6
  if !s.bit a 0 then s
  else if (s.slotS n k o).plan.commit then
    ((s.firInstall n k o).modSlotS n k o fun x => { x with plan := SlotPlan.none }).reqUpdate n
  else s.modSlotS n k o fun x => { x with coef := x.coefNew, plan := { SlotPlan.none with commit := true } }

/-! ### What an entry does to the hardware (14 R422) -/

/-- Priority bus `bus` as the dictionary holds it, sent to every die as its change is accepted, with the first render block that
begins two blocks or more from now (04 R129). -/
def State.busSend (s : State) (bus : Nat) : State :=
  let b := s.dNat (dKey 0x3201 (bus + 1)) == 1
  let c : BusChange := ⟨bus, s.dNat (dKey 0x3200 (bus + 1)), b, s.dNat (dKey 0x3202 (bus + 1)), (s.die s.active).tide / 16 + 3⟩
  (upTo 6).foldl (fun s n =>
    if nsMem s.fenced (n + 2) then s
    else { s with busPend := SMap.set (dflt []) s.busPend n (SMap.get (dflt []) s.busPend n ++ [c]) }) s

/-- Two matching LINK elements of opposite sides make the link (14 Table 14-10, 11 R339). -/
def State.linkMake (s : State) (v : Nat) : State :=
  let other := bitsOf v 0 36 + (if bitOf v 36 then 0 else 2 ^ 36)
  let matched := s.dict.any fun e => decide (dKey 0x3020 1 ≤ e.1) && decide (e.1 ≤ dKey 0x3020 128) && leNat e.2 == other
  if matched then
    let a := s.qAddr (bitsOf v 14 4) (bitsOf v 0 14)
    let m := s.memNat (a + 0x1B) 1
    (s.qWrite 0 (a + 0x24) (natLE 4 (bitsOf v 18 18)) none).qWrite 0 (a + 0x1B) (natLE 1 (m % 4 + 4)) none
  else s

/-- A source entry. -/
def State.applySrc (s : State) (f slot : Nat) : State :=
  if f = 3 then
    let v := s.srcNat 3 slot
    s.onHubs fun h s => s.rtFld (hubReg h 7 + 0x6000 + 8 * (slot / 2)) (32 * (slot % 2)) 17 v
  else if f = 1 then let b := famKey (srcBase 2) slot; { s with force := SMap.set dictDefault s.force b (s.dVal b) }
  else s

/-- An output entry (04 Table 4-6). -/
def State.applyOut (s : State) (f o : Nat) (bs : List Byte) : State :=
  let a := s.outReg o
  let v := leNat bs
  let (n, k, t) := outHome o
  match f with
  | 0 => (s.ownerShow o).reqUpdate n
  | 1 => s.rtFld a 24 3 v
  | 2 => s.rtFld (a + 8) 0 24 v
  | 3 => s.rtFld a 19 1 v
  | 4 => s.rtFld a 18 1 v
  | 5 => s.rtFld a 0 1 v
  | 6 =>
    let q := SMap.get (dflt []) s.firQ (25 * n + k)
    ({ s with firQ := SMap.set (dflt []) s.firQ (25 * n + k) (if q.contains t then q else q ++ [t]) }).firStage n k
  | 7 =>
    let all := bs ++ biquadDefault.drop bs.length
    (upTo 4).foldl (fun s j =>
      let w (i m : Nat) : Nat := leNat ((all.drop (20 * j + 4 * i)).take (4 * m))
      ((s.rtWord (a + 0x2000 + 0x20 * j) (w 0 2)).rtWord (a + 0x2008 + 0x20 * j) (w 2 2)).rtWord (a + 0x2010 + 0x20 * j) (w 4 1)) s
  | 8 =>
    ((((s.rtFld a 12 4 v).rtFld a 16 1 (v / 16)).rtFld a 17 1 (v / 32)).rtFld a 20 3 (v / 64)).rtFld a 23 1 (v / 512)
  | 9 => s.rtWords (a + 0x18) bs
  | 10 => s.rtWords (a + 0x20) bs
  | 11 => s.rtWord (a + 0x10) v
  | _ => s

/-! ### Writes with an effect of their own -/

/-- The factory address of each port, and the service ports' straps (12 R362, 14 R427). -/
def State.portsShow (s : State) (st : Straps) : State :=
  let base := s.fld (hubReg 0 11 + 0x20) 0 48
  let s := (upTo 4).foldl (fun s p => s.setFld (portReg p + 8) 0 48 (base + p)) s
  (upTo 2).foldl (fun s h => (s.setFld (hubReg h 10) 0 7 st.node.toNat).setFld (hubReg h 10) 7 2 st.canRate.toNat) s

/-- What a change of RATE does to the hardware: the registers that hold returned entries take their reset values again, the factory
addresses among them, and generators that have valid time are stepped to the position of the new rate at their next tick (14 R414). -/
def State.rateApply (s : State) : State :=
  let table (a : Nat) : Bool :=
    match s.loc a with
    | .hubRegs _ b off =>
      ((b == 7 || b == 8) && (decide (off < 0x20) || decide (0x2000 ≤ off && off < 0x8000))) || (b == 7 && off == 0x1000) ||
        (b == 8 && decide (0x8000 ≤ off && off < 0xA000))
    | .egress _ off => decide (0x300000 ≤ off && off < 0x340000)
    | .clRegs _ _ off => off == 0x1010 || decide (0x2000 ≤ off && off < 0x6000)
    | _ => false
  let s := { s with slots := [], slotsBack := [], regs := s.regs.filter (fun p => !table p.1) }.portsShow s.straps
  let s := s.onHubs fun h s => (s.setBit (hubReg h 6) 3 s.rate96).setGen h { s.gen h with stepDue := (s.gen h).valid }
  (upTo 6).foldl (fun s n => s.reqUpdate n) s

/-- An entry's stored value applied to the hardware. -/
def State.applyEntry (s : State) (key : Nat) : State :=
  let bs := s.dVal key
  let s := { s with force := SMap.set dictDefault s.force key bs }
  let i := key / 256
  let e := key % 256 - 1
  let v := leNat bs
  let arr (base : Nat) : Nat := 128 * (i - base) + e
  if i = 0x2010 then
    (upTo 6).foldl (fun s n => if e = 0 then s.rtFld (dieReg (n + 2) 7 + 8) 0 1 v else s.rtFld (dieReg (n + 2) 7 + 8) 1 5 v) s
  else if i = 0x3001 then (s.ownedOuts).foldl (fun s o => s.ownerShow o) s
  else if i = 0x3020 then s.linkMake v
  else if i = 0x4000 then s.rtWords (hubReg (e / 2) (7 + e % 2)) bs
  else if i = 0x4001 then s.onHubs fun h s => s.rtWord (hubReg h 7 + 0x1000) v
  else if 0x4100 ≤ i ∧ i ≤ 0x4103 then s.onHubs fun h s => s.rtStream (hubReg h 7 + 0x2000 + 32 * arr 0x4100) bs
  else if 0x4200 ≤ i ∧ i ≤ 0x4207 then s.onHubs fun h s => s.rtStream (hubReg h 8 + 0x2000 + 32 * arr 0x4200) bs
  else if 0x4300 ≤ i ∧ i ≤ 0x4307 then s.onHubs fun h s => s.rtWords (egBase h + 0x300000 + 256 * arr 0x4300) bs
  else if i = 0x9100 then
    if e = 0 then
      s.onHubs fun h s =>
        (s.rtFld (counterBlock h + 0xF000) 0 2 (if v = 0 then 0 else 3)).rtFld (counterBlock h + 0xF000) 2 16 (v - 1)
    else s.onHubs fun h s => s.rtWords (counterBlock h + 0xF020) bs
  else if i = 0x9101 then s.onHubs fun h s => s.rtFld (counterBlock h + 0x8000 + 0x40 * e) 0 16 v
  else if i = 0x2000 then s.rateApply
  else if i = 0x2040 then (if v = 1 then s.updStart else s.updStop).2
  else if i = 0x9000 then (s.trClear e v).dSet key [0]
  else
    match dictName i (key % 256) with
    | .src f slot => s.applySrc f slot
    | .out f o => s.applyOut f o bs
    | _ => s

/-- Every entry that waits is applied at a block boundary of the active hub. -/
def State.applyAll (s : State) : State := ({ s with applyQ := [] } : State) |> fun z => s.applyQ.foldl (fun s k => s.applyEntry k) z

/-- RATE (14 R414): a change returns every entry of 0x4000-0x7FFF to its default, NGPDROP among them; `held` holds its effect on the
hardware. -/
def State.setRate (s : State) (held : Bool) (v : Nat) : State :=
  let new := v == 96000
  let s := s.dSet (dKey 0x2000 1) (natLE 4 v)
  if s.rate96 = new then s
  else
    let keep (k : Nat) : Bool := decide (k < 0x400000) || decide (0x800000 ≤ k)
    let s := { s with rate96 := new, dict := s.dict.filter (fun p => keep p.1), force := s.force.filter (fun p => keep p.1), ngpDrop := 0,
                      applyQ := s.applyQ.filter keep, batchHeld := s.batchHeld.map fun p => (p.1, p.2.map fun l => l.filter keep), firQ := [] }
    if held then s else s.rateApply

/-! #### Programs (16 R476, Table 16-9) -/

/-- The programs of a domain but for a record's own. -/
def State.otherProgs (s : State) (d r : Nat) : List Prog := (SMap.get (dflt []) s.progs d).filter fun p => p.num0 != r

/-- The lowest multiple of 64 in the code store where `len` bytes fit beside the programs `ps`. -/
def storeFit (ps : List Prog) (len : Nat) : Option Nat :=
  let cands := (0 :: ps.map fun p => (p.off + p.len + 63) / 64 * 64).foldl nsAdd []
  cands.find? fun o => decide (o + len ≤ 0x1000000) && ps.all fun p => !rangesMeet o len p.off p.len

/-- Programs set one after another from an offset on. -/
def packProgs : Nat → List Prog → List Prog
  | _, [] => []
  | o, p :: ps => { p with off := o } :: packProgs (o + p.len) ps

/-- The code store of a domain with the programs `ps` moved together, and the offset behind them (16 R476; assumption 106). -/
def State.packStore (s : State) (d : Nat) (ps : List Prog) : List Prog × Nat × State :=
  let base := s.codeStore d
  let qs := packProgs 0 ps
  let code := ps.map fun p => s.peek (base + p.off) p.len
  (qs, (ps.map (·.len)).foldl (· + ·) 0, (qs.zip code).foldl (fun s x => s.runtimePut (base + x.1.off) x.2) s)

/-- A place for a program of `len` bytes beside the programs `ps`: one that no program in force lies in, `old` among them; else one beside
`ps`; else behind `ps` moved together, which fit in the store with it. -/
def State.placeCode (s : State) (d : Nat) (ps old : List Prog) (len : Nat) : List Prog × Nat × State :=
  match storeFit (ps ++ old) len with
  | some o => (ps, o, s)
  | none =>
    match storeFit ps len with
    | some o => (ps, o, s)
    | none => s.packStore d ps

/-- The record's fields are in range (16 R476). -/
def progFieldsOk (bs : List Byte) : Bool :=
  let kind := fieldAt bs 0 1
  let num := fieldAt bs 2 2
  let len := fieldAt bs 4 4
  let area := fieldAt bs 0x14 4
  fieldAt bs 1 1 == 0 && fieldAt bs 0x18 8 == 0 &&
    (kind == 0 || (decide (kind ≤ 2) && (if kind = 1 then decide (num ≤ 15) else num != 0) && len % 4 == 0 && decide (4 ≤ len) &&
      decide (len ≤ 0x1000000) && decide (fieldAt bs 8 8 + len ≤ 2 ^ 44) && fieldAt bs 0x10 4 % 4 == 0 && decide (fieldAt bs 0x10 4 < len) &&
      area % 16 == 0 && decide (area ≤ 65536)))

/-- 06 R205's sequence on the cores that execute programs; on a die in HOLD when it rejoins. -/
def State.iflushAll (s : State) : State :=
  let s := (s.cores.map (·.1)).foldl (fun s c => if s.dieActs (coreDie c) then s.iflushCore c else s) s
  { s with iflushDue := s.held.foldl nsAdd s.iflushDue }

/-- A PROGRAM record of domain `d`, number `r` (16 R476). A law takes effect from the next law window, a stream program from the next
block. -/
def State.program (s : State) (d r : Nat) (bs : List Byte) : Nat × State :=
  if s.dev = 2 then (abState, s)
  else if !progFieldsOk bs then (abRange, s)
  else
    let key := dKey (0x3300 + d) r
    let ps := s.otherProgs d r
    let kind := fieldAt bs 0 1
    if kind = 0 then (0, { s.dSet key bs with progs := SMap.set (dflt []) s.progs d ps })
    else
      let num := fieldAt bs 2 2
      let len := fieldAt bs 4 4
      if ps.any fun p => p.kind == kind && p.num == num then (abRange, s)
      else if 0x1000000 < len + (ps.map (·.len)).foldl (· + ·) 0 then (abRange, s)
      else
        match s.domRead (4 * s.active + s.rtCore) d 0 (fieldAt bs 8 8) len with
        | (none, s) => (abRange, s)
        | (some code, s) =>
          let (ps, off, s) := s.placeCode d ps ((SMap.get (dflt []) s.progs d).filter fun p => p.num0 == r) len
          let p : Prog := ⟨r, kind, num, off, len, fieldAt bs 0x10 4, fieldAt bs 0x14 4, s.fresh⟩
          let s := { s with fresh := s.fresh + 1 }.runtimePut (s.codeStore d + off) code
          let s := (s.measure 3 d 255 (sha code)).iflushAll
          (0, { s.dSet key bs with progs := SMap.set (dflt []) s.progs d (ps ++ [p]) })

/-! #### The checks of COMMAND (16 R477) -/

/-- A block-table entry (09 Table 9-2); `perm` is UR UW UX SR SW SX. -/
def btEntry (vbase pbase size dom perm mt : Nat) : Nat :=
  1 + 8 * mt + 16 * perm + 2 ^ 10 * size + 2 ^ 16 * dom + 2 ^ 32 * (vbase / 4096) + 2 ^ 64 * (pbase / 4096)

/-- The block table of an enabled domain. -/
def State.tableOf (s : State) (d : Nat) : List Nat :=
  let rs := s.memmap d
  ((upTo rs.length).map fun i =>
    match rs[i]? with
    | some r => btEntry r.vbase (s.memPlace d i r) r.size d r.perm r.mt
    | none => 0) ++
  [btEntry codeVa (s.codeStore d) 24 d 5 0, btEntry (s.sceneVa d) (s.sceneMem d) 19 d 1 0, btEntry (s.stubVa d) (s.stubMem d) 12 d 5 0] ++
  (upTo 6).map (fun n => btEntry (s.clustersVa d n) (dieBase (n + 2) + 0x100000000) 29 d 3 0) ++
  (upTo 6).map fun n => btEntry (s.pairsVa d n) (dieBase (n + 2) + 0x200000000) 27 d 3 0

/-- A table has no room for a domain's blocks, or the virtual addresses have none for them (assumption 109). -/
def State.tableBad (s : State) (d : Nat) : Bool :=
  decide (256 < (s.memmap d).length + 15) || !roomFor codeVa vaObjs (s.vaUsed d)

/-- Check 6 fails for a domain's record `i`. -/
def State.memRecBad (s : State) (d i : Nat) : Bool :=
  let rs := s.memmap d
  match rs[i]? with
  | none => false
  | some r =>
    decide (r.size < 12) || decide (42 < r.size) || r.vbase % 2 ^ r.size != 0 || decide (64 ≤ r.perm) || decide (1 < r.mt) ||
      decide (15 < r.share) || r.share == d || r.resv != 0 || rangesMeet r.vbase (2 ^ r.size) codeVa 0x1000000 ||
      ((upTo i).any fun j => match rs[j]? with | some x => rangesMeet r.vbase (2 ^ r.size) x.vbase (2 ^ x.size) | none => false) ||
      (r.share != 0 && (s.sharePartner d r).isNone)

/-- A PARTITION element breaks R151, or names a domain that is not enabled. -/
def State.partBad (s : State) (e : Nat) : Bool :=
  let v (x : Nat) : Nat := s.dNat (famKey 0x3010 x)
  let first := bitsOf (v e) 16 6 * 1024
  let size := 2 ^ bitsOf (v e) 4 5
  v e % 16 != 0 && (!s.domEn (v e % 16) || first % size != 0 || decide ((if s.rate96 then 32768 else 65536) < first + size) ||
    (upTo (e % 4)).any fun j =>
      let u := v (e / 4 * 4 + j)
      u % 16 != 0 && rangesMeet first size (bitsOf u 16 6 * 1024) (2 ^ bitsOf u 4 5))

/-- Elements of an owner family that name a domain that is not enabled, ascending. -/
def State.strayOwners (s : State) (base len : Nat) : List Nat :=
  s.dict.filterMap fun e =>
    if base * 256 ≤ e.1 ∧ e.1 < (base + len) * 256 ∧ !s.domEn (leNat e.2) then some (128 * (e.1 / 256 - base) + e.1 % 256 - 1) else none

/-- TYPES of a domain: first and count. -/
def State.types (s : State) (d : Nat) : Nat × Nat := let v := s.dNat (dKey 0x3002 d); (v % 256, v / 256)

/-- The capabilities of an enabled host domain: data root, code root, gate authority, and its type authority, which holds SE alone
(08 R266, R268). -/
def State.rootsOf (s : State) (d : Nat) : List Cap :=
  let (f, n) := s.types d
  [(Cap.rootData.setDom d).setRights 0x7B, ((Cap.rootExec 0).setDom d).setRights 0x4D, Cap.make 63 63 1 0 0x80 d 0 true,
    if n = 0 then Cap.null else Cap.make f f n 0 0x80 d 0 true]

def State.typesBad (s : State) (d : Nat) : Bool :=
  let (f, c) := s.types d
  c != 0 && (decide (f < 16) || decide (48 < f + c) ||
    (s.hosts.filter (· < d)).any fun e => let (g, m) := s.types e; rangesMeet f c g m)

/-- Bytes of memory that the domains map: a shared block once, device records none. -/
def State.mappedBytes (s : State) : Nat :=
  (s.hosts.map fun d => ((s.memmap d).map fun r =>
    if r.mt = 1 ∨ (r.share ≠ 0 ∧ r.share < d ∧ s.domEn r.share) then 0 else 2 ^ r.size).foldl (· + ·) 0).foldl (· + ·) 0

/-- The first failing check: its code and element number; none when every check passes. -/
def State.runCheck (s : State) : Option (Nat × Nat) :=
  let first (code : Nat) (l : List Nat) : Option (Nat × Nat) := l.head?.map fun e => (code, e)
  if s.hosts.isEmpty then some (1, 0)
  else
    (first 2 ((upTo 576).filter s.partBad)).orElse fun _ =>
    (first 3 (s.strayOwners (srcBase 0) 16 ++ s.strayOwners (outBase 0) 72)).orElse fun _ =>
    (first 4 (s.hosts.filter s.typesBad)).orElse fun _ =>
    (if s.domEn s.prioDom then none else some (5, 0)).orElse fun _ =>
    (first 6 ((upTo 16).filter fun d => d != 0 && ((upTo (s.memmap d).length).any (s.memRecBad d) || (s.domEn d && s.tableBad d)))).orElse fun _ =>
    (first 7 (s.hosts.filter fun d => ((upTo 576).any fun e => s.dNat (famKey 0x3010 e) % 16 == d) &&
      (s.sceneLen d == 0 || s.sceneQ d == s.replyQ d))).orElse fun _ =>
    if s.shape.usable < 2 ^ 30 + 2 ^ 24 * s.hosts.length + s.mappedBytes then some (8, 0) else none

/-- COMMAND = 1 (14 R419): the code, or none where the answer waits for RUN. -/
def State.runCommand (s : State) (p : Path) : Option Nat × State :=
  if s.dev ≠ 2 then (some abState, s)
  else
    match s.runCheck with
    | some (c, e) => (some abCond, s.dSet (dKey 0x2000 4) (natLE 4 (c + 256 * e)))
    | none => (none, { s.dSet (dKey 0x2000 4) (zeros 4) with runReq := some (pathNum p) })

/-! ### Writes -/

/-- The entries that the BATCH of a path's domain holds, where it is 1 (14 R423). -/
def State.heldOf (s : State) (p : Path) : Option (Nat × List Nat) :=
  (pathDom p).bind fun d => (SMap.get (dflt none) s.batchHeld d).map fun l => (d, l)

/-- The batch is full: it takes no further write. -/
def State.batchFull (s : State) (p : Path) : Bool := (s.heldOf p).any fun x => decide (4096 ≤ x.2.length)

/-- A write counts in its batch, whatever it does at once. -/
def State.batched (s : State) (p : Path) (key : Nat) : State :=
  match s.heldOf p with
  | some (d, l) => { s with batchHeld := SMap.set (dflt none) s.batchHeld d (some (l ++ [key])) }
  | none => s

/-- A hardware effect is held while the writer's BATCH is 1, or else waits for the next boundary (14 R422, R423). -/
def State.applyLater (s : State) (p : Path) (key : Nat) : State :=
  if (s.heldOf p).isSome then s.batched p key else { s with applyQ := s.applyQ ++ [key] }

/-- BATCH (14 R423). -/
def State.setBatch (s : State) (d v : Nat) : State :=
  let s := s.dSet (dKey (0x3100 + d) 7) (natLE 1 v)
  match SMap.get (dflt none) s.batchHeld d with
  | none => if v = 1 then { s with batchHeld := SMap.set (dflt none) s.batchHeld d (some []) } else s
  | some l =>
    if v = 0 then
      let s := { s with batchHeld := SMap.set (dflt none) s.batchHeld d none, applyQ := s.applyQ ++ l }
      ((l.filter fun k => decide (0x3200 ≤ k / 256) && decide (k / 256 ≤ 0x3202)).foldl (fun b k => nsAdd b (k % 256 - 1)) []).foldl
        (fun s b => s.busSend b) s
    else s

/-- Check 10 (14 Table 14-5): PSRC while its bus is ACTIVE (04 R129), BDELAY above MAXB (03 R84), a FIR that outgrows its mirror area
(15 R441). -/
def State.condOk (s : State) (i sub : Nat) (data : List Byte) : Bool :=
  if i = 0x3200 then s.dNat (dKey 0x3201 sub) == 0 || leNat data == s.dNat (dKey 0x3200 sub)
  else
    match dictName i sub with
    | .src 2 t => decide (leNat data ≤ s.srcNat 1 t)
    | .out 6 o => s.firFits o (max 1 (data.length / 3))
    | _ => true

/-- Entries that act at once: the code, or none where the answer comes later. What RATE, UPDCMD and TROUBLE do to the hardware waits for
a batch; an entry whose answer says what it did, or that has no effect on the hardware, only counts in it (14 R423; DESIGN CHOICE,
assumption 110). -/
def State.dictAct (s : State) (p : Path) (i sub : Nat) (data : List Byte) : Option (Option Nat × State) :=
  let v := leNat data
  let key := dKey i sub
  let held := (s.heldOf p).isSome
  let ok (s : State) : Option (Option Nat × State) := some (some 0, s.batched p key)
  let coded (r : Nat × State) : Option (Option Nat × State) := some (some r.1, if r.1 = 0 then r.2.batched p key else r.2)
  if i = 0x2000 ∧ sub = 1 then ok (s.setRate held v)
  else if i = 0x2000 ∧ sub = 3 then some (s.runCommand p)
  else if i = 0x2040 then
    let r := if v = 1 then s.updStart else s.updStop
    coded (if held && r.1 == 0 then (0, s.dSet key data) else r)
  else if i = 0x3003 then ok { s.dSet key data with ngp := SMap.erase s.ngp sub }
  else if i = 0x3004 then ok { s.dSet key data with ngp := SMap.erase s.ngp 0 }
  else if 0x3101 ≤ i ∧ i ≤ 0x310F ∧ sub = 7 then some (some 0, s.setBatch (i % 16) v)
  else if 0x3301 ≤ i ∧ i ≤ 0x330F then coded (s.program (i % 16) sub data)
  else if i = 0x9000 then ok (if held then s.dSet key (natLE 1 (v ||| s.dNat key)) else s.trClear (sub - 1) v)
  else if i = 0xA001 then coded (s.lcAdvance v)
  else if i = 0xA002 then coded (s.ownerKey (sub - 1) v)
  else if i = 0xA003 then coded (s.revoke v)
  else if i = 0xA004 then coded (s.svnFloor v)
  else if i = 0xA100 then ok ({ s.dSet key data with trustOpen := s.trustOpen || decide (64 ≤ data.length) }.sessionCheck)
  else if i = 0xA101 then ok ({ s.dSet key data with trustOpen := s.trustOpen || v == 1 }.sessionCheck)
  else if i = 0xA110 ∧ sub = 2 then
    coded (s.auth (BitVec.ofNat 256 v) (BitVec.ofNat 512 (v / 2 ^ 256)))
  else if i = 0xA110 then ok s.endSession
  else
    match dictName i sub with
    | .src 1 t =>
      let s := s.dSet key data
      let b := famKey (srcBase 2) t
      some (some 0, (if v < s.srcNat 2 t then s.dSet b (natLE 4 v) else s).applyLater p key)
    | _ => none

/-- A whole value written (14 R420-R423): its code, or none where the answer comes later. -/
def State.dictWrite (s : State) (p : Path) (i sub : Nat) (data : List Byte) : Option Nat × State :=
  match s.writeCode p i sub data with
  | 0 =>
    if !s.condOk i sub data then (some abCond, s)
    else if s.batchFull p && !(decide (0x3101 ≤ i ∧ i ≤ 0x310F) && sub == 7) then (some abMemory, s)
    else
      match s.dictAct p i sub data with
      | some r => r
      | none =>
        let key := dKey i sub
        if 0x3200 ≤ i ∧ i ≤ 0x3202 ∧ s.dVal key = data then (some 0, s.batched p key)
        else
          let t := (s.applyLater p key).dSet key data
          (some 0, if 0x3200 ≤ i ∧ i ≤ 0x3202 ∧ (s.heldOf p).isNone = true then t.busSend (sub - 1) else t)
  | c => if 0x3301 ≤ i ∧ i ≤ 0x330F ∧ s.dev = 2 ∧ (c = abLength ∨ c = abRange) then (some abState, s) else (some c, s)

/-! ### Transfers in parts (14 R420, R424) -/

def State.xferOf (s : State) (q : Nat) : Option Xfer := SMap.get (dflt none) s.xfers q
def State.setXfer (s : State) (q : Nat) (x : Option Xfer) : State := { s with xfers := SMap.set (dflt none) s.xfers q x }

/-- A new transfer begins on a path: the old one is abandoned, a load of an image among them (14 R420). -/
def State.newXfer (s : State) (q : Nat) : State :=
  let s := s.setXfer q none
  let s := if s.imgOwner == some q && !s.imgWait && s.imgStat == 1 then s.imgDrop else s
  if s.stageOwner == some q && s.stageWait.isNone then s.stageDrop else s

/-- The checks that do not depend on the value. -/
def State.headCode (s : State) (p : Path) (i sub : Nat) : Nat :=
  let c := s.writeCode p i sub []
  if c = abLength ∨ c = abRange then 0 else c

/-- A part of a value written: its code, or none where the answer comes later. -/
def State.dictPart (s : State) (p : Path) (i sub off : Nat) (last : Bool) (data : List Byte) : Option Nat × State :=
  let q := pathNum p
  let s := if off = 0 then s.newXfer q else s
  if i = 0x1F50 ∧ sub = 1 ∨ i = 0x2041 ∧ sub = 1 then
    match s.writeCode p i sub data with
    | 0 => if i = 0x1F50 then s.imagePart p off last data else s.stagePart p off last data
    | c => (some c, s)
  else if off = 0 then
    if last then s.dictWrite p i sub data
    else
      match s.headCode p i sub with
      | 0 => (some 0, s.setXfer q (some ⟨true, i, sub, data, 0, 0, false, 0⟩))
      | c => (some c, s)
  else
    match s.xferOf q with
    | some x =>
      if x.write && x.idx == i && x.sub == sub && x.data.length == off then
        let v := x.data ++ data
        if 0x100000 < v.length then (some abLength, s.setXfer q none)
        else if last then (s.setXfer q none).dictWrite p i sub v
        else (some 0, s.setXfer q (some { x with data := v }))
      else (some abGeneral, s.setXfer q none)
    | none => (some abGeneral, s)

/-- A whole value read, with what the read does: NONCE draws a fresh one (14 R432), TEMP a free value. -/
def State.dictRead (s : State) (p : Path) (i sub : Nat) : (Nat × List Byte) × State :=
  match s.readCode p i sub with
  | 0 =>
    if i = 0xA110 ∧ sub = 1 then let (b, s) := s.readNonce; ((0, b), s)
    else ((0, s.dRead i sub), if i = 0x2030 then { s with fresh := s.fresh + 1 } else s)
  | c => ((c, []), s)

/-- A read from an offset: code, whole length and at most `max` bytes. A read in several parts goes on in the value as it stood at
its first part. -/
def State.dictGet (s : State) (p : Path) (i sub off max : Nat) : (Nat × Nat × List Byte) × State :=
  let q := pathNum p
  let cont := match s.xferOf q with
    | some x => if off ≠ 0 ∧ x.write = false ∧ x.idx = i ∧ x.sub = sub then some x.data else none
    | none => none
  match cont with
  | some v => ((0, v.length, (v.drop off).take max), if v.length ≤ off + max then s.setXfer q none else s)
  | none =>
    match (s.newXfer q).dictRead p i sub with
    | ((0, v), s) =>
      ((0, v.length, (v.drop off).take max),
        if off + max < v.length then s.setXfer q (some ⟨false, i, sub, v, v.length, 0, false, 0⟩) else s)
    | ((c, _), s) => ((c, 0, []), s)

/-! ### Preparing RUN (16 R477) -/

/-- A table written and named in every copy of DTBd. -/
def State.tableWrite (s : State) (d : Nat) (es : List Nat) : State :=
  let a := s.placeDram d 12
  let s := (s.poke a (es.flatMap (natLE 16))).clearTags (granulesOf a 4096)
  (upTo 8).foldl (fun s x => s.rtWord (gateBlock x + 0xF000 + 8 * d) (es.length + a + 2 ^ 63)) s

/-- A gate region (09 Table 9-7): EN, rights UR UW SR SW as bits 0-3, the domains, base and size. -/
def State.region (s : State) (x g r rights doms base size : Nat) : State :=
  let a := gateReg x g + 0x80 + 0x18 * r
  ((s.rtWord (a + 8) base).rtWord (a + 16) 0).rtWord a (1 + 4 * rights + 2 ^ 16 * size + 2 ^ 32 * doms)

/-- Counter blocks, collectors and the test multiplexer are for domain 0 at S and M alone: a locked region that grants no other domain
anything, where the debug master has no access (17 R491, 09 R304). -/
def State.countersClosed (s : State) (x g : Nat) : State :=
  let a := gateReg x g + 0x80
  ((s.rtWord (a + 8) (counterBlock x)).rtWord (a + 16) 0).rtWord a (3 + 2 ^ 16 * 16 + 2 ^ 32 * 0xFFFE)

/-- The gate regions of RUN (05 R152, 09 R302, 11 R342): memory, the doorbell page, cluster and pair SRAM for the enabled host
domains, the queue registers for domain 0 alone, two for each partition, and the counter gates. -/
def State.regionsWrite (s : State) : State :=
  let doms := s.hosts.foldl (fun v d => v + 2 ^ d) 0
  let s := s.onHubs fun h s =>
    let s := (upTo 4).foldl (fun s g => s.region h g 0 15 doms 0 42) s
    let s := s.region h 11 0 15 doms (hubReg h 4) 12
    let s := (upTo 4).foldl (fun s i => s.region h 11 (i + 1) 0 0xFFFE (hubReg h 4 + 0x1000 * 2 ^ i) (12 + i)) s
    s.countersClosed h 21
  (upTo 6).foldl (fun s n =>
    let s := (upTo 25).foldl (fun s k =>
      let w := dieBase (n + 2) + 0x100000000 + k * 0x1000000
      let s := s.region (n + 2) (2 + 3 * k) 0 15 doms w 19
      if k = 24 then s
      else ((s.parts n k).zip (upTo 4)).foldl (fun s p =>
        [0, 1].foldl (fun s h =>
          s.region (n + 2) (3 + 3 * k) (2 * p.2 + h) 3 (2 ^ p.1.1) (w + 0x100000 + h * 0x80000 + 8 * p.1.2.1)
            (3 + (leadZeros 17 1 - leadZeros 17 p.1.2.2))) s) s) s
    ((upTo 6).foldl (fun s p => s.region (n + 2) (77 + 2 * p) 0 15 doms (dieBase (n + 2) + 0x200000000 + p * 0x1000000) 19) s).countersClosed
      (n + 2) 98) s

/-- The runtime holds every index outside the partitions of a cluster at V = 0 in both halves (05 R151). -/
def State.clearOutside (s : State) (n k : Nat) : State :=
  let ps := s.parts n k
  [0, 1].foldl (fun s h =>
    let base := tableBase n k h
    ((s.validIdx base).filter fun i => !(ps.any fun p => decide (p.2.1 ≤ i) && decide (i < p.2.1 + p.2.2))).foldl (fun s i =>
      s.runtimePut (base + 8 * i) (natLE 8 (s.entry base i % 2 ^ 63))) s) s

/-- The steps before RUN: block tables, the domains' roots and return stubs, gate regions, mirror areas, source windows, queues
and the channels of the close point (16 R477, 05 R151, R161, 08 R266, R268, 15 R439, 03 R80; assumption 104). -/
def State.prepare (s : State) : State :=
  let s := s.applyAll
  let s := s.hosts.foldl (fun s d => s.tableWrite d (s.tableOf d)) s
  let s := { s with roots := s.hosts.map fun d => (d, s.rootsOf d) }
  let s := s.hosts.foldl (fun s d => s.runtimePut (s.stubMem d) (natLE 4 stubWord)) s
  let s := (upTo 6).foldl (fun s n => (upTo 24).foldl (fun s k => s.clearOutside n k) s) s
  let s := s.regionsWrite
  let s := (upTo 6).foldl (fun s n => (upTo 6).foldl (fun s a => s.mirrorPlace n a) s) s
  let s := (upTo 6).foldl (fun s n => { s with mem := memZero s.mem (dieBase (n + 2)) 0x6000000 }) s
  let s := s.hosts.foldl (fun s d => (s.qEnable (s.qHome d (s.sceneQ d)) d (s.sceneQ d)).qEnable (s.qHome d (s.replyQ d)) d (s.replyQ d)) s
  (upTo 6).foldl (fun s n => s.rtFld (chanBase (closeEng n) 15 + 0x100) 0 3 5) s

/-- A slot at RUN entry keeps its committed sets (04 R121, R127). -/
def SlotS.enter (x : SlotS) : SlotS := { SlotS.reset with coef := x.coef, coefNew := x.coefNew }

/-- The mirror area of a covered cluster as RUN begins: the half in force, the header, the slots' state and the FIR sections
(15 Table 15-2). -/
def State.mirInit (s : State) (n k : Nat) : State :=
  if (s.mirArea n k).isNone then s
  else
    let s := s.mirrorTable n k 0
    ((upTo s.nOut).foldl (fun s o => s.mirSlotState n k o SlotPlan.none) s).mirSections n k 0

/-- A source's input as RUN begins: the map entry and the delay in force, so that nothing crossfades in its first block (03 R86,
12 R378), and its bulk-delay ring zeroed (the spec gives its first contents nowhere: DESIGN CHOICE, assumption 83). -/
def State.srcEnter (s : State) (t : Nat) : State :=
  let len := ringEntries (s.srcNat 1 t)
  let s := s.setSrcIn t { SrcIn.reset with map := s.mapOf t, delay := s.fNat (famKey (srcBase 2) t) }
  if len = 0 then s
  else { s with mem := memZero s.mem (s.delayRing t) (4 * len) }.clearTags (granulesOf (s.delayRing t) (4 * len))

/-- The units of every lattice die at RUN entry (02 R67, 03 R114, 04 R121, R127). -/
def State.unitsEnter (s : State) : State :=
  let s := { s with cls := [], comets := [], pairS := [], lawS := [], strm := [], srcIn := [], srcPair := [], busSums := [], written := [], slotsBack := [] }
  let s := (s.slots.map (·.1)).foldl (fun s i =>
    { s with slots := SMap.set (dflt SlotS.reset) s.slots i (SMap.get (dflt SlotS.reset) s.slots i).enter }) s
  let s := s.inputSlots.foldl (fun s t => s.srcEnter t) s
  let b := (s.die s.active).tide / 16
  (upTo 6).foldl (fun s n =>
    let f := s.fld (dieReg (n + 2) 7 + 8) 1 5
    let s := s.modDie (n + 2) fun d =>
      { d with level := f, levelNext := f, restore := [], lateSeen := false, lacking := 2, g1 := none, g2 := none }
    let s := { s with concealed := SMap.set (dflt 0) s.concealed n b }
    let s := (upTo 24).foldl (fun s k =>
      match s.checkHalf (s.activeBase n k) [] with
      | some (i, code) => (s.checkFail n k i code).modCl n k fun x => { x with bad := true }
      | none => s) s
    let s := (upTo 24).foldl (fun s k => (s.listRegs n k (b - 2)).mirInit n k) s
    s.reqUpdate n) s

/-- Conditions of DEGRADED that hold when RUN is entered (15 R437, 16 R464). -/
def State.degradedAtEntry (s : State) : Bool :=
  !s.fenced.isEmpty || !s.linksDown.isEmpty || !s.lostArrays.isEmpty || (upTo 2).any fun h => (upTo 4).any fun m => s.chanFailed h m

/-- The controller that serves the port is on the bus: NODE is not 0 and it is not bus off. -/
def State.canUp (s : State) : Bool :=
  let h := s.canActive
  s.dieActs h && s.straps.node.toNat != 0 && !nsMem s.busOff h

/-- A path can carry an access: a link reaches the logical device, a media port works, the service port is on the bus. -/
def State.pathLive (s : State) : Path → Bool
  | .mailbox ld => s.ldUp ld.val
  | .ngp _ => (upTo 4).any fun p => s.portOn p
  | .sdo | .long => s.canUp
  | .device => true

end Sys2Proof.Machine
end

