-- ==== Sys2Proof/Machine/Settle.lean ====
section
/-! DEFINITION. The effects of register writes beyond the stored fields, performed once the command's writes are made. -/

namespace Sys2Proof.Machine
open Sys2Proof

/-- The address under which a core posts the return of a program (05 R161, R174): it is no register's. -/
def returnPost (c : Nat) : Posted := ⟨2 ^ 60 + c, 0, 0, 0, 0, 0, 0, 0⟩

/-- The address under which a core posts the fault of its law or stream program (05 R162). -/
def faultPost (c : Nat) : Posted := ⟨2 ^ 59 + c, 0, 0, 0, 0, 0, 0, 0⟩

/-- A write to a cluster's registers (03 R112-R116; 04 R122, R131, R133; 15 R456). -/
def State.settleCluster (s : State) (d k off : Nat) (p : Posted) : State :=
  let n := d - 2
  let v := p.value.toNat
  if off = 0x08 then s.ptcmd n k (bitOf v 0) (bitOf v 1)
  else if off = 0x18 then s.lstickyCleared d k p.value
  else if off = 0x1008 then
    if bitOf v 17 then s.firCommit n (s.workOf n k) (bitsOf v 0 6) (bitsOf v 6 11) else s
  else if 0x2000 ≤ off ∧ off < 0x4000 ∧ off % 0x80 = 0 ∧ p.old ≠ p.new then s.reqUpdate n
  else if off = 0x8008 then s.cometcmd n v
  else s

/-- A write to a stream pair's registers (05 R176, R178). -/
def State.settlePair (s : State) (d q off : Nat) (p : Posted) : State :=
  if off = 0 then s.psubWrite (d - 2) q false p.value
  else if off = 8 then s.psubWrite (d - 2) q true p.value
  else if off = 16 then (if p.old ≠ 0 ∧ p.new = 0 then s.setRg (spRegBase d q + 0x18) 0 else s)
  else s

/-- A write to a DMA engine's registers (11 R345, R350, R354). -/
def State.settleDma (s : State) (e off : Nat) (p : Posted) : State :=
  let c := off / 0x200
  if 0x8000 ≤ off ∨ !s.chActs e c then s
  else if off % 0x200 = 0x100 then s.chctlWrite e c p.old p.new
  else if off % 0x200 = 0x108 then
    let s := if bitOf p.value.toNat 0 then s.chStart e c else s
    if bitOf p.value.toNat 1 then s.chReq e c else s
  else s

/-- A write to a target-gate block (09 Table 9-8). -/
def State.settleGate (s : State) (d off : Nat) (p : Posted) : State :=
  if off = 0xF080 then s.xbinv d p.value.toNat
  else s

/-- A write to a counter block (17 R487, R488, R493). -/
def State.settleCounter (s : State) (d off : Nat) (p : Posted) : State :=
  if 0x8000 ≤ off ∧ off < 0xA000 ∧ off % 0x40 = 0 then s.bwcfgWrite d ((off - 0x8000) / 0x40) p.old
  else if 0xA000 ≤ off ∧ off < 0xE000 ∧ off % 0x40 = 8 then
    s.seedWrite (coreOf d ((off - 0xA000) / 0x40)) (getBits p.new 0 32)
  else if off = 0xF008 ∧ bitOf p.value.toNat 0 = true then s.snapStart d
  else s.colFollow d off p.new

/-- A write to a hub's media-port blocks (12 R370, R379, R385). -/
def State.settleNet (s : State) (h b off : Nat) (p : Posted) : State :=
  let rose := bitOf p.new.toNat 0 && !bitOf p.old.toNat 0
  let fell := bitOf p.old.toNat 0 && !bitOf p.new.toNat 0
  let q := 2 * h + (b - 7)
  if off = 0 then (if bitOf p.new.toNat 0 && bitOf p.new.toNat 4 then s.ptpListen q else s.ptpLost q 0).rejoin q
  else if b = 7 ∧ off = 0x1000 then
    let again (s : State) (q : Nat) : State :=
      (if p.old = p.new ∨ s.fld (portReg q + 0x20) 3 3 = 0 then s else (s.ptpLost q 0).ptpListen q).rejoin q
    again (again s (2 * h)) (2 * h + 1)
  else if b = 7 ∧ 0x2000 ≤ off ∧ off < 0x6000 ∧ off % 32 = 0 then
    let n := (off - 0x2000) / 32
    if rose then s.inEnable h n else if fell then s.inDisable h n else s
  else if b = 8 ∧ 0x2000 ≤ off ∧ off < 0xA000 ∧ off % 32 = 0 then
    if rose then s.egEnable h ((off - 0x2000) / 32) else s
  else s

/-- The effect of one write. -/
def State.settleOne (s : State) (p : Posted) : State :=
  if 2 ^ 62 ≤ p.addr then s.arrayLoss ((p.addr - 2 ^ 62) / 6) ((p.addr - 2 ^ 62) % 6)
  else if 2 ^ 61 ≤ p.addr then s.clusterFault ((p.addr - 2 ^ 61) / 25) ((p.addr - 2 ^ 61) % 25) false
  else if 2 ^ 60 ≤ p.addr then s.programReturn (p.addr - 2 ^ 60)
  else if 2 ^ 59 ≤ p.addr then s.programFault (p.addr - 2 ^ 59)
  else
    match s.loc p.addr with
    | .clRegs d k off => s.settleCluster d k off p
    | .spRegs d q off => s.settlePair d q off p
    | .dieRegs d b off =>
      if b < 2 then s.settleDma (2 * d - 2 + b) off p
      else if b = 8 then s.settleGate d off p
      else if b = 9 then s.settleCounter d off p
      else s
    | .hubRegs h b off =>
      if b = 4 then
        if off = 0 then (if p.mask = BitVec.allOnes 64 then s.qdbWrite p.dom p.value else s) else if off = 0x1000 then s.qcmdWrite h p.value else s
      else if b = 5 then s.settleDma h off p
      else if b = 6 then
        if 0x400 ≤ off ∧ off < 0x600 then
          (if h = s.active then s.trClear ((off - 0x400) / 8) (p.value.toNat % 256) else s.setRg p.addr p.old)
        else s
      else if b = 7 ∨ b = 8 then s.settleNet h b off p
      else if b = 14 then s.settleCounter h off p
      else if b = 16 then s.settleGate h off p
      else s
    | _ => s

/-- The writes posted so far are performed in order; an effect may post others, which follow. -/
def State.settleGo : Nat → State → State
  | 0, s => { s with posted := [] }
  | n + 1, s =>
    match s.posted with
    | [] => s
    | ps => State.settleGo n (ps.foldl (fun s p => s.settleOne p) { s with posted := [] })

/-- Every effect of the command's register writes; nothing is posted afterwards. -/
def State.settle (s : State) : State := State.settleGo 8 s

end Sys2Proof.Machine
end

