-- ==== Sys2Proof/Machine/Cxl.lean ====
section
/-! DEFINITION. The CXL ports: links, logical devices, HDM decoders, CXL.mem requests, mailbox and FM-API commands, events,
CDAT and resets (chapter 13). The byte layouts of payloads that the spec leaves to CXL 2.0 are PRESUMED (assumption 26). -/

namespace Sys2Proof.Machine
open Sys2Proof

/-! ### Links and configuration (13 R387, R389, R406, R408) -/

/-- CXL_LINK_TRAIN (13 R387, R388): without CXL.io and CXL.mem the link stays down. -/
def execCxlLinkTrain (h : Fin 2) (width : BitVec 4) (speed : BitVec 2) (protocols mld : Bool) (s : State) :
    Host.Outcome State Fault Refusal :=
  let w := width.toNat
  if !s.dieActs h.val || nsMem s.sdDown h.val || s.cxlUp h.val || !protocols || !(w == 1 || w == 2 || w == 4 || w == 8) || speed.toNat == 3 then .next s
  else
    let old := s.aks
    .next ((s.setFld (cxReg h.val) 0 8 (1 + 2 * w + 32 * speed.toNat + 128 * b2n mld)).akMoved old)

/-- A port's link goes down: the CXL state is unchanged (13 R408, R410). -/
def State.cxDown (s : State) (h : Nat) : State :=
  if s.cxlUp h then ((s.setFld (cxReg h) 0 8 0).cxSticky h 0).akMoved s.aks else s

/-- CXL_LINK_DOWN (13 R408, R410). -/
def execCxlLinkDown (h : Fin 2) (s : State) : Host.Outcome State Fault Refusal := .next (s.cxDown h.val)

/-- Vectors that wait and are now open are sent (13 R406). -/
def State.msixFlush (s : State) (k : Nat) : State :=
  let x := s.ld k
  (x.msixPend.filter x.msixOpen).foldl (fun s v => (s.modLd k fun x => { x with msixPend := nsDel x.msixPend v }).msixSignal k v) s

/-- CONFIGURATION_REQUEST (13 R389, R406): the port is the one that MSI-X messages leave by; a word that nothing has written reads
as a constant of the part (assumption 8). -/
def execConfigurationRequest (h : Fin 2) (k : Fin 16) (write : Bool) (reg : BitVec 12) (v : BitVec 32) (s : State) :
    Host.Outcome State Fault Refusal :=
  if !s.ldOn h.val k.val then .next s
  else
    let r := reg.toNat / 4 * 4
    let s := s.modLd k.val fun x => { x with port := h.val }
    if write then
      let s := (s.modLd k.val fun x => x.cfgPut r v).meter h.val 4 0 4
      .next { (s.msixFlush k.val).ldShow k.val with resp := .completion }
    else
      let x := s.ld k.val
      let known := (SMap.get (dflt none) x.cfg r).isSome || (dvsecWord r).isSome || (0x800 ≤ r && r < 0x900) || r == 4 || r == 0x40
      let d : BitVec 32 := if known then x.cfgWord r else (Config.partConst (0x1000 + 0x1000 * k.val + r)).truncate 32
      .next { s.meter h.val 4 1 4 with resp := .config d }

/-- One logical device's CXL state at reset; allocation, QoS settings and the CDAT sequence number are none of it (13 R389,
R408). -/
def LdS.again (x : LdS) : LdS :=
  { LdS.reset with alloc := x.alloc, weight := x.weight, limit := x.limit, port := x.port, cdatSeq := x.cdatSeq, msixSent := x.msixSent,
                   msixMsg := x.msixMsg }

/-- The logical device whose mailbox an access came by, and the bytes of that command's input (13 Table 13-5). -/
def Access.mailLd : Access → Option Nat
  | .write (.mailbox ld) _ _ _ => some ld.val
  | .part (.mailbox ld) _ _ _ _ _ => some ld.val
  | .get ld _ _ _ => some ld.val
  | _ => none
def Access.bytes : Access → Nat
  | .write _ _ _ data => 8 + data.length
  | .part _ _ _ _ _ data => 8 + data.length
  | _ => 8

/-- A logical device's mailbox is left idle: its transfer and a load in progress end, the commands of it that wait are dropped, and what
is being done for it is answered to nobody, which path 35 stands for (13 R408). -/
def State.mailIdle (s : State) (k : Nat) : State :=
  let s := s.newXfer k
  { s with imgOwner := if s.imgOwner = some k ∧ s.imgWait = true then some 35 else s.imgOwner,
           stageOwner := if s.stageWait = some k then some 35 else s.stageOwner,
           stageWait := if s.stageWait = some k then some 35 else s.stageWait,
           runReq := if s.runReq = some k then some 35 else s.runReq,
           accWait := s.accWait.filter fun a => a.mailLd != some k }

/-- The reset of a logical device's CXL state: requests of it that have not issued are dropped (13 R408). -/
def State.ldReset (s : State) (k : Nat) : State :=
  let held (h : Nat) : List (Nat × HostReq) := (SMap.get (dflt []) s.cxHeld h).filter (·.1 != k)
  (({ s with cxHeld := SMap.set (dflt []) (SMap.set (dflt []) s.cxHeld 0 (held 0)) 1 (held 1) }.modLd k LdS.again).mailIdle k).ldShow k

/-- CXL_HOT_RESET (13 R408): the CXL state of every logical device. -/
def execCxlHotReset (h : Fin 2) (s : State) : Host.Outcome State Fault Refusal :=
  if s.cxlUp h.val then .next ((upTo 16).foldl (fun s k => s.ldReset k) s) else .next s

/-- FUNCTION_LEVEL_RESET (13 R408). -/
def execFunctionLevelReset (k : Fin 16) (s : State) : Host.Outcome State Fault Refusal :=
  if s.ldUp k.val then .next (s.ldReset k.val) else .next s

/-! ### HDM decoders (13 R394, R395) -/

def decLen (d : HdmDec) : Nat := d.size / d.iw

/-- The DPA base of decoder i. -/
def LdS.dpaBase (x : LdS) (i : Nat) (d : HdmDec) : Nat :=
  if i = 0 then d.skip else (match x.dec0 with | some z => z.skip + decLen z | none => 0) + d.skip

def pow2In (lo hi n : Nat) : Bool := (upTo 15).any fun i => 2 ^ i == n && decide (lo ≤ n) && decide (n ≤ hi)

def decOverlap (a b : HdmDec) : Bool := decide (a.base < b.base + b.size) && decide (b.base < a.base + a.size)

/-- A commit of decoder i fails. -/
def State.commitFails (s : State) (k i : Nat) (d : HdmDec) : Bool :=
  let x := s.ld k
  let other := if i = 0 then x.dec1 else x.dec0
  !pow2In 1 8 d.iw || !pow2In 256 16384 d.ig || d.base % 2 ^ 28 != 0 || d.size % 2 ^ 28 != 0 || d.skip % 2 ^ 28 != 0 ||
    decide (s.ak k * 2 ^ 28 < x.dpaBase i d + decLen d) || (i == 1 && x.dec0.isNone) ||
    (match other with | some z => decOverlap d z | none => false)

/-- HDM_DECODER_COMMIT (13 R394): a committed decoder's fields are read-only. -/
def execHdmDecoderCommit (k : Fin 15) (i : Fin 2) (dec : HdmDec) (s : State) : Host.Outcome State Fault Refusal :=
  let x := s.ld k.val
  if !s.ldUp k.val || (if i.val = 0 then x.dec0 else x.dec1).isSome then .next s
  else
    let bad := s.commitFails k.val i.val dec
    let v := if bad then none else some dec
    .next ((s.setLd k.val (if i.val = 0 then { x with dec0 := v, err0 := bad } else { x with dec1 := v, err1 := bad })).ldShow k.val)

/-- HDM_DECODER_UNCOMMIT (13 R394): a locked decoder stays committed until a reset. -/
def execHdmDecoderUncommit (k : Fin 15) (i : Fin 2) (s : State) : Host.Outcome State Fault Refusal :=
  let x := s.ld k.val
  let d := if i.val = 0 then x.dec0 else x.dec1
  if !s.ldUp k.val || (match d with | some z => z.lock | none => true) then .next s
  else .next ((s.setLd k.val (if i.val = 0 then { x with dec0 := none } else { x with dec1 := none })).ldShow k.val)

/-- The DPA of an HPA through a decoder (13 R395). -/
def LdS.through (x : LdS) (i hpa : Nat) (d : Option HdmDec) : Option Nat :=
  match d with
  | some z =>
    if z.base ≤ hpa ∧ hpa < z.base + z.size then
      let o := hpa - z.base
      some (x.dpaBase i z + o / (z.ig * z.iw) * z.ig + o % z.ig)
    else none
  | none => none

/-- The DPA of a request's HPA; none for a decode miss. -/
def LdS.dpaOf (x : LdS) (hpa : Nat) : Option Nat := (x.through 0 hpa x.dec0).orElse fun _ => x.through 1 hpa x.dec1

/-! ### CXL.mem (13 R396-R401) -/

/-- A failed request: its sticky bit, CXERR if empty, and ERRCNT. -/
def State.cxFail (s : State) (h k hpa kind sticky : Nat) : State :=
  let s := s.cxSticky h sticky
  let r := cxReg h + 0x10
  let s := if s.bit r 63 then s else s.setRg r (BitVec.ofNat 64 (hpa % 2 ^ 52 + 2 ^ 52 * k + 2 ^ 56 * kind + 2 ^ 63))
  s.addSat (cxReg h + 0x18) 0 32 1

/-- A request that does not decode, translate or pass its gate posts a Warning event (13 Table 13-4). -/
def State.cxWarn (s : State) (h k hpa kind sticky : Nat) : State := (s.cxFail h k hpa kind sticky).postEvent k .warning false hpa kind

/-- DevLoad as a response of a port for a logical device reports it: that of its queue there, while QoS Control has it reported
(13 R391, R401; assumption 26). -/
def State.devLoadOf (s : State) (h k : Nat) : Nat :=
  if bitOf s.qosControl 0 then devLoad ((s.ld k).queue h).length (s.cxPaused h) else 0

/-- A response, with its DevLoad; one of a port whose link is down is lost. -/
def State.hostAnswer (s : State) (h k : Nat) (f : Nat → Reply) : State :=
  let d := s.devLoadOf h k
  { s with devLoads := (d :: s.devLoads).take 1024, resp := if s.ldOn h k then f d else s.resp }

/-- A read is answered with poison: zeros (13 R399); a Failure event tells the logical device (13 Table 13-4). -/
def State.cxPoison (s : State) (h k a : Nat) : State :=
  (((s.cxSticky h 4).addSat (cxReg h + 0x18) 32 32 1).postEvent k .failure true a 0).hostAnswer h k (.memData 0 true)

def hostAttr (h k : Nat) : Attr := ⟨mid h 0 3 k, k + 1, 0, 3⟩

/-- A decode miss: CXERR, the Warning event, and the issuing hub's count of decode errors (01 R32, 13 R395). -/
def State.cxMiss (s : State) (h k hpa : Nat) : State :=
  (s.count h (gateUnit h) 7 4 1 ((hostAttr h k).ev hpa)).cxWarn h k hpa 1 1

/-- The physical address of a request, or its failure performed. -/
def State.hostPlace (s : State) (h k hpa : Nat) (n : Need) : Option (Nat × Nat) × State :=
  match (s.ld k).dpaOf hpa with
  | none => (none, s.cxMiss h k hpa)
  | some dpa =>
    match s.translate (14 + h) (k + 1) 0 (dpa / 64 * 64) n with
    | (.ok a _, s) => (some (dpa / 64 * 64, a), s)
    | (.fault _ _, s) => (none, s.cxWarn h k hpa 2 2)

/-- A read of a line. The Failure event of a poisoned answer holds the DPA, or the HPA where no decoder gives one (assumption 26). -/
def State.hostRead (s : State) (h k hpa : Nat) : State :=
  let s := s.meter h 4 1 64
  match s.hostPlace h k hpa .read with
  | (none, s) => s.cxPoison h k (((s.ld k).dpaOf hpa).getD hpa)
  | (some (dpa, a), s) =>
    match s.busRead (hostAttr h k) kRead a 64 with
    | ((.ok, bs), s) => s.hostAnswer h k (.memData (BitVec.ofNat 512 (leNat bs)) false)
    | ((.denied, _), s) => (s.cxWarn h k hpa 3 3).cxPoison h k dpa
    | ((.decode, _), s) => (s.cxWarn h k hpa 1 1).cxPoison h k dpa
    | ((.uncorr, _), s) => (s.cxFail h k hpa 4 4).cxPoison h k dpa
    | ((.held, _), s) => s

/-- The effect of a write of a line's enabled bytes; data that carries poison poisons the word. One to a word that no channel in service
holds is discarded (10 R323). -/
def State.hostPut (s : State) (h k hpa mask : Nat) (data : BitVec 512) (poison : Bool) : State :=
  match s.hostPlace h k hpa .write with
  | (none, s) => s
  | (some (_, a), s) =>
    if poison && mask != 0 then
      match s.reaches (hostAttr h k) kWrite a with
      | (.ok, s) =>
        if !s.inDram a then s
        else if s.dramDown a then s.ueMet a
        else ((((s.countDram (hostAttr h k) a 64 true).tagTouch (hostAttr h k) a).markRange a 64).clearTags (granulesOf a 64)).poisonWord a
      | (.denied, s) => s.cxWarn h k hpa 3 3
      | (.held, s) => s
      | (_, s) => s.cxWarn h k hpa 1 1
    else
      match s.maskWrite (hostAttr h k) a mask data with
      | (.denied, s) => s.cxWarn h k hpa 3 3
      | (.decode, s) => s.cxWarn h k hpa 1 1
      | (_, s) => s.settle

/-- A write: every one that ends is answered with Cmp (13 R398). -/
def State.hostWrite (s : State) (h k hpa mask : Nat) (data : BitVec 512) (poison : Bool) : State :=
  ((s.meter h 4 0 64).hostPut h k hpa mask data poison).hostAnswer h k .cmp

/-- A request's effect and its answer (13 Table 13-2); one that the table does not name is a decode miss. -/
def State.hostDo (s : State) (k : Nat) (q : HostReq) : State :=
  match q.kind with
  | .read => s.hostRead q.hub k q.hpa
  | .write => s.hostWrite q.hub k q.hpa q.mask.toNat q.data q.poison
  | .inv => s.hostAnswer q.hub k .cmp
  | .otherRead => (s.cxMiss q.hub k q.hpa).cxPoison q.hub k q.hpa
  | .otherWrite => (s.cxMiss q.hub k q.hpa).hostAnswer q.hub k .cmp

def State.issuedBy (s : State) (h : Nat) : List Nat := SMap.get (dflt []) s.issued h

/-- A request leaves its queue and is performed (13 R400, R401). -/
def State.hostIssue (s : State) (k : Nat) (q : HostReq) : State :=
  { s with issued := SMap.set (dflt []) s.issued q.hub ((k :: s.issuedBy q.hub).take 1024) }.hostDo k q

/-- A request at the head of its queue issues; one that meets a die in HOLD stays there (02 R73, 13 R400). -/
def State.hostTry (s : State) (k : Nat) (q : HostReq) : Option State :=
  let t := { s with stalled := false }.hostIssue k q
  if t.stalled then none else some t

/-- A port may issue: its hub works, T3 credits are not paused (13 R400), and no home is moving (13 R409). -/
def State.portIssues (s : State) (h : Nat) : Bool := !s.hostWait && s.dieActs h && !s.cxPaused h

/-- A logical device's issues among the last 1,024 of a port. -/
def State.issueShare (s : State) (h k : Nat) : Nat := ((s.issuedBy h).filter (· == k)).length

/-- The scheduler's part of QoS Control: weights and limits hold (13 R391; assumption 26). -/
def State.qosSched (s : State) : Bool := bitOf s.qosControl 1

/-- A logical device is below its BW Limit at a port (13 R400). -/
def State.belowLimit (s : State) (h k : Nat) : Bool :=
  !s.qosSched || (s.ld k).limit == 0 || decide (s.issueShare h k < 4 * (s.ld k).limit)

/-- A queue of a port whose head may issue now. -/
def State.hostReady (s : State) (h k : Nat) : Bool := s.portIssues h && !((s.ld k).queue h).isEmpty

/-- The queue of a port that issues next (13 R400), but for those in `skip`: the priority domain's; else those below their limits, the one
furthest behind its weight first. -/
def State.hostNext (s : State) (h : Nat) (skip : List Nat) : Option Nat :=
  let ready := (upTo 15).filter fun k => s.hostReady h k && !skip.contains k
  let p := s.prioDom
  if p ≠ 0 ∧ ready.contains (p - 1) = true then some (p - 1)
  else
    let weight (k : Nat) : Nat := if s.qosSched then max 1 (s.ld k).weight else 1
    (ready.filter fun k => s.belowLimit h k).foldl (fun b k => match b with
      | none => some k
      | some j => if s.issueShare h k * weight j < s.issueShare h j * weight k then some k else some j) none

def State.heldBy (s : State) (h : Nat) : List (Nat × HostReq) := SMap.get (dflt []) s.cxHeld h
def State.setHeld (s : State) (h : Nat) (l : List (Nat × HostReq)) : State := { s with cxHeld := SMap.set (dflt []) s.cxHeld h l }

/-- Requests enter their queues in the order the link brings them; MemInv and MemInvNT ask for nothing and are answered. One whose queue
is full stops the link's credits, and it and all after it wait (13 R401). `fresh` marks one that has only now come to the front. -/
def State.cxTake (h : Nat) : Bool → List (Nat × HostReq) → State → State
  | _, [], s => s.setHeld h []
  | new, (k, q) :: rest, s =>
    if q.kind = .inv then State.cxTake h true rest (s.hostAnswer h k .cmp)
    else
      let x := s.ld k
      if 64 ≤ (x.queue h).length then (if new then s.cxSticky h 7 else s).setHeld h ((k, q) :: rest)
      else State.cxTake h true rest ((s.setLd k (x.setQueue h (x.queue h ++ [q]))).ldShow k)

/-- A port's queues are served until none may issue, and the link's waiting requests follow as room comes; a queue whose head meets a die
in HOLD holds only itself. -/
def State.hostDrain (h : Nat) : Nat → List Nat → State → State
  | 0, _, s => s
  | n + 1, skip, s =>
    match s.hostNext h skip with
    | none => s
    | some k =>
      match (s.ld k).queue h with
      | [] => s
      | q :: rest =>
        match (s.modLd k fun x => x.setQueue h rest).hostTry k q with
        | some t =>
          let t := t.ldShow k
          State.hostDrain h n skip (State.cxTake h false (t.heldBy h) t)
        | none => State.hostDrain h n (k :: skip) s

/-- A port's queues are served (13 R400): at most 960 requests wait in them, and each of the 15 stops at most once. -/
def State.hostServePort (s : State) (h : Nat) : State :=
  let s := if (s.heldBy h).isEmpty then s else State.cxTake h false (s.heldBy h) s
  State.hostDrain h (976 + (s.heldBy h).length) [] s

def State.hostServe (s : State) : State := (s.hostServePort 0).hostServePort 1

/-- Nothing waits at a port. -/
def State.portIdle (s : State) (h : Nat) : Bool := (s.heldBy h).isEmpty && (upTo 15).all fun k => ((s.ld k).queue h).isEmpty

/-- A request arrives at a port: where nothing waits it is performed, if it may issue; else it joins those that wait, and the port's
queues are served (13 R400, R401). -/
def State.hostReq (s : State) (k : Nat) (q : HostReq) : State :=
  let h := q.hub
  if !s.ldOn h k then s
  else
    let wait := State.cxTake h true (s.heldBy h ++ [(k, q)]) s
    if s.portIdle h then
      if q.kind = .inv then s.hostAnswer h k .cmp
      else if s.portIssues h && s.belowLimit h k then
        match s.hostTry k q with
        | some t => t.ldShow k
        | none => wait
      else wait
    else if (s.heldBy h).isEmpty then wait.hostServePort h
    else s.setHeld h (s.heldBy h ++ [(k, q)])

def hostLine (hpa : BitVec 52) : Nat := hpa.toNat / 64 * 64
def readReq (h : Nat) (hpa : BitVec 52) : HostReq := ⟨h, .read, hostLine hpa, 0, 0, false⟩
def invReq (h : Nat) (hpa : BitVec 52) : HostReq := ⟨h, .inv, hostLine hpa, 0, 0, false⟩
def writeReq (h : Nat) (hpa : BitVec 52) (mask : BitVec 64) (data : BitVec 512) (poison : Bool) : HostReq :=
  ⟨h, .write, hostLine hpa, mask, data, poison⟩

/-- MemRd: the line is read (13 Table 13-2); any other request that is answered with data is a decode miss. -/
def execMemRd (h : Fin 2) (k : Fin 15) (r : HostAddr) (s : State) : Host.Outcome State Fault Refusal :=
  let q := readReq h.val r.hpa
  .next (s.hostReq k.val (if r.other then { q with kind := .otherRead } else q))

/-- MemRdData: the line is read. -/
def execMemRdData (h : Fin 2) (k : Fin 15) (hpa : BitVec 52) (s : State) : Host.Outcome State Fault Refusal :=
  .next (s.hostReq k.val (readReq h.val hpa))

/-- MemSpecRd: no effect and no response. -/
def execMemSpecRd (_ : Fin 2) (_ : Fin 15) (_ : BitVec 52) (s : State) : Host.Outcome State Fault Refusal := .next s

/-- MemInv, MemInvNT: no effect; Cmp. -/
def execMemInv (h : Fin 2) (k : Fin 15) (hpa : BitVec 52) (s : State) : Host.Outcome State Fault Refusal :=
  .next (s.hostReq k.val (invReq h.val hpa))
def execMemInvNt (h : Fin 2) (k : Fin 15) (hpa : BitVec 52) (s : State) : Host.Outcome State Fault Refusal :=
  .next (s.hostReq k.val (invReq h.val hpa))

/-- MemWr: the whole line; any other request that is answered without data is a decode miss. -/
def execMemWr (h : Fin 2) (k : Fin 15) (r : HostAddr) (data : BitVec 512) (poison : Bool) (s : State) : Host.Outcome State Fault Refusal :=
  let q := writeReq h.val r.hpa (BitVec.allOnes 64) data poison
  .next (s.hostReq k.val (if r.other then { q with kind := .otherWrite } else q))

/-- MemWrPtl: the enabled bytes. -/
def execMemWrPtl (h : Fin 2) (k : Fin 15) (hpa : BitVec 52) (mask : BitVec 64) (data : BitVec 512) (poison : Bool) (s : State) :
    Host.Outcome State Fault Refusal :=
  .next (s.hostReq k.val (writeReq h.val hpa mask data poison))

/-- HOME_TAKEOVER_COMPLETE (13 R409, 15 R451, 11 R341): every home has moved, the notifications that were due are raised again, and
the requests that waited are served. -/
def execHomeTakeoverComplete (s : State) : Host.Outcome State Fault Refusal :=
  if s.hostWait then .next (s.attempt fun s => { s with hostWait := false }.renotify.settle).hostServe else .next s

/-! ### Mailbox commands (13 R403-R405) -/

/-- The port that a logical device's CXL.io traffic is counted at: that of its last configuration request, or the one that is up. -/
def State.mailPort (s : State) (k : Nat) : Nat := if s.ldOn (s.ld k).port k then (s.ld k).port else 1 - (s.ld k).port
def State.mailIn (s : State) (k n : Nat) : State := s.meter (s.mailPort k) 4 0 n

/-- A mailbox command of a logical device with `inp` bytes of input is answered, and vector 0 signalled; a device that no link reaches
takes none. Its payloads are CXL.io payload of its port (17 Table 17-5). -/
def State.mailbox (s : State) (k : Nat) (r : (Nat × List Byte) × State) (inp : Nat := 0) : State :=
  if s.ldUp k then
    let s := (r.2.mailIn k inp).meter (s.mailPort k) 4 1 r.1.2.length
    { (if k < 15 then s.msixSignal k 0 else s) with resp := .mailbox r.1.1 r.1.2 }
  else s

/-- A list of one-byte values of consecutive logical devices with its count and first index. -/
def ldBytes (first : Nat) (vs : List Nat) : List Byte := natLE 1 vs.length ++ natLE 1 first ++ vs.flatMap fun v => natLE 1 v

/-- FM-API commands (13 R391). -/
def execGetLdInfo (s : State) : Host.Outcome State Fault Refusal :=
  .next (s.mailbox 15 ((0, natLE 8 s.shape.usable ++ natLE 2 15 ++ natLE 1 1), s))

def ldAllocList (first : Nat) (as : List Nat) : List Byte :=
  natLE 1 as.length ++ natLE 1 0 ++ natLE 1 first ++ natLE 1 as.length ++ as.flatMap fun a => natLE 8 a ++ natLE 8 0

def execGetLdAllocations (s : State) : Host.Outcome State Fault Refusal :=
  .next (s.mailbox 15 ((0, ldAllocList 0 s.aks), s))

/-- The end of the DPA range of a logical device's last committed decoder. -/
def LdS.dpaEnd (x : LdS) : Nat :=
  let e (i : Nat) (d : Option HdmDec) : Nat := match d with | some z => x.dpaBase i z + decLen z | none => 0
  max (e 0 x.dec0) (e 1 x.dec1)

/-- Set LD Allocations (13 R392): refused whole, or every Ak changed. -/
def State.setAllocs (s : State) (first : Nat) (r1 r2 : List Nat) : (Nat × List Byte) × State :=
  let new (k : Nat) : Nat := if first ≤ k ∧ k < first + r1.length then r1.getD (k - first) 0 else (s.ld k).alloc
  let total := ((upTo 15).map new).foldl (· + ·) 0
  if r1.length ≠ r2.length ∨ 15 < first + r1.length ∨ (r2.any (· != 0)) = true ∨ s.shape.usable < total * 2 ^ 28 ∨
      ((upTo 15).any fun k => new k != (s.ld k).alloc && decide (new k * 2 ^ 28 < (s.ld k).dpaEnd)) = true then ((2, []), s)
  else
    let old := s.aks
    let t : State := (upTo 15).foldl (fun (z : State) k => z.modLd k fun x => { x with alloc := new k }) s
    ((0, ldAllocList first r1), t.akMoved old)

def execSetLdAllocations (first : Fin 15) (range1 range2 : List (BitVec 64)) (s : State) : Host.Outcome State Fault Refusal :=
  .next (s.mailbox 15 (s.setAllocs first.val (range1.map (·.toNat)) (range2.map (·.toNat))) (4 + 16 * range1.length))

def execGetQosControl (s : State) : Host.Outcome State Fault Refusal := .next (s.mailbox 15 ((0, natLE 1 s.qosControl), s))
def execSetQosControl (v : BitVec 8) (s : State) : Host.Outcome State Fault Refusal :=
  .next (s.mailbox 15 ((0, natLE 1 v.toNat), { s with qosControl := v.toNat }) 1)

/-- The average DevLoad of the last responses, rounded down; 0 before the first. -/
def execGetQosStatus (s : State) : Host.Outcome State Fault Refusal :=
  .next (s.mailbox 15 ((0, natLE 1 (s.devLoads.foldl (· + ·) 0 / s.devLoads.length)), s))

def execGetQosAllocatedBw (s : State) : Host.Outcome State Fault Refusal :=
  .next (s.mailbox 15 ((0, ldBytes 0 ((upTo 15).map fun k => (s.ld k).weight)), s))
def execGetQosBwLimit (s : State) : Host.Outcome State Fault Refusal :=
  .next (s.mailbox 15 ((0, ldBytes 0 ((upTo 15).map fun k => (s.ld k).limit)), s))

/-- A list set from a first logical device on; one that passes the last has a wrong length. -/
def State.setEach (s : State) (first : Nat) (vs : List Nat) (f : LdS → Nat → LdS) : (Nat × List Byte) × State :=
  if 15 < first + vs.length then ((2, []), s)
  else
    let t : State := (upTo vs.length).foldl (fun (z : State) i => z.modLd (first + i) fun x => f x (vs.getD i 0)) s
    ((0, ldBytes first vs), t)

def execSetQosAllocatedBw (first : Fin 15) (v : List Byte) (s : State) : Host.Outcome State Fault Refusal :=
  .next (s.mailbox 15 (s.setEach first.val (v.map (·.toNat)) fun x w => { x with weight := w }) (2 + v.length))
def execSetQosBwLimit (first : Fin 15) (v : List Byte) (s : State) : Host.Outcome State Fault Refusal :=
  .next (s.mailbox 15 (s.setEach first.val (v.map (·.toNat)) fun x w => { x with limit := w }) (2 + v.length))

/-- The opcodes that a logical device supports (13 Tables 13-1, 13-3, 13-5). -/
def mailOps (k : Nat) : List Nat :=
  [0x4000, 0x4200, 0x0100, 0x0101, 0x0102, 0x0103, 0x4300, 0xC000, 0xC100, 0xC101, 0xC200, 0xC300] ++
    (if k = 15 then (upTo 10).map (0x5400 + ·) else [])

/-- UNSUPPORTED_OPCODE: any other opcode (13 R391, R403). A listed opcode here stands for that command with an input of a wrong length,
which every other command's operands fit: Invalid Input (DESIGN CHOICE of the operands, assumption 26). -/
def execUnsupportedOpcode (ld : Fin 16) (op : BitVec 16) (s : State) : Host.Outcome State Fault Refusal :=
  .next (s.mailbox ld.val ((if (mailOps ld.val).contains op.toNat then 2 else 3, []), s))

/-- Identify Memory Device (13 Table 13-3). -/
def execIdentifyMemoryDevice (k : Fin 16) (s : State) : Host.Outcome State Fault Refusal :=
  let cap := if k.val = 15 then 0 else s.ak k.val
  .next (s.mailbox k.val ((0, natLE 8 (Config.partConst 40).toNat ++ natLE 8 (Config.partConst 41).toNat ++ natLE 8 cap ++ natLE 8 cap ++
    natLE 8 0 ++ natLE 8 0 ++ ((upTo 4).flatMap fun _ => natLE 2 64) ++ natLE 4 0 ++ natLE 3 2048 ++ natLE 2 0 ++ natLE 1 0 ++
    natLE 1 0), s))

/-- Maintenance is needed: a channel is alone or failed. -/
def State.maintenance (s : State) : Bool :=
  (upTo 2).any fun h => (upTo 4).any fun m => s.bit (mcReg h m + 8) 2 || s.bit (mcReg h m + 0x10) 5

/-- Get Health Info: the temperature is free (assumption 1). -/
def execGetHealthInfo (k : Fin 16) (s : State) : Host.Outcome State Fault Refusal :=
  let (t, z) := s.draw
  .next (s.mailbox k.val ((0, natLE 1 (b2n s.maintenance) ++ natLE 1 0 ++ natLE 1 0 ++ natLE 1 0xFF ++ natLE 2 t.toNat ++ natLE 4 0 ++
    natLE 4 (min (2 ^ 32 - 1) s.ceTotal) ++ natLE 4 0), z))

/-- The UUID of General Media Event Records, and of Brubex records (assumption 4). -/
def mediaUuid : List Byte :=
  [0xFB, 0xCD, 0x0A, 0x77, 0xC2, 0x60, 0x41, 0x7F, 0x85, 0xA9, 0x08, 0x8B, 0x16, 0x21, 0xEB, 0xA6]
def brubexUuid : List Byte := natLE 8 (Config.partConst 24).toNat ++ natLE 8 (Config.partConst 25).toNat

/-- An event record of 128 bytes. -/
def EvRec.bytes (r : EvRec) : List Byte :=
  (if r.media then mediaUuid else brubexUuid) ++ natLE 1 128 ++ natLE 3 0 ++ natLE 2 r.handle ++ natLE 2 0 ++ natLE 8 r.time ++
    natLE 16 0 ++ natLE 8 r.a ++ natLE 8 r.b ++ natLE 64 0

/-- Get Event Records (13 R404): the oldest records that a payload holds. The times of overflows are not stated and are free
(assumption 1). -/
def execGetEventRecords (k : Fin 16) (log : EvLog) (s : State) : Host.Outcome State Fault Refusal :=
  let x := s.ld k.val
  let rs := x.log log
  let ov := SMap.get (dflt 0) x.overflow (logNum log)
  let t (i : Nat) : List Byte := natLE 8 (if ov = 0 then 0 else (Config.freeWord (s.fresh + i)).toNat)
  .next (s.mailbox k.val ((0, natLE 1 (b2n (ov != 0) + 2 * b2n (31 < rs.length)) ++ natLE 1 0 ++ natLE 2 (min 65535 ov) ++ t 0 ++ t 1 ++
    natLE 2 (min 31 rs.length) ++ natLE 10 0 ++ (rs.take 31).flatMap EvRec.bytes), { s with fresh := s.fresh + 2 }) 1)

/-- Clear Event Records: the whole log, or the records named; a handle that the log does not hold is invalid input. -/
def execClearEventRecords (k : Fin 16) (log : EvLog) (all : Bool) (handles : List (BitVec 16)) (s : State) :
    Host.Outcome State Fault Refusal :=
  let x := s.ld k.val
  let rs := x.log log
  let hs := handles.map (·.toNat)
  if all then
    .next (s.mailbox k.val ((0, []), s.setLd k.val { x.setLog log [] with overflow := SMap.set (dflt 0) x.overflow (logNum log) 0 }) 6)
  else if hs.all fun v => rs.any fun r => r.handle == v then
    .next (s.mailbox k.val ((0, []), s.setLd k.val
      { x.setLog log (rs.filter fun r => !hs.contains r.handle) with overflow := SMap.set (dflt 0) x.overflow (logNum log) 0 }) (6 + 2 * hs.length))
  else .next (s.mailbox k.val ((2, []), s) (6 + 2 * hs.length))

def execGetEventInterruptPolicy (k : Fin 16) (s : State) : Host.Outcome State Fault Refusal :=
  .next (s.mailbox k.val ((0, (upTo 4).flatMap fun i => natLE 1 (b2n (bitOf (s.ld k.val).policy i))), s))
def execSetEventInterruptPolicy (k : Fin 16) (pol : BitVec 4) (s : State) : Host.Outcome State Fault Refusal :=
  .next (s.mailbox k.val ((0, []), s.modLd k.val fun x => { x with policy := pol.toNat }) 4)

/-- Every listed poisoned word of the home controllers: those of a hub that serves no address are left out (10 R321). -/
def State.poisonList (s : State) : List Nat :=
  ((upTo 2).filter fun h => !nsMem s.fenced h).flatMap fun h => (upTo 4).flatMap fun m => (upTo 256).filterMap fun i =>
    let v := s.rg (mcReg h m + 0x100 + 8 * i)
    if getBits v 63 1 = 1 then some (getBits v 0 44) else none

/-- Get Poison List: each listed word at each DPA that maps it. A payload holds 254 records; while more follow the answer says so, and the
next command goes on from there (assumption 26). -/
def execGetPoisonList (k : Fin 16) (s : State) : Host.Outcome State Fault Refusal :=
  let all := if k.val = 15 then [] else s.poisonList.flatMap fun a => s.dpasOf k.val a
  let ds := all.drop (s.ld k.val).poisonPos
  let full := (upTo 2).any fun h => (upTo 4).any fun m => s.bit (mcReg h m + 0x10) 6
  .next (s.mailbox k.val ((0, natLE 1 (b2n (254 < ds.length) + 2 * b2n full) ++ natLE 1 0 ++ natLE 8 0 ++ natLE 2 (min 254 ds.length) ++
    natLE 20 0 ++ (ds.take 254).flatMap fun d => natLE 8 d ++ natLE 4 1 ++ natLE 4 0),
    s.modLd k.val fun x => { x with poisonPos := if 254 < ds.length then x.poisonPos + 254 else 0 }) 16)

/-- The fields of Get Device Info for a domain (13 Table 13-5). -/
def State.deviceInfo (s : State) (dom : Nat) : List Byte :=
  natLE 1 s.dev ++ natLE 1 0x41 ++ natLE 4 s.rateHz ++ natLE 1 s.active ++ natLE 1 (s.fld (hubReg s.active 6) 0 2) ++ natLE 1 dom ++
    natLE 1 s.prioDom ++ brubexUuid

/-- Get Device Info. -/
def execGetDeviceInfo (k : Fin 16) (s : State) : Host.Outcome State Fault Refusal :=
  .next (s.mailbox k.val ((0, natLE 4 0 ++ s.deviceInfo (if k.val = 15 then 0 else k.val + 1)), s))

/-- Attest (13 R405, 16 R475). -/
def execAttest (ld : Fin 16) (nonce : BitVec 256) (off : BitVec 32) (s : State) : Host.Outcome State Fault Refusal :=
  if s.dev < 2 then .next (s.mailbox ld.val ((6, []), s) 36)
  else
    let ((c, bs), z) := s.attest (if ld.val = 15 then 0 else ld.val + 1) nonce.toNat off.toNat
    .next (s.mailbox ld.val ((0, natLE 4 c ++ natLE 4 (match z.attSnap with | some (_, l) => if c = 0 then l.length else 0 | none => 0) ++ bs), z) 36)

/-! ### CDAT and GPF (13 R407) -/

/-- The entries of a logical device's CDAT after its header. -/
def cdatEntries (ak : Nat) : List (List Byte) :=
  let lat (ty base v : Nat) : List Byte :=
    natLE 1 1 ++ natLE 1 0 ++ natLE 2 24 ++ natLE 1 0 ++ natLE 1 0 ++ natLE 1 ty ++ natLE 1 0 ++ natLE 8 base ++ natLE 2 v ++ natLE 2 0 ++
      natLE 2 0 ++ natLE 2 0
  [natLE 1 0 ++ natLE 1 0 ++ natLE 2 24 ++ natLE 1 0 ++ natLE 1 0 ++ natLE 2 0 ++ natLE 8 0 ++ natLE 8 (ak * 2 ^ 28),
    lat 1 1000 450, lat 2 1000 350, lat 4 1 29000, lat 5 1 29000,
    natLE 1 4 ++ natLE 1 0 ++ natLE 2 24 ++ natLE 1 0 ++ natLE 1 1 ++ natLE 2 0 ++ natLE 8 0 ++ natLE 8 (ak * 2 ^ 28)]

/-- The header: length, revision, checksum, sequence. -/
def cdatHeader (seq : Nat) (es : List (List Byte)) : List Byte :=
  let all := es.flatten
  let rest := natLE 6 0 ++ natLE 4 seq
  let start := natLE 4 (16 + all.length) ++ natLE 1 1
  let sum := (start ++ rest ++ all).foldl (fun n b => n + b.toNat) 0
  start ++ natLE 1 (256 - sum % 256) ++ rest

/-- A data object exchange: the request's bytes and the response's are CXL.io payload (17 Table 17-5). -/
def State.doe (s : State) (k inp : Nat) (r : List Byte) : State :=
  { (s.mailIn k inp).meter (s.mailPort k) 4 1 r.length with resp := .doe r }

/-- CDAT_TABLE_ACCESS: one entry with the handle of the next; a handle past the last is answered with no entry. -/
def execCdatTableAccess (k : Fin 15) (handle : BitVec 16) (s : State) : Host.Outcome State Fault Refusal :=
  if !s.ldUp k.val then .next s
  else
    let es := cdatEntries (s.ak k.val)
    let all := cdatHeader (s.ld k.val).cdatSeq es :: es
    let i := handle.toNat
    .next (s.doe k.val 4 (natLE 1 0 ++ natLE 1 0 ++ natLE 2 (if i + 1 < all.length then i + 1 else 0xFFFF) ++ all.getD i []))

/-- DOE_DISCOVERY: the protocols supported, Discovery itself and CDAT Table Access. -/
def execDoeDiscovery (k : Fin 16) (ix : Byte) (s : State) : Host.Outcome State Fault Refusal :=
  if !s.ldUp k.val then .next s
  else
    let r : List Byte := if ix.toNat = 0 then natLE 2 1 ++ natLE 1 0 ++ natLE 1 1
      else if ix.toNat = 1 then natLE 2 0x1E98 ++ natLE 1 2 ++ natLE 1 0 else natLE 2 0xFFFF ++ natLE 1 0 ++ natLE 1 0
    .next (s.doe k.val 4 r)

/-- GLOBAL_PERSISTENT_FLUSH: each phase completes at once. -/
def execGlobalPersistentFlush (k : Fin 16) (_ : Fin 2) (s : State) : Host.Outcome State Fault Refusal :=
  if s.ldUp k.val then .next { s with resp := .completion } else .next s

end Sys2Proof.Machine
end

