-- ==== Sys2Proof/Machine/Service.lean ====
section
/-! DEFINITION. NGP on the media ports and the service port's SDO server and long-transfer service (14 R425-R430). -/

namespace Sys2Proof.Machine
open Sys2Proof

/-! ### NGP (14 R425, R426) -/

/-- The bytes of a request from 0 to the end of DATA. -/
def ngpBytes (op : Nat) (k : NgpMsg) : List Byte :=
  natLE 2 k.version.toNat ++ natLE 1 op ++ [k.dom] ++ natLE 4 k.seq.toNat ++ natLE 2 k.index.toNat ++ [k.sub, k.flags] ++
    natLE 4 k.off.toNat ++ natLE 2 k.data.length ++ natLE 6 0 ++ natLE 4 0 ++ natLE 4 0 ++ k.data

/-- The NGP key of a domain; none where no key has been written. -/
def State.ngpKey (s : State) (d : Nat) : Option (BitVec 256) :=
  let v := s.dVal (if d = 0 then dKey 0x3004 0 else dKey 0x3003 d)
  if v.length = 32 then some (BitVec.ofNat 256 (leNat v)) else none

def State.ngpOf (s : State) (d : Nat) : NgpRec := SMap.get (dflt ⟨0, []⟩) s.ngp d

/-- SEQ is new: not accepted before, and greater than the highest accepted minus 64. -/
def NgpRec.fresh (r : NgpRec) (seq : Nat) : Bool := !r.seen.contains seq && decide (r.high < seq + 64)

/-- The record after a SEQ is accepted. -/
def NgpRec.take (r : NgpRec) (seq : Nat) : NgpRec :=
  let h := max r.high seq
  ⟨h, (nsAdd r.seen seq).filter fun v => decide (h < v + 64)⟩

/-- A request is sent to the address that a port answers at, and to NGPPORT (14 R425). -/
def State.ngpFor (s : State) (p : Nat) (k : NgpMsg) : Bool :=
  k.dstIp.toNat == s.portIp p && k.dstPort.toNat == s.dNat (dKey 0x4002 0)

/-- A request is accepted: from CONFIG on by its MAC and SEQ, and counted in NGPDROP otherwise, as is one of a domain that has no key;
before, for domain 0 alone and not for WRITE. -/
def State.ngpAccept (s : State) (p op : Nat) (k : NgpMsg) : Bool × State :=
  if !s.portOn p || !k.wellFormed || k.version.toNat != 1 || decide (1024 < k.data.length) ||
      k.flags.toNat / 2 != 0 then (false, s)
  else
    let s := (s.rxFrame p (94 + k.data.length) true).2
    if !s.ngpFor p k then (false, s)
    else if s.dev < 2 then (k.dom.toNat == 0 && op != 2, s)
    else
      let r := s.ngpOf k.dom.toNat
      let good := match s.ngpKey k.dom.toNat with
        | some key => (Config.hmac key (ngpBytes op k)).truncate 128 == k.mac
        | none => false
      if good && r.fresh k.seq.toNat then (true, { s with ngp := SMap.set (dflt ⟨0, []⟩) s.ngp k.dom.toNat (r.take k.seq.toNat) })
      else (false, { s with ngpDrop := min (2 ^ 32 - 1) (s.ngpDrop + 1) })

/-- The path of a request, and the hub that carries its transfer. -/
def NgpReq.path (r : NgpReq) : Path := .ngp (r.msg.dom.truncate 4)
def State.ngpCarried (s : State) (r : NgpReq) : State :=
  let d := r.msg.dom.toNat
  let hs := if r.msg.off.toNat = 0 then [] else SMap.get (dflt []) s.ngpHubs d
  { s with ngpHubs := SMap.set (dflt []) s.ngpHubs d (nsAdd hs (r.port / 2)) }

/-- The bytes of a reply: the request's fields with OP + 0x80, STATUS, TOTAL and DATA, and the MAC, which is 0 before CONFIG (14 R425,
R426). -/
def State.ngpMsg (s : State) (r : NgpReq) (code total : Nat) (data : List Byte) : List Byte :=
  let k := r.msg
  let bs := natLE 2 1 ++ natLE 1 (r.op + 0x80) ++ [k.dom] ++ natLE 4 k.seq.toNat ++ natLE 2 k.index.toNat ++ [k.sub, k.flags] ++
    natLE 4 k.off.toNat ++ natLE 2 data.length ++ natLE 6 0 ++ natLE 4 code ++ natLE 4 total ++ data
  bs ++ match s.ngpKey k.dom.toNat with
    | some key => if s.dev < 2 then zeros 16 else (natLE 32 (Config.hmac key bs).toNat).take 16
    | none => zeros 16

/-- A reply leaves by the receiving port, to the request's source address and port. -/
def State.ngpReply (s : State) (r : NgpReq) (code total : Nat) (data : List Byte) : State :=
  { s.txFrame r.port (94 + data.length) with resp := .ngp r.port r.msg.srcIp.toNat r.msg.srcPort.toNat (s.ngpMsg r code total data) }

/-- INFO: the fields of Get Device Info. -/
def execNgpInfo (p : Fin 4) (k : NgpMsg) (s : State) : Host.Outcome State Fault Refusal :=
  match s.ngpAccept p.val 4 k with
  | (false, s) => .next s
  | (true, s) => .next (s.ngpReply ⟨p.val, 4, k⟩ 0 0 (s.deviceInfo k.dom.toNat))

/-! ### Answers (13 R406, 14 R425, R427-R429) -/

/-- An answer on the path with a number: a mailbox completion, which signals vector 0; the reply to the NGP request that waits for it; an
END reply of the long-transfer service. A controller that is not on the bus sends nothing, and path 35 is nobody's. -/
def State.send (s : State) (q code : Nat) (data : List Byte) : State :=
  if q < 16 then s.mailbox q ((0, natLE 4 code ++ data), s)
  else if q < 32 then
    match SMap.get (dflt none) s.ngpReq (q - 16) with
    | some r => { s with ngpReq := SMap.set (dflt none) s.ngpReq (q - 16) none }.ngpReply r code 0 data
    | none => { s with resp := .dict code data }
  else if q = 32 then (if s.canUp then { s with resp := .dict code data } else s)
  else if q = 33 then (if s.canUp then { s with resp := s.longFrame ([0x85, 0] ++ natLE 4 code) } else s)
  else if q = 34 then { s with resp := .dict code data }
  else s

/-- An answer on a path, at once or later. -/
def State.answer (p : Path) (r : Option Nat × State) : State :=
  match r.1 with
  | some c => r.2.send (pathNum p) c []
  | none => r.2

/-- A request of NGP that is answered later is kept until then. -/
def State.ngpAnswer (r : NgpReq) (x : Option Nat × State) : State :=
  match x.1 with
  | some c => x.2.ngpReply r c 0 []
  | none => { x.2 with ngpReq := SMap.set (dflt none) x.2.ngpReq r.msg.dom.toNat (some r) }

/-- An accepted READ or WRITE is performed. -/
def State.ngpAccess (s : State) (r : NgpReq) : State :=
  let k := r.msg
  if r.op = 1 then
    let ((c, total, bs), s) := s.dictGet r.path k.index.toNat k.sub.toNat k.off.toNat 1024
    s.ngpReply r c total bs
  else (State.ngpAnswer r (s.dictPart r.path k.index.toNat k.sub.toNat k.off.toNat (bitOf k.flags.toNat 0) k.data)).settle

/-- IMAGE (16 R467). -/
def execNgpImage (p : Fin 4) (k : NgpMsg) (s : State) : Host.Outcome State Fault Refusal :=
  match s.ngpAccept p.val 3 k with
  | (false, s) => .next s
  | (true, s) =>
    let r : NgpReq := ⟨p.val, 3, k⟩
    let s := s.ngpCarried r
    let s := if k.off.toNat = 0 then s.newXfer (pathNum r.path) else s
    .next (State.ngpAnswer r (s.imagePart r.path k.off.toNat (bitOf k.flags.toNat 0) k.data))

/-! ### The controllers (14 R427, R430) -/

def canReg (h : Nat) : Nat := hubReg h 10

/-- CAN_BUS_ERROR (14 Table 14-9): the counters after the error, the error frame, and the state they give. -/
def execCanBusError (h : Fin 2) (tec rec : BitVec 9) (s : State) : Host.Outcome State Fault Refusal :=
  if !s.dieActs h.val || nsMem s.busOff h.val then .next s
  else
    let r := canReg h.val
    let old := s.fld r 10 2
    let new := if 255 < tec.toNat then 2 else if 127 < tec.toNat ∨ 127 < rec.toNat then 1 else 0
    let s := ((s.setFld (r + 0x10) 0 8 tec.toNat).setFld (r + 0x10) 8 8 rec.toNat).addSat (r + 0x10) 32 32 1
    let s := s.setFld r 10 2 new
    let s := if new = 1 ∧ old = 0 then s.canSticky h.val 1 else s
    .next (if new = 2 then { s with busOff := nsAdd s.busOff h.val }.canSticky h.val 0 else s)

/-- BUS_OFF_RECOVERY: error active again, with both counters at 0. -/
def execBusOffRecovery (h : Fin 2) (s : State) : Host.Outcome State Fault Refusal :=
  if nsMem s.busOff h.val then
    let r := canReg h.val
    .next ({ s with busOff := nsDel s.busOff h.val }.setFld r 10 2 0 |>.setFld (r + 0x10) 0 16 0)
  else .next s

/-- NMT commands are received and ignored (14 R428). -/
def execNmtCommand (_ : BitVec 16) (s : State) : Host.Outcome State Fault Refusal := .next s

/-- HEARTBEAT (14 R428): sent while the period is not 0. -/
def execHeartbeat (s : State) : Host.Outcome State Fault Refusal :=
  if s.canUp && s.dNat (dKey 0x1017 0) != 0 then
    .next { s with resp := .frame (0x700 + s.straps.node.toNat) [if s.dev < 2 then 0x7F else 0x05] }
  else .next s

/-! ### The SDO server (14 R428) -/

def sdoIdx (f : Word) : Nat := getBits f 8 16
def sdoSub (f : Word) : Nat := getBits f 24 8
def sdoCcs (f : Word) : Nat := getBits f 5 3

/-- An answer frame, or an abort. -/
def State.sdoDone (s : State) (i sub code : Nat) (ok : List Byte) : State :=
  { s with resp := if code = 0 then s.sdoFrame ok else s.sdoAbort i sub code }

/-- An upload: up to four bytes in the response, or a segmented transfer of the value as it stands. -/
def State.sdoUpload (s : State) (f : Word) : State :=
  let i := sdoIdx f
  let sub := sdoSub f
  match (s.newXfer 32).dictRead .sdo i sub with
  | ((0, v), s) =>
    let n := v.length
    let head := natLE 2 i ++ natLE 1 sub
    if 1 ≤ n ∧ n ≤ 4 then s.sdoDone i sub 0 (natLE 1 (0x43 + 4 * (4 - n)) ++ head ++ v)
    else (s.setXfer 32 (some ⟨false, i, sub, v, n, 0, false, 0⟩)).sdoDone i sub 0 ([0x41] ++ head ++ natLE 4 n)
  | ((c, _), s) => s.sdoDone i sub c []

/-- A whole value written: an answer at once, or later. -/
def State.sdoWrite (s : State) (i sub : Nat) (v ok : List Byte) : State :=
  match s.dictWrite .sdo i sub v with
  | (some c, s) => s.settle.sdoDone i sub c ok
  | (none, s) => s.settle

/-- A download: a value of up to four bytes, or the start of a segmented transfer. -/
def State.sdoDownload (s : State) (f : Word) : State :=
  let i := sdoIdx f
  let sub := sdoSub f
  let head := natLE 2 i ++ natLE 1 sub
  let s := s.newXfer 32
  if getBits f 1 1 = 1 then
    s.sdoWrite i sub (natLE (if getBits f 0 1 = 1 then 4 - getBits f 2 2 else 4) (getBits f 32 32)) ([0x60] ++ head)
  else
    match s.headCode .sdo i sub with
    | 0 =>
      let total := if getBits f 0 1 = 1 then getBits f 32 32 else 0
      (s.setXfer 32 (some ⟨true, i, sub, [], total, 0, false, 0⟩)).sdoDone i sub 0 ([0x60] ++ head)
    | c => s.sdoDone i sub c []

/-- A download segment of the running transfer. -/
def State.sdoDownSeg (s : State) (f : Word) (x : Xfer) : State :=
  let t := getBits f 4 1 == 1
  if t != x.toggle then (s.setXfer 32 none).sdoDone x.idx x.sub abToggle []
  else
    let v := x.data ++ natLE (7 - getBits f 1 3) (getBits f 8 56)
    let ack : List Byte := natLE 1 (0x20 + 16 * b2n t)
    if getBits f 0 1 = 0 then (s.setXfer 32 (some { x with data := v, toggle := !x.toggle })).sdoDone x.idx x.sub 0 ack
    else
      let s := s.setXfer 32 none
      if x.total ≠ 0 ∧ x.total ≠ v.length then s.sdoDone x.idx x.sub abLength [] else s.sdoWrite x.idx x.sub v ack

/-- An upload segment. -/
def State.sdoUpSeg (s : State) (f : Word) (x : Xfer) : State :=
  let t := getBits f 4 1 == 1
  if t != x.toggle then (s.setXfer 32 none).sdoDone x.idx x.sub abToggle []
  else
    let part := (x.data.drop x.pos).take 7
    let last := decide (x.data.length ≤ x.pos + 7)
    let s := s.setXfer 32 (if last then none else some { x with pos := x.pos + 7, toggle := !x.toggle })
    s.sdoDone x.idx x.sub 0 (natLE 1 (16 * b2n t + 2 * (7 - part.length) + b2n last) ++ part)

/-- A segment of the running transfer; one that fits none is refused; an abort of the client ends it. -/
def State.sdoSegment (s : State) (f : Word) : State :=
  let c := sdoCcs f
  if c = 4 then s.setXfer 32 none
  else
    match s.xferOf 32 with
    | none => { s with resp := s.sdoAbort 0 0 abSpecifier }
    | some x =>
      if x.write = (c == 0) then (if c = 0 then s.sdoDownSeg f x else s.sdoUpSeg f x)
      else { s.setXfer 32 none with resp := s.sdoAbort x.idx x.sub abSpecifier }

/-- SDO_INVALID_COMMAND: block transfer and every other command specifier. -/
def execSdoInvalidCommand (f : Word) (s : State) : Host.Outcome State Fault Refusal :=
  if !s.canUp || decide (sdoCcs f ≤ 4) then .next s
  else .next { s.setXfer 32 none with resp := s.sdoAbort (sdoIdx f) (sdoSub f) abSpecifier }

/-! ### The long-transfer service (14 R429) -/

def frByte (f : BitVec 512) (i : Nat) : Nat := bitsOf f.toNat (8 * i) 8
def frNat (f : BitVec 512) (i n : Nat) : Nat := bitsOf f.toNat (8 * i) (8 * n)

/-- The DATA frames of a value. -/
def longFrames (n : Nat) : Nat := cdiv n 62

/-- What the device sends from frame `pos` on: at most 16 unacknowledged DATA frames, or END once all are acknowledged. -/
def Xfer.burst (x : Xfer) : List (List Byte) :=
  let n := longFrames x.data.length
  let pad (bs : List Byte) : List Byte := (bs ++ zeros 64).take 64
  if n ≤ x.pos then [pad ([5, 0] ++ natLE 4 (crc32c x.data))]
  else (upTo (min 16 (n - x.pos))).map fun j => pad ([3] ++ natLE 1 (x.pos + j) ++ (x.data.drop (62 * (x.pos + j))).take 62)

/-- The transfer with its burst sent. -/
def State.longSend (s : State) (first : List (List Byte)) (x : Xfer) : State :=
  { s.setXfer 33 (some { x with seq := min (longFrames x.data.length) (x.pos + 16) }) with
    resp := .frames (0x1F5B000 + s.straps.node.toNat) (first ++ x.burst) }

/-- Checks 1 to 8 of a write by INIT: the length is the one announced (14 Table 14-5). In LOADING an image is claimed. -/
def State.longHead (s : State) (i sub n : Nat) : Nat × State :=
  match s.headCode .long i sub with
  | 0 =>
    let fits := match s.dEntry i sub with | .ok e => lengthOk e.ty n | .error _ => false
    if i = 0x1F50 ∧ sub = 1 then
      if s.imgWait ∨ s.imgStat = 2 ∨ s.imgOwner.any (· != 33) = true then (abCond, s)
      else if 0x4000000 < n then (abLength, s)
      else (0, { s with imgOwner := some 33, imgLen := 0, imgStat := 1 })
    else if i = 0x2041 ∧ sub = 1 then (if 0x4000000 < n then (abLength, s) else (0, s))
    else if fits then (0, s) else (abLength, s)
  | c => (c, s)

/-- INIT of a read or a write: any transfer in progress on the path is abandoned. -/
def State.longInit (s : State) (f : BitVec 512) : State :=
  let op := frByte f 0
  let i := frNat f 2 2
  let sub := frByte f 4
  let head (op n code : Nat) : List Byte := natLE 1 op ++ [0] ++ natLE 2 i ++ natLE 1 sub ++ [0] ++ natLE 4 n ++ natLE 4 code
  let s := s.newXfer 33
  if op = 1 then
    match s.dictRead .long i sub with
    | ((0, v), s) => s.longSend [(head 0x81 v.length 0 ++ zeros 64).take 64] ⟨false, i, sub, v, v.length, 0, false, 0⟩
    | ((c, _), s) => { s with resp := s.longFrame (head 0x81 0 c) }
  else
    let n := frNat f 6 4
    match s.longHead i sub n with
    | (0, s) => { s.setXfer 33 (some ⟨true, i, sub, [], n, 0, false, 0⟩) with resp := s.longFrame (head 0x82 n 0) }
    | (c, s) => { s with resp := s.longFrame (head 0x82 n c) }

/-- DATA from the tester: in order it is taken, and acknowledged as every sixteenth or the last; out of order the last one in order is
acknowledged. -/
def execDataFrame (f : BitVec 512) (s : State) : Host.Outcome State Fault Refusal :=
  match s.xferOf 33 with
  | some x =>
    if !s.canUp || !x.write || frByte f 0 != 3 then .next s
    else
      let ack (n : Nat) : Reply := s.longFrame ([4] ++ natLE 1 (n + 255))
      if frByte f 1 ≠ x.seq % 256 ∨ x.total ≤ x.data.length then .next { s with resp := ack x.seq }
      else
        let v := x.data ++ natLE (min 62 (x.total - x.data.length)) (frNat f 2 62)
        let n := x.seq + 1
        let s := s.setXfer 33 (some { x with data := v, seq := n })
        .next (if n % 16 = 0 ∨ x.total ≤ v.length then { s with resp := ack n } else s)
  | none => .next s

/-- ACK from the tester: the frames after the last one that it has in order are sent. -/
def execAckFrame (f : BitVec 512) (s : State) : Host.Outcome State Fault Refusal :=
  match s.xferOf 33 with
  | some x =>
    let pos := x.pos + (frByte f 1 + 1 + 256 - x.pos % 256) % 256
    if !s.canUp || x.write || frByte f 0 != 4 || decide (x.seq < pos) then .next s
    else .next (s.longSend [] { x with pos := pos })
  | none => .next s

/-- END: the tester's, of a value whose CRC is checked before it is written whole; or its reply to the device's. -/
def State.longEnd (s : State) (f : BitVec 512) : State :=
  match s.xferOf 33 with
  | some x =>
    if frByte f 0 = 5 ∧ x.write = true then
      let s := s.setXfer 33 none
      if frNat f 2 4 ≠ crc32c x.data ∨ x.data.length ≠ x.total then
        { (if x.idx = 0x1F50 then s.imgDrop else s) with resp := s.longFrame ([0x85, 0] ++ natLE 4 abCrc) }
      else (State.answer .long (s.dictPart .long x.idx x.sub 0 true x.data)).settle
    else if frByte f 0 = 0x85 ∧ x.write = false then s.setXfer 33 none
    else s
  | none => s

/-- ABORT from the tester ends the transfer; nothing is applied. -/
def execAbortFrame (f : BitVec 512) (s : State) : Host.Outcome State Fault Refusal :=
  match s.xferOf 33 with
  | some x =>
    if !s.canUp || frByte f 0 != 6 then .next s
    else .next ((if x.write && x.idx == 0x1F50 then s.imgDrop else s).setXfer 33 none)
  | none => .next s

end Sys2Proof.Machine
end

