-- ==== Sys2Proof/Machine/Access.lean ====
section
/-! DEFINITION. Accesses of the dictionary as they reach the runtime, one at a time (14 R419-R433; 13 R405; 16 R467, R477), and the commands
that are accesses. -/

namespace Sys2Proof.Machine
open Sys2Proof

/-- An access is performed and answered (14 R420). -/
def State.access (s : State) : Access → State
  | .write p i sub data => State.answer p (s.dictWrite p i sub data)
  | .part p i sub off last data => (State.answer p (s.dictPart p i sub off last data)).settle
  | .get ld i sub off =>
    let ((c, total, bs), s) := s.dictGet (.mailbox ld) i sub off 4088
    s.mailbox ld.val ((0, natLE 4 c ++ natLE 4 total ++ bs), s)
  | .ngp r => s.ngpAccess r
  | .sdo f => if sdoCcs f = 2 then s.sdoUpload f else if sdoCcs f = 1 then s.sdoDownload f else s.sdoSegment f
  | .long f => if frByte f 0 = 1 ∨ frByte f 0 = 2 then s.longInit f else s.longEnd f
  | .nonce => let ((c, v), s) := s.dictRead .sdo 0xA110 1; { s with resp := .dict c v }

/-- An access reaches the dictionary: it is performed, or waits behind a COMMAND that is answered once RUN is in force. -/
def State.takeAccess (s : State) (a : Access) : State :=
  if s.runReq.isSome then { s with accWait := s.accWait ++ [a] } else s.access a

/-- The accesses that waited are performed in their order; their answers follow that of the COMMAND. -/
def State.accGo (s : State) : State :=
  s.accWait.foldl (fun z a => let t := z.access a; { t with also := t.also ++ [t.resp], resp := z.resp }) { s with accWait := [], also := [] }

/-- A dictionary access on a path: none where the path carries nothing, Busy on a mailbox before CONFIG (13 R405). -/
def State.onPath (s : State) (p : Path) (a : Access) : State :=
  if !s.pathLive p then s
  else
    match p with
    | .mailbox ld =>
      let s := s.mailIn ld.val a.bytes
      if s.dev < 2 then s.mailbox ld.val ((6, []), s) else s.takeAccess a
    | _ => s.takeAccess a

/-! ### RUN (16 R477, 14 R419) -/

/-- What stands as RUN is entered, before its answer. -/
def State.enterRun (s : State) : State :=
  let s := s.prepare.settle.unitsEnter
  let s := { s with runReq := none, runBlk := (s.die s.active).tide / 16 + 1, prot := s.protected_ }.setDev 3
  let s := if s.degradedAtEntry then s.degrade else s
  let s : State := s.failedCl.foldl (fun s i => s.clusterFault (i / 24) (i % 24) false) s
  let s := if s.fld (hubReg s.active 6) 0 2 = 2 then s
    else (s.setBit (hubReg s.active 6) 32 true).troubleHub s.active 0 0
  (if s.held.isEmpty then s else { s with devBack := s.dev }.setDev 5).settle

/-- RUN_ENTRY: at a block boundary RUN comes into force and COMMAND is answered; the accesses that waited for it follow. -/
def execRunEntry (s : State) : Host.Outcome State Fault Refusal :=
  match s.runReq with
  | none => .next s
  | some q => if (s.die s.active).tide % 16 ≠ 0 then .next s else .next (s.enterRun.send q 0 []).accGo

/-! ### The mailbox, NGP and the service port -/

/-- Dictionary Read (13 R405, 14 R420, R424): Busy outside CONFIG to HOLD. -/
def execDictionaryRead (ld : Fin 16) (index : BitVec 16) (sub : Byte) (off : BitVec 32) (s : State) : Host.Outcome State Fault Refusal :=
  .next (s.onPath (.mailbox ld) (.get ld index.toNat sub.toNat off.toNat))

/-- Dictionary Write (13 R405, 14 R420, R424). -/
def execDictionaryWrite (ld : Fin 16) (index : BitVec 16) (sub : Byte) (last : Bool) (off : BitVec 32) (data : List Byte) (s : State) :
    Host.Outcome State Fault Refusal :=
  if 2 ≤ s.dev ∧ 4088 < data.length then .next (s.mailbox ld.val ((2, []), s) (8 + data.length))
  else .next (s.onPath (.mailbox ld) (.part (.mailbox ld) index.toNat sub.toNat off.toNat last data))

/-- Image Load (13 R405, 16 R467). -/
def execImageLoad (ld : Fin 16) (off : BitVec 32) (last : Bool) (data : List Byte) (s : State) : Host.Outcome State Fault Refusal :=
  if s.dev ≠ 1 then .next (s.mailbox ld.val ((6, []), s) (8 + data.length))
  else if 4088 < data.length then .next (s.mailbox ld.val ((2, []), s) (8 + data.length))
  else if !s.ldUp ld.val then .next s
  else
    let s := s.mailIn ld.val (8 + data.length)
    let s := if off.toNat = 0 then s.newXfer ld.val else s
    .next (State.answer (.mailbox ld) (s.imagePart (.mailbox ld) off.toNat last data))

/-- READ (14 R425, R426). -/
def execNgpRead (p : Fin 4) (k : NgpMsg) (s : State) : Host.Outcome State Fault Refusal :=
  match s.ngpAccept p.val 1 k with
  | (false, s) => .next s
  | (true, s) => .next ((s.ngpCarried ⟨p.val, 1, k⟩).takeAccess (.ngp ⟨p.val, 1, k⟩))

/-- WRITE (14 R425, R426). -/
def execNgpWrite (p : Fin 4) (k : NgpMsg) (s : State) : Host.Outcome State Fault Refusal :=
  match s.ngpAccept p.val 2 k with
  | (false, s) => .next s
  | (true, s) => .next ((s.ngpCarried ⟨p.val, 2, k⟩).takeAccess (.ngp ⟨p.val, 2, k⟩))

/-- SDO_UPLOAD, SDO_DOWNLOAD, SDO_SEGMENT (14 R428). -/
def execSdoUpload (f : Word) (s : State) : Host.Outcome State Fault Refusal :=
  if !s.canUp || sdoCcs f != 2 then .next s else .next (s.takeAccess (.sdo f))
def execSdoDownload (f : Word) (s : State) : Host.Outcome State Fault Refusal :=
  if !s.canUp || sdoCcs f != 1 then .next s else .next (s.takeAccess (.sdo f))
def execSdoSegment (f : Word) (s : State) : Host.Outcome State Fault Refusal :=
  let c := sdoCcs f
  if !s.canUp || !(c == 0 || c == 3 || c == 4) then .next s else .next (s.takeAccess (.sdo f))

/-- INIT of a read or a write, and END (14 R429). -/
def execInitFrame (f : BitVec 512) (s : State) : Host.Outcome State Fault Refusal :=
  if !s.canUp || !(frByte f 0 == 1 || frByte f 0 == 2) then .next s else .next (s.takeAccess (.long f))
def execEndFrame (f : BitVec 512) (s : State) : Host.Outcome State Fault Refusal :=
  if !s.canUp || !(frByte f 0 == 5 || frByte f 0 == 0x85) then .next s else .next (s.takeAccess (.long f))

/-- IMAGE_VERIFY_COMPLETE (16 R468, R478): the image whose LAST part waits, or the staged one. -/
def execImageVerifyComplete (s : State) : Host.Outcome State Fault Refusal :=
  if s.imgWait then
    let (code, r) := s.verify (s.peek imgBase s.imgLen)
    let q := s.imgOwner.getD 35
    let s := { s with imgWait := false, imgStat := code, imgOwner := if code = 2 then s.imgOwner else none,
                      imgLen := if code = 2 then s.imgLen else 0, runImg := if code = 2 then some r else s.runImg }
    .next (s.send q (imgReply code) [])
  else
    match s.stageWait with
    | none => .next s
    | some q =>
      let (code, r) := s.verify s.stageBuf
      .next ({ s with stageWait := none, stageOwner := none, stageStat := code, stagedImg := if code = 2 then some r else none }.send q (imgReply code) [])

/-- TRANSFER_TIMEOUT (14 R420): 1 s without the next part abandons a path's transfer; the service port says so with an abort
frame. -/
def execTransferTimeout (p : Path) (s : State) : Host.Outcome State Fault Refusal :=
  let q := pathNum p
  let img := s.dev == 1 && s.imgOwner == some q && !s.imgWait && s.imgStat == 1
  let stg := s.stageOwner == some q && s.stageWait.isNone
  if (s.xferOf q).isSome || img || stg then
    let (i, sub) := match s.xferOf q with | some x => (x.idx, x.sub) | none => if stg then (0x2041, 1) else (0x1F50, 1)
    let s := s.newXfer q
    .next (if !s.canUp then s
      else if q = 33 then { s with resp := s.longFrame ([0x06, 0] ++ natLE 4 abTimeout) }
      else if q = 32 then { s with resp := s.sdoAbort i sub abTimeout } else s)
  else .next s

/-! ### Entries that are commands of their own -/

/-- COMMAND (14 R419). -/
def execCommand (p : Path) (v : Byte) (s : State) : Host.Outcome State Fault Refusal :=
  .next (s.onPath p (.write p 0x2000 3 [v]))

/-- RATE (14 R414). -/
def execRate (p : Path) (v : BitVec 32) (s : State) : Host.Outcome State Fault Refusal :=
  .next (s.onPath p (.write p 0x2000 1 (natLE 4 v.toNat)))

/-- BATCH (14 R423). -/
def execBatch (p : Path) (dom : BitVec 4) (v : Byte) (s : State) : Host.Outcome State Fault Refusal :=
  .next (s.onPath p (.write p (0x3100 + dom.toNat) 7 [v]))

/-- NONCE (14 R432): read by the service port. -/
def execNonce (s : State) : Host.Outcome State Fault Refusal :=
  .next (if s.canUp then s.takeAccess .nonce else s)

/-- AUTH (14 R432): written by the service port. -/
def execAuth (key : BitVec 256) (sig : BitVec 512) (s : State) : Host.Outcome State Fault Refusal :=
  .next (s.onPath .long (.write .long 0xA110 2 (natLE 32 key.toNat ++ natLE 64 sig.toNat)))

/-- CLOSE (14 R433). -/
def execClose (v : Byte) (s : State) : Host.Outcome State Fault Refusal :=
  .next (s.onPath .sdo (.write .sdo 0xA110 4 [v]))

/-- TRUST (14 R431). -/
def execTrust (p : Path) (hashes : List (BitVec 512)) (s : State) : Host.Outcome State Fault Refusal :=
  .next (s.onPath p (.write p 0xA100 0 (hashes.flatMap fun h => natLE 64 h.toNat)))

/-- FACTORYOK (14 R431). -/
def execFactoryok (p : Path) (v : Byte) (s : State) : Host.Outcome State Fault Refusal :=
  .next (s.onPath p (.write p 0xA101 0 [v]))

/-- TROUBLE (15 R458). -/
def execTrouble (p : Path) (g : Fin 64) (v : Byte) (s : State) : Host.Outcome State Fault Refusal :=
  .next (s.onPath p (.write p 0x9000 (g.val + 1) [v]))

/-- PROGRAM (16 R476). -/
def execProgram (p : Path) (dom : BitVec 4) (i : Fin 64) (r : BitVec 256) (s : State) : Host.Outcome State Fault Refusal :=
  .next (s.onPath p (.write p (0x3300 + dom.toNat) (i.val + 1) (natLE 32 r.toNat)))

/-- STAGE (16 R478). -/
def execStage (p : Path) (off : BitVec 32) (last : Bool) (data : List Byte) (s : State) : Host.Outcome State Fault Refusal :=
  .next (s.onPath p (.part p 0x2041 1 off.toNat last data))

/-- LCADVANCE (16 R470, R479). -/
def execLcadvance (p : Path) (v : Byte) (s : State) : Host.Outcome State Fault Refusal :=
  .next (s.onPath p (.write p 0xA001 0 [v]))

/-- OWNERKEY (16 R479). -/
def execOwnerkey (p : Path) (i : Fin 2) (v : BitVec 512) (s : State) : Host.Outcome State Fault Refusal :=
  .next (s.onPath p (.write p 0xA002 (i.val + 1) (natLE 64 v.toNat)))

/-- REVOKE (16 R479). -/
def execRevoke (p : Path) (v : Byte) (s : State) : Host.Outcome State Fault Refusal :=
  .next (s.onPath p (.write p 0xA003 0 [v]))

/-- SVNFLOOR (16 R479). -/
def execSvnfloor (p : Path) (v : Byte) (s : State) : Host.Outcome State Fault Refusal :=
  .next (s.onPath p (.write p 0xA004 0 [v]))

/-- UPDCMD = 1 (15 R454). -/
def execUpdcmdStart (p : Path) (s : State) : Host.Outcome State Fault Refusal :=
  .next (s.onPath p (.write p 0x2040 1 [1]))

/-- UPDCMD = 2 (15 R454). -/
def execUpdcmdStop (p : Path) (s : State) : Host.Outcome State Fault Refusal :=
  .next (s.onPath p (.write p 0x2040 1 [2]))

end Sys2Proof.Machine
end

