-- ==== Sys2Proof/Machine/CoreRun.lean ====
section
/-! DEFINITION. One instruction from its fetch to its end (06 R180, R207, R214). -/

namespace Sys2Proof.Machine
open Sys2Proof

/-- A cause by which a program faults: not a window exception, which its handler serves, nor TRAP or BREAK (06 Table 6-5; DEDUCED,
assumption 46). -/
def faults (cause : Nat) : Bool := cause != 0x0C && cause != 0x0D && cause != 0x10 && cause != 0x11

/-- A core at U that runs a program for the runtime: TRAP 0x7F01 is the program's return, a fault ends it (05 R161, R162, R174). `x` is
the core before the exception. A double fault stays with the monitor. -/
def State.returns (c : Nat) (x : CoreS) (cause eval : Nat) (s : State) : State :=
  if x.lvl != 0 then s
  else if cause = 0x10 ∧ eval = 0x7F01 then { s with posted := s.posted ++ [returnPost c] }
  else if faults cause && s.inProgram c && ((s.core c).lvl == 1 || cause == 0x13) then { s with posted := s.posted ++ [faultPost c] }
  else s

/-- A pending imprecise event is taken, and a program that raised it has faulted. -/
def State.tookImprecise (s : State) (c : Nat) : State := State.returns c (s.core c) 0 0 (s.takeImprecise c)

/-- One instruction of core `c`: the fetch checks, the instruction's own work, and its retirement or its exception. `done` performs
what its register writes started. A pending imprecise event is taken before an instruction that raises nothing itself, and that
instruction then has not run (06 R214). -/
def State.run (s : State) (c : Nat) (body : OnCore Flow) (done : State → State) : State :=
  let s := s.modCore c fun x => { x with waiting := false, cut := false }
  let x := s.core c
  let imprecise := !x.imprecise.isEmpty && x.delay.isNone
  match s.fetch c with
  | ((some (k, e), ic), t) => (State.returns c x k e (t.raiseAt c x k e false ic 0 0 true)).settle
  | ((none, ic), t) =>
    match body ⟨t, c, 0, 0, false⟩ with
    | .error (.exn 0x12 _ _) r => r.st.settle
    | .error (.exn k e w) r => (State.returns c x k e (r.st.raiseAt c x k e w ic r.dc r.src false)).settle
    | .error .abandoned r =>
      if imprecise then (s.tookImprecise c).settle else (r.st.modCore c fun y => { y with cut := true }).settle
    | .ok f r => if imprecise then (s.tookImprecise c).settle else done (r.st.retire c x f ic r.dc r.src r.waited)

/-- An instruction as a command: where the core issues none the state stays (assumption 15), and where an access meets a die in HOLD
the core waits (02 R73, R74). -/
def State.instr (s : State) (c : Nat) (body : OnCore Flow) (done : State → State) : Host.Outcome State Fault Refusal :=
  .next (if s.issues c then s.attempt fun s => s.run c body done else s)

/-- An instruction that reaches no memory. -/
def plain (c : Fin 230) (body : OnCore Flow) (s : State) : Host.Outcome State Fault Refusal := s.instr c.val body id

/-- An instruction that may reach memory or registers outside the core. -/
def access (c : Fin 230) (body : OnCore Flow) (s : State) : Host.Outcome State Fault Refusal :=
  s.instr c.val body State.settle

/-- An interrupt may be recognised: at a boundary not between a branch and its delay slot, with FB = 0, behind a pending
imprecise event, and not before an abandoned instruction that was resumed has completed (06 R214, R218, 07 R255). -/
def State.interruptible (s : State) (c : Nat) : Bool :=
  let x := s.core c
  x.running && !x.halted && s.coreActs c && x.delay.isNone && !x.fb && !x.resumed && x.imprecise.isEmpty

/-- A fast source can be taken (06 R218). -/
def State.fastDue (s : State) (c : Nat) : Bool :=
  s.interruptible c && (s.core c).fe && (s.core c).lvl != 2 && s.asserted c % 4 != 0

/-- The lowest asserted normal source (06 R218). -/
def lowestNormal (n : Nat) : Option Nat := (setBits 13 n).find? (8 ≤ ·)

/-- The normal source that can be taken (06 R218). -/
def State.normalDue (s : State) (c : Nat) : Option Nat :=
  if s.interruptible c && (s.core c).ie then lowestNormal (s.asserted c) else none

/-- A multi-step instruction. While an interrupt can be taken it may be abandoned before its final step: whether, and after how many
of its accesses, is a free value, and `part` performs that many of them (06 R215, R216; assumption 22). -/
def multi (c : Fin 230) (steps : Nat) (part : Nat → OnCore Unit) (body : OnCore Flow) (s : State) :
    Host.Outcome State Fault Refusal :=
  access c (do
    let s ← getS
    if s.fastDue c.val || (s.normalDue c.val).isSome then
      let w ← drawC
      if bitOf w.toNat 0 then
        part (w.toNat / 2 % (steps + 1))
        fun r => .error .abandoned r
      else body
    else body) s

end Sys2Proof.Machine
end

