-- ==== Sys2Proof/Machine/Alu.lean ====
section
/-! DEFINITION. The integer ALU and immediate instructions (07 R230-R232). Every one has exposed latency 0 and executes at
U. -/

namespace Sys2Proof.Machine
open Sys2Proof

/-- D[d] from D[a] and D[b]. -/
def alu2 (d a b : BitVec 5) (f : Word → Word → Word) : OnCore Flow := do
  let x ← getC
  writeD d (f (x.rd a) (x.rd b)) 0

/-- D[d] from D[a]. -/
def alu1 (d a : BitVec 5) (f : Word → Word) : OnCore Flow := do
  let x ← getC
  writeD d (f (x.rd a)) 0

/-- D[d] from D[a] and D[b], or overflow 0x0F, taken precisely with EVAL 0 (06 Table 6-5). -/
def alu2o (d a b : BitVec 5) (f : Word → Word → Word) (ov : Word → Word → Bool) : OnCore Flow := do
  let x ← getC
  raiseIf (ov (x.rd a) (x.rd b)) 0x0F 0
  writeD d (f (x.rd a) (x.rd b)) 0

/-- The amount of a shift by a register. -/
def amount (b : Word) : Nat := b.toNat % 64

/-- One or zero in a D register. -/
def flag (b : Bool) : Word := BitVec.ofNat 64 (b2n b)

/-- Minimum and maximum (07 Table 7-3). -/
def minS (a b : Word) : Word := if a.toInt ≤ b.toInt then a else b
def maxS (a b : Word) : Word := if a.toInt ≤ b.toInt then b else a
def minU (a b : Word) : Word := if a.toNat ≤ b.toNat then a else b
def maxU (a b : Word) : Word := if a.toNat ≤ b.toNat then b else a

/-- SATS: D[a] limited to a signed number of D[b][5:0] + 1 bits (07 Table 7-3). -/
def satS (a b : Word) : Word := BitVec.ofInt 64 (satI (amount b + 1) a.toInt)

/-- ADD: D[a] + D[b] (07 Table 7-3). -/
def execAdd (c : Fin 230) (d a b : BitVec 5) (s : State) : Host.Outcome State Fault Refusal :=
  plain c (alu2 d a b (fun x y => x + y)) s

/-- SUB: D[a] - D[b] (07 Table 7-3). -/
def execSub (c : Fin 230) (d a b : BitVec 5) (s : State) : Host.Outcome State Fault Refusal :=
  plain c (alu2 d a b (fun x y => x - y)) s

/-- ADDO: as ADD, overflow raises 0x0F (07 Table 7-3). -/
def execAddo (c : Fin 230) (d a b : BitVec 5) (s : State) : Host.Outcome State Fault Refusal :=
  plain c (alu2o d a b (fun x y => x + y) addOverflow) s

/-- SUBO: as SUB, overflow raises 0x0F (07 Table 7-3). -/
def execSubo (c : Fin 230) (d a b : BitVec 5) (s : State) : Host.Outcome State Fault Refusal :=
  plain c (alu2o d a b (fun x y => x - y) subOverflow) s

/-- AND: D[a] AND D[b] (07 Table 7-3). -/
def execAnd (c : Fin 230) (d a b : BitVec 5) (s : State) : Host.Outcome State Fault Refusal :=
  plain c (alu2 d a b (fun x y => x &&& y)) s

/-- OR: D[a] OR D[b] (07 Table 7-3). -/
def execOr (c : Fin 230) (d a b : BitVec 5) (s : State) : Host.Outcome State Fault Refusal :=
  plain c (alu2 d a b (fun x y => x ||| y)) s

/-- XOR: D[a] XOR D[b] (07 Table 7-3). -/
def execXor (c : Fin 230) (d a b : BitVec 5) (s : State) : Host.Outcome State Fault Refusal :=
  plain c (alu2 d a b (fun x y => x ^^^ y)) s

/-- ANDN: D[a] AND NOT D[b] (07 Table 7-3). -/
def execAndn (c : Fin 230) (d a b : BitVec 5) (s : State) : Host.Outcome State Fault Refusal :=
  plain c (alu2 d a b (fun x y => x &&& ~~~y)) s

/-- SLL: shifted left (07 Table 7-3). -/
def execSll (c : Fin 230) (d a b : BitVec 5) (s : State) : Host.Outcome State Fault Refusal :=
  plain c (alu2 d a b (fun x y => x <<< amount y)) s

/-- SRL: shifted right, zeros in (07 Table 7-3). -/
def execSrl (c : Fin 230) (d a b : BitVec 5) (s : State) : Host.Outcome State Fault Refusal :=
  plain c (alu2 d a b (fun x y => x >>> amount y)) s

/-- SRA: shifted right, sign in (07 Table 7-3). -/
def execSra (c : Fin 230) (d a b : BitVec 5) (s : State) : Host.Outcome State Fault Refusal :=
  plain c (alu2 d a b (fun x y => x.sshiftRight (amount y))) s

/-- ROR: rotated right (07 Table 7-3). -/
def execRor (c : Fin 230) (d a b : BitVec 5) (s : State) : Host.Outcome State Fault Refusal :=
  plain c (alu2 d a b (fun x y => x.rotateRight (amount y))) s

/-- SLT: signed less (07 Table 7-3). -/
def execSlt (c : Fin 230) (d a b : BitVec 5) (s : State) : Host.Outcome State Fault Refusal :=
  plain c (alu2 d a b (fun x y => flag (decide (x.toInt < y.toInt)))) s

/-- SLTU: unsigned less (07 Table 7-3). -/
def execSltu (c : Fin 230) (d a b : BitVec 5) (s : State) : Host.Outcome State Fault Refusal :=
  plain c (alu2 d a b (fun x y => flag (decide (x.toNat < y.toNat)))) s

/-- SEQ: equal (07 Table 7-3). -/
def execSeq (c : Fin 230) (d a b : BitVec 5) (s : State) : Host.Outcome State Fault Refusal :=
  plain c (alu2 d a b (fun x y => flag (x == y))) s

/-- MIN: signed minimum (07 Table 7-3). -/
def execMin (c : Fin 230) (d a b : BitVec 5) (s : State) : Host.Outcome State Fault Refusal :=
  plain c (alu2 d a b minS) s

/-- MAX: signed maximum (07 Table 7-3). -/
def execMax (c : Fin 230) (d a b : BitVec 5) (s : State) : Host.Outcome State Fault Refusal :=
  plain c (alu2 d a b maxS) s

/-- MINU: unsigned minimum (07 Table 7-3). -/
def execMinu (c : Fin 230) (d a b : BitVec 5) (s : State) : Host.Outcome State Fault Refusal :=
  plain c (alu2 d a b minU) s

/-- MAXU: unsigned maximum (07 Table 7-3). -/
def execMaxu (c : Fin 230) (d a b : BitVec 5) (s : State) : Host.Outcome State Fault Refusal :=
  plain c (alu2 d a b maxU) s

/-- SATS: limited to D[b][5:0] + 1 bits (07 Table 7-3). -/
def execSats (c : Fin 230) (d a b : BitVec 5) (s : State) : Host.Outcome State Fault Refusal :=
  plain c (alu2 d a b satS) s

/-- CLZ: leading zero bits of D[a], 0-64 (07 Table 7-3). -/
def execClz (c : Fin 230) (d a : BitVec 5) (s : State) : Host.Outcome State Fault Refusal :=
  plain c (alu1 d a fun x => BitVec.ofNat 64 (leadZeros 64 x.toNat)) s

/-- POPC: one bits in D[a], 0-64 (07 Table 7-3). -/
def execPopc (c : Fin 230) (d a : BitVec 5) (s : State) : Host.Outcome State Fault Refusal :=
  plain c (alu1 d a fun x => BitVec.ofNat 64 (popCount 64 x.toNat)) s

/-- A conditional move: D[d] is written when the condition on D[b] holds and keeps its value otherwise. -/
def cmov (d a b : BitVec 5) (f : Word → Bool) : OnCore Flow := do
  let x ← getC
  if f (x.rd b) then writeD d (x.rd a) 0 else return .seq 1

/-- CMOVNZ: if D[b] ≠ 0 then D[d] = D[a] (07 Table 7-3). -/
def execCmovnz (c : Fin 230) (d a b : BitVec 5) (s : State) : Host.Outcome State Fault Refusal :=
  plain c (cmov d a b fun y => y != 0) s

/-- CMOVZ: if D[b] = 0 then D[d] = D[a] (07 Table 7-3). -/
def execCmovz (c : Fin 230) (d a b : BitVec 5) (s : State) : Host.Outcome State Fault Refusal :=
  plain c (cmov d a b fun y => y == 0) s

/-- SLLI: D[a] shifted by the immediate, left (07 R231). -/
def execSlli (c : Fin 230) (d a : BitVec 5) (sh : BitVec 6) (s : State) : Host.Outcome State Fault Refusal :=
  plain c (alu1 d a fun x => x <<< sh.toNat) s

/-- SRLI: D[a] shifted by the immediate, right, zeros in (07 R231). -/
def execSrli (c : Fin 230) (d a : BitVec 5) (sh : BitVec 6) (s : State) : Host.Outcome State Fault Refusal :=
  plain c (alu1 d a fun x => x >>> sh.toNat) s

/-- SRAI: D[a] shifted by the immediate, right, sign in (07 R231). -/
def execSrai (c : Fin 230) (d a : BitVec 5) (sh : BitVec 6) (s : State) : Host.Outcome State Fault Refusal :=
  plain c (alu1 d a fun x => x.sshiftRight sh.toNat) s

/-- RORI: D[a] shifted by the immediate, rotated right (07 R231). -/
def execRori (c : Fin 230) (d a : BitVec 5) (sh : BitVec 6) (s : State) : Host.Outcome State Fault Refusal :=
  plain c (alu1 d a fun x => x.rotateRight sh.toNat) s

/-- A bit-field operation on the field of len1 + 1 bits at `pos`: one that passes bit 63 raises 0x09 with its word
(07 R231). `f` takes D[a], the old D[d], pos and len. -/
def field (d a : BitVec 5) (pos len1 : BitVec 6) (k : Nat) (f : Word → Word → Nat → Nat → Word) : OnCore Flow := do
  raiseIf (decide (64 < pos.toNat + len1.toNat + 1)) 0x09 (encBF d.toNat a.toNat pos.toNat len1.toNat k)
  let x ← getC
  writeD d (f (x.rd a) (x.rd d) pos.toNat (len1.toNat + 1)) 0

/-- EXTU: the field of D[a], zero-extended (07 R231). -/
def execExtu (c : Fin 230) (d a : BitVec 5) (pos len1 : BitVec 6) (s : State) : Host.Outcome State Fault Refusal :=
  plain c (field d a pos len1 0 fun x _ p n => BitVec.ofNat 64 (getBits x p n)) s

/-- EXTS: the field of D[a], sign-extended (07 R231). -/
def execExts (c : Fin 230) (d a : BitVec 5) (pos len1 : BitVec 6) (s : State) : Host.Outcome State Fault Refusal :=
  plain c (field d a pos len1 1 fun x _ p n => BitVec.ofInt 64 (signed n (getBits x p n))) s

/-- INS: the low bits of D[a] into the field of D[d]; the other bits of D[d] stay (07 R231). -/
def execIns (c : Fin 230) (d a : BitVec 5) (pos len1 : BitVec 6) (s : State) : Host.Outcome State Fault Refusal :=
  plain c (field d a pos len1 2 fun x y p n => putBits y p n (getBits x 0 n)) s

/-- The immediates of the group, extended (07 Table 7-4). -/
def simm16 (imm : BitVec 16) : Word := imm.signExtend 64
def zimm16 (imm : BitVec 16) : Word := imm.setWidth 64

/-- ADDI: D[a] + sext(simm16) (07 Table 7-4). -/
def execAddi (c : Fin 230) (d a : BitVec 5) (imm : BitVec 16) (s : State) : Host.Outcome State Fault Refusal :=
  plain c (alu1 d a fun x => x + simm16 imm) s

/-- ANDI: D[a] AND zext(imm16) (07 Table 7-4). -/
def execAndi (c : Fin 230) (d a : BitVec 5) (imm : BitVec 16) (s : State) : Host.Outcome State Fault Refusal :=
  plain c (alu1 d a fun x => x &&& zimm16 imm) s

/-- ORI: D[a] OR zext(imm16) (07 Table 7-4). -/
def execOri (c : Fin 230) (d a : BitVec 5) (imm : BitVec 16) (s : State) : Host.Outcome State Fault Refusal :=
  plain c (alu1 d a fun x => x ||| zimm16 imm) s

/-- XORI: D[a] XOR zext(imm16) (07 Table 7-4). -/
def execXori (c : Fin 230) (d a : BitVec 5) (imm : BitVec 16) (s : State) : Host.Outcome State Fault Refusal :=
  plain c (alu1 d a fun x => x ^^^ zimm16 imm) s

/-- SLTI: 1 if D[a] < sext(simm16) signed (07 Table 7-4). -/
def execSlti (c : Fin 230) (d a : BitVec 5) (imm : BitVec 16) (s : State) : Host.Outcome State Fault Refusal :=
  plain c (alu1 d a fun x => flag (decide (x.toInt < (simm16 imm).toInt))) s

/-- SLTIU: 1 if D[a] < sext(simm16) unsigned (07 Table 7-4). -/
def execSltiu (c : Fin 230) (d a : BitVec 5) (imm : BitVec 16) (s : State) : Host.Outcome State Fault Refusal :=
  plain c (alu1 d a fun x => flag (decide (x.toNat < (simm16 imm).toNat))) s

/-- ADDIO: as ADDI, overflow raises 0x0F precisely (07 Table 7-4). -/
def execAddio (c : Fin 230) (d a : BitVec 5) (imm : BitVec 16) (s : State) : Host.Outcome State Fault Refusal :=
  plain c (do
    let x ← getC
    raiseIf (addOverflow (x.rd a) (simm16 imm)) 0x0F 0
    writeD d (x.rd a + simm16 imm) 0) s

/-- MOVI: D[d] = imm16 × 2^(16h) (07 Table 7-4). -/
def execMovi (c : Fin 230) (d : BitVec 5) (h : BitVec 2) (imm : BitVec 16) (s : State) : Host.Outcome State Fault Refusal :=
  plain c (writeD d (zimm16 imm <<< (16 * h.toNat)) 0) s

/-- MOVK: D[d][16h + 15 : 16h] = imm16; the other bits stay (07 Table 7-4). -/
def execMovk (c : Fin 230) (d : BitVec 5) (h : BitVec 2) (imm : BitVec 16) (s : State) : Host.Outcome State Fault Refusal :=
  plain c (do
    let x ← getC
    writeD d (putBits (x.rd d) (16 * h.toNat) 16 imm.toNat) 0) s

end Sys2Proof.Machine
end

