-- ==== Sys2Proof/Machine/Branch.lean ====
section
/-! DEFINITION. Branches and jumps (07 R245, 06 R193-R200). -/

namespace Sys2Proof.Machine
open Sys2Proof

/-- A guess of the predictor and its cost (07 Table 7-12): 3 steps for a wrong direction, 4 for a wrong target, each counted
(17 Table 17-3). `path` is where the wrong path goes on past the delay slot (06 R201). -/
def wrong (b : Bool) (ev cost path : Nat) : OnCore Nat := fun r =>
  if b then .ok cost { r with st := (r.st.coreEv r.c 1 ev 1 (r.st.core r.c).pcc.cur).wrongPath r.c path } else .ok 0 r

/-- The target of a PC-relative branch (07 R245). -/
def branchTarget (pc : Nat) (imm : Int) : Nat := unsigned 44 ((pc : Int) + 4 * imm)

/-- A taken branch's target lies in PCC's bounds, or 0x02 with EVAL the target. -/
def needTarget (pcc : Cap) (t : Nat) : OnCore Unit := raiseIf (pcc.outside t 4).isSome 0x02 t

/-- A conditional branch (07 Table 7-8). -/
def condBranch (word : Nat) (an : Bool) (imm : Int) (cond : CoreS → Bool) : OnCore Flow := do
  notInSlot word
  let x ← getC
  let taken := cond x
  let t := branchTarget x.pcc.cur imm
  if taken then needTarget x.pcc t
  let (w, y) := x.predict x.pcc.cur taken
  modC fun _ => y
  let k ← wrong w 3 3 (if taken then (x.pcc.adv 8).cur else t)
  return if taken then .slot (1 + k) ⟨x.pcc.setCur t, .none⟩
    else if an then .skip (1 + k)
    else .slot (1 + k) ⟨x.pcc.adv 8, .none⟩

/-- BEQ (07 Table 7-8). -/
def execBeq (c : Fin 230) (a b : BitVec 5) (an : Bool) (imm : BitVec 12) (s : State) : Host.Outcome State Fault Refusal :=
  plain c (condBranch (encB a.toNat b.toNat 0 an imm.toNat) an imm.toInt fun x => condB 0 (x.rd a) (x.rd b)) s

/-- BNE (07 Table 7-8). -/
def execBne (c : Fin 230) (a b : BitVec 5) (an : Bool) (imm : BitVec 12) (s : State) : Host.Outcome State Fault Refusal :=
  plain c (condBranch (encB a.toNat b.toNat 1 an imm.toNat) an imm.toInt fun x => condB 1 (x.rd a) (x.rd b)) s

/-- BLT (07 Table 7-8). -/
def execBlt (c : Fin 230) (a b : BitVec 5) (an : Bool) (imm : BitVec 12) (s : State) : Host.Outcome State Fault Refusal :=
  plain c (condBranch (encB a.toNat b.toNat 2 an imm.toNat) an imm.toInt fun x => condB 2 (x.rd a) (x.rd b)) s

/-- BGE (07 Table 7-8). -/
def execBge (c : Fin 230) (a b : BitVec 5) (an : Bool) (imm : BitVec 12) (s : State) : Host.Outcome State Fault Refusal :=
  plain c (condBranch (encB a.toNat b.toNat 3 an imm.toNat) an imm.toInt fun x => condB 3 (x.rd a) (x.rd b)) s

/-- BLTU (07 Table 7-8). -/
def execBltu (c : Fin 230) (a b : BitVec 5) (an : Bool) (imm : BitVec 12) (s : State) : Host.Outcome State Fault Refusal :=
  plain c (condBranch (encB a.toNat b.toNat 4 an imm.toNat) an imm.toInt fun x => condB 4 (x.rd a) (x.rd b)) s

/-- BGEU (07 Table 7-8). -/
def execBgeu (c : Fin 230) (a b : BitVec 5) (an : Bool) (imm : BitVec 12) (s : State) : Host.Outcome State Fault Refusal :=
  plain c (condBranch (encB a.toNat b.toNat 5 an imm.toNat) an imm.toInt fun x => condB 5 (x.rd a) (x.rd b)) s

/-- BEQZ (07 Table 7-8). -/
def execBeqz (c : Fin 230) (a : BitVec 5) (an : Bool) (imm : BitVec 17) (s : State) : Host.Outcome State Fault Refusal :=
  plain c (condBranch (encBZ a.toNat 0 an imm.toNat) an imm.toInt fun x => condZ 0 (x.rd a)) s

/-- BNEZ (07 Table 7-8). -/
def execBnez (c : Fin 230) (a : BitVec 5) (an : Bool) (imm : BitVec 17) (s : State) : Host.Outcome State Fault Refusal :=
  plain c (condBranch (encBZ a.toNat 1 an imm.toNat) an imm.toInt fun x => condZ 1 (x.rd a)) s

/-- BLTZ (07 Table 7-8). -/
def execBltz (c : Fin 230) (a : BitVec 5) (an : Bool) (imm : BitVec 17) (s : State) : Host.Outcome State Fault Refusal :=
  plain c (condBranch (encBZ a.toNat 2 an imm.toNat) an imm.toInt fun x => condZ 2 (x.rd a)) s

/-- BGEZ (07 Table 7-8). -/
def execBgez (c : Fin 230) (a : BitVec 5) (an : Bool) (imm : BitVec 17) (s : State) : Host.Outcome State Fault Refusal :=
  plain c (condBranch (encBZ a.toNat 3 an imm.toNat) an imm.toInt fun x => condZ 3 (x.rd a)) s

/-- BGTZ (07 Table 7-8). -/
def execBgtz (c : Fin 230) (a : BitVec 5) (an : Bool) (imm : BitVec 17) (s : State) : Host.Outcome State Fault Refusal :=
  plain c (condBranch (encBZ a.toNat 4 an imm.toNat) an imm.toInt fun x => condZ 4 (x.rd a)) s

/-- BLEZ (07 Table 7-8). -/
def execBlez (c : Fin 230) (a : BitVec 5) (an : Bool) (imm : BitVec 17) (s : State) : Host.Outcome State Fault Refusal :=
  plain c (condBranch (encBZ a.toNat 5 an imm.toNat) an imm.toInt fun x => condZ 5 (x.rd a)) s

/-- The link register takes PCC with its cursor past the delay slot, and the return stack its address (07 Table 7-8). -/
def link : OnCore Unit := modC fun x => (x.rasPush ((x.pcc.adv 8).cur)).wa 13 (x.pcc.adv 8) 0

/-- J: always taken (07 Table 7-8). -/
def execJ (c : Fin 230) (an : Bool) (imm : BitVec 23) (s : State) : Host.Outcome State Fault Refusal :=
  plain c (do
    notInSlot (encJ 0 an imm.toNat)
    let x ← getC
    let t := branchTarget x.pcc.cur imm.toInt
    needTarget x.pcc t
    return .slot 1 ⟨x.pcc.setCur t, .none⟩) s

/-- JAL: always taken; A13 = PCC with cursor = branch + 8 (07 Table 7-8). -/
def execJal (c : Fin 230) (an : Bool) (imm : BitVec 23) (s : State) : Host.Outcome State Fault Refusal :=
  plain c (do
    notInSlot (encJ 1 an imm.toNat)
    let x ← getC
    let t := branchTarget x.pcc.cur imm.toInt
    needTarget x.pcc t
    link
    return .slot 1 ⟨x.pcc.setCur t, .none⟩) s

/-- The window check of CALLW (06 R194). -/
def needWindow : OnCore Unit := fun r =>
  let x := r.st.core r.c
  if x.resident = 11 then .error (.exn 0x0C (x.sysReg 3).toNat false) r else .ok () r

/-- What CALLW and CALLWR leave besides the jump: the link and the window move. After a write of OLD that left more than 11 windows
resident both are unpredictable, once: a free window, and the link or an untagged free value (06 R225; assumption 81). -/
def callWindow : OnCore WinMove := do
  let x ← getC
  if x.badOld then
    let w ← drawC
    let v ← drawC
    if bitOf w.toNat 0 then link
    else modC fun x => x.wa 13 ⟨w ++ v, false⟩ 0
    modC fun x => { x with badOld := false }
    return .to (w.toNat / 2 % 12)
  else
    link
    return .call

/-- CALLW to the PC-relative target (06 R194). -/
def execCallw (c : Fin 230) (an : Bool) (imm : BitVec 23) (s : State) : Host.Outcome State Fault Refusal :=
  plain c (do
    notInSlot (encJ 2 an imm.toNat)
    needWindow
    let x ← getC
    let t := branchTarget x.pcc.cur imm.toInt
    needTarget x.pcc t
    let m ← callWindow
    return .slot 1 ⟨x.pcc.setCur t, m⟩) s

/-- The checks of a jump register, in the order of R243; EVAL holds the cursor, as 07 R245 says of all five causes, where 06 Table 6-5
has 0 for a jump (DESIGN CHOICE between the two files, assumption 20). -/
def needJump (k : Cap) : OnCore Unit := do
  raiseIf (!k.tag) 0x01 k.cur
  raiseIf k.sealed 0x04 k.cur
  raiseIf (!k.has 2) 0x03 k.cur
  raiseIf (k.cur % 4 != 0) 0x05 k.cur
  raiseIf (k.outside k.cur 4).isSome 0x02 k.cur

/-- The guess of an indirect jump; returns through A13 use the return stack (assumption 18). -/
def guess (t : Nat) (ret : Bool) : OnCore Nat := do
  let x ← getC
  let g := if ret then x.ras.head? else x.guessInd x.pcc.cur
  let (w, y) := if ret then x.rasPop t else x.predictInd x.pcc.cur t
  modC fun _ => y
  wrong w 4 4 (g.getD (x.pcc.adv 8).cur)

/-- JR: PCC = A[ar] (07 Table 7-8). -/
def execJr (c : Fin 230) (ar : BitVec 4) (an : Bool) (s : State) : Host.Outcome State Fault Refusal :=
  plain c (do
    notInSlot (encJR ar.toNat 0 an)
    let x ← getC
    let k := x.ra ar
    needJump k
    let n ← guess k.cur (ar == 13)
    return .slot (1 + n) ⟨k, .none⟩) s

/-- JALR: PCC = A[ar], A13 = PCC with cursor = branch + 8; the old A13 is the target for ar = 13 (07 Table 7-8). -/
def execJalr (c : Fin 230) (ar : BitVec 4) (an : Bool) (s : State) : Host.Outcome State Fault Refusal :=
  plain c (do
    notInSlot (encJR ar.toNat 1 an)
    let x ← getC
    let k := x.ra ar
    needJump k
    let n ← guess k.cur false
    link
    return .slot (1 + n) ⟨k, .none⟩) s

/-- CALLWR: CALLW to A[ar] (07 Table 7-8). -/
def execCallwr (c : Fin 230) (ar : BitVec 4) (an : Bool) (s : State) : Host.Outcome State Fault Refusal :=
  plain c (do
    notInSlot (encJR ar.toNat 2 an)
    needWindow
    let x ← getC
    let k := x.ra ar
    needJump k
    let n ← guess k.cur false
    let m ← callWindow
    return .slot (1 + n) ⟨k, m⟩) s

/-- RETW: PCC = A13 after the delay slot, to the window before; underflow when CWP = OLD (06 R194). A13 is taken as RETW reads it, not
as its delay slot leaves it (DESIGN CHOICE, assumption 98). -/
def execRetw (c : Fin 230) (an : Bool) (s : State) : Host.Outcome State Fault Refusal :=
  plain c (do
    notInSlot (encJR 0 3 an)
    let x ← getC
    raiseIf (x.cwp == x.old) 0x0D (x.sysReg 3).toNat
    let k := x.ra 13
    needJump k
    let n ← guess k.cur true
    return .slot (1 + n) ⟨k, .ret⟩) s

end Sys2Proof.Machine
end

