-- ==== Sys2Proof/Machine/CapOps.lean ====
section
/-! DEFINITION. The capability operations, CCALL and CCOPY (07 R240-R244, 08 R257-R269). A fault changes no register; EVAL
holds the cursor of the operand that failed, or for 0x02 the lowest byte outside the bounds (07 R240). -/

namespace Sys2Proof.Machine
open Sys2Proof

/-- A free value within an instruction. -/
def drawM : OnCore Word := fun r => .ok (Config.freeWord r.st.fresh) { r with st := { r.st with fresh := r.st.fresh + 1 } }

/-- The tag and seal checks of an operand. -/
def needTag (k : Cap) : OnCore Unit := raiseIf (!k.tag) 0x01 k.cur
def needOpen (k : Cap) : OnCore Unit := raiseIf k.sealed 0x04 k.cur

/-- A[ad] from A[aa] and D[b]; a tagged sealed A[aa] raises 0x04, an untagged one gives an untagged result (07 Table 7-7). -/
def moveCur (ad aa : BitVec 4) (f : Cap → CoreS → Nat) : OnCore Flow := do
  let x ← getC
  let k := x.ra aa
  raiseIf (k.tag && k.sealed) 0x04 k.cur
  writeA ad (k.setCur (f k x)) 0

/-- CMOVE: a copy with its tag (07 Table 7-7). -/
def execCmove (c : Fin 230) (ad aa : BitVec 4) (s : State) : Host.Outcome State Fault Refusal :=
  plain c (do
    let x ← getC
    writeA ad (x.ra aa) 0) s

/-- CINC: the cursor advanced by D[b], modulo 2^44 (07 Table 7-7). -/
def execCinc (c : Fin 230) (ad aa : BitVec 4) (b : BitVec 5) (s : State) : Host.Outcome State Fault Refusal :=
  plain c (moveCur ad aa fun k x => k.cur + (x.rd b).toNat) s

/-- CSETC: cursor = D[b][43:0] (07 Table 7-7). -/
def execCsetc (c : Fin 230) (ad aa : BitVec 4) (b : BitVec 5) (s : State) : Host.Outcome State Fault Refusal :=
  plain c (moveCur ad aa fun _ x => (x.rd b).toNat) s

/-- CINCI: the cursor advanced by sext(simm18), modulo 2^44 (07 R242). -/
def execCinci (c : Fin 230) (ad aa : BitVec 4) (imm : BitVec 18) (s : State) : Host.Outcome State Fault Refusal :=
  plain c (moveCur ad aa fun k _ => unsigned 44 ((k.cur : Int) + imm.toInt)) s

/-- The lowest byte of [cur, cur + n) outside a capability's bounds, as EVAL of a failed derivation. -/
def Cap.lowestOut (k : Cap) (cur : Nat) : Nat := if cur < k.base then cur else max cur k.top

/-- CSETB and CSETBX (08 R260): base and cursor are the parent's cursor, the length D[b] encoded. When only exactness
fails no byte is outside the bounds and EVAL takes a free value (assumption 1). -/
def setBounds (ad aa : BitVec 4) (b : BitVec 5) (exact : Bool) : OnCore Flow := do
  let x ← getC
  let k := x.ra aa
  let l := (x.rd b).toNat
  needTag k
  needOpen k
  let (e, m) := encodeLen l
  let top := k.cur + m * 2 ^ e
  raiseIf (decide (28 < e) || decide (k.cur < k.base) || decide (k.top < top)) 0x02 (k.lowestOut k.cur)
  if exact && m * 2 ^ e != l then
    let w ← drawM
    raise 0x02 (w.toNat % 2 ^ 44)
  else writeA ad (Cap.make k.cur k.cur m e k.rights k.dom k.otype true) 1

/-- CSETB: the length is rounded up to a representable one; exposed latency 1 (07 Table 7-7). -/
def execCsetb (c : Fin 230) (ad aa : BitVec 4) (b : BitVec 5) (s : State) : Host.Outcome State Fault Refusal :=
  plain c (setBounds ad aa b false) s

/-- CSETBX: as CSETB with no rounding, its exposed latency 1 included (07 Table 7-7; assumption 19). -/
def execCsetbx (c : Fin 230) (ad aa : BitVec 4) (b : BitVec 5) (s : State) : Host.Outcome State Fault Refusal :=
  plain c (setBounds ad aa b true) s

/-- CANDR: RIGHTS = A[aa].RIGHTS AND D[b][7:0] (07 Table 7-7). -/
def execCandr (c : Fin 230) (ad aa : BitVec 4) (b : BitVec 5) (s : State) : Host.Outcome State Fault Refusal :=
  plain c (do
    let x ← getC
    let k := x.ra aa
    needTag k
    needOpen k
    writeA ad (k.setRights (k.rights &&& (x.rd b).toNat)) 0) s

/-- CCLRT: a copy with the tag 0 (07 Table 7-7). -/
def execCclrt (c : Fin 230) (ad aa : BitVec 4) (s : State) : Host.Outcome State Fault Refusal :=
  plain c (do
    let x ← getC
    writeA ad ⟨(x.ra aa).bits, false⟩ 0) s

/-- The authority of CSEAL and CUNSEAL: tagged, unsealed, holding SE, its cursor within its bounds. -/
def needAuthority (k : Cap) : OnCore Unit := do
  needTag k
  needOpen k
  raiseIf (!k.has 7) 0x03 k.cur
  raiseIf (k.outside k.cur 1).isSome 0x02 k.cur

/-- CSEAL: A[aa] sealed with OTYPE = A[b].cur; types 0 and 48-62 are refused, and so is a cursor that no type field can hold
(07 Table 7-7; assumption 19). -/
def execCseal (c : Fin 230) (ad aa ab : BitVec 4) (s : State) : Host.Outcome State Fault Refusal :=
  plain c (do
    let x ← getC
    let k := x.ra aa
    let u := x.ra ab
    needTag k
    needOpen k
    needAuthority u
    raiseIf (u.cur == 0 || (48 ≤ u.cur && u.cur ≤ 62) || 63 < u.cur) 0x02 u.cur
    writeA ad (k.setOtype u.cur) 0) s

/-- CUNSEAL: A[aa] with OTYPE 0, under an authority over its type (07 Table 7-7). -/
def execCunseal (c : Fin 230) (ad aa ab : BitVec 4) (s : State) : Host.Outcome State Fault Refusal :=
  plain c (do
    let x ← getC
    let k := x.ra aa
    let u := x.ra ab
    needTag k
    raiseIf (!k.sealed || k.otype == 63) 0x04 k.cur
    needAuthority u
    raiseIf (u.cur != k.otype) 0x04 u.cur
    writeA ad (k.setOtype 0) 0) s

/-- CDOM: DOM = D[b][3:0], at M only (07 Table 7-7). -/
def execCdom (c : Fin 230) (ad aa : BitVec 4) (b : BitVec 5) (s : State) : Host.Outcome State Fault Refusal :=
  plain c (do
    needLevel 2 (encC ad.toNat aa.toNat b.toNat 0x0A)
    let x ← getC
    let k := x.ra aa
    needTag k
    needOpen k
    writeA ad (k.setDom ((x.rd b).toNat % 16)) 0) s

/-- D[d] from a field of A[aa], as it is stored (07 R241). -/
def getField (d : BitVec 5) (aa : BitVec 4) (f : Cap → Word) : OnCore Flow := do
  let x ← getC
  writeD d (f (x.ra aa)) 0

/-- CGETB: BASE (07 R241). -/
def execCgetb (c : Fin 230) (d : BitVec 5) (aa : BitVec 4) (s : State) : Host.Outcome State Fault Refusal :=
  plain c (getField d aa fun k => BitVec.ofNat 64 k.base) s

/-- CGETL: the length, LMANT × 2^LEXP (07 R241). -/
def execCgetl (c : Fin 230) (d : BitVec 5) (aa : BitVec 4) (s : State) : Host.Outcome State Fault Refusal :=
  plain c (getField d aa fun k => BitVec.ofNat 64 k.len) s

/-- CGETC: the cursor (07 R241). -/
def execCgetc (c : Fin 230) (d : BitVec 5) (aa : BitVec 4) (s : State) : Host.Outcome State Fault Refusal :=
  plain c (getField d aa fun k => BitVec.ofNat 64 k.cur) s

/-- CGETR: RIGHTS (07 R241). -/
def execCgetr (c : Fin 230) (d : BitVec 5) (aa : BitVec 4) (s : State) : Host.Outcome State Fault Refusal :=
  plain c (getField d aa fun k => BitVec.ofNat 64 k.rights) s

/-- CGETO: OTYPE (07 R241). -/
def execCgeto (c : Fin 230) (d : BitVec 5) (aa : BitVec 4) (s : State) : Host.Outcome State Fault Refusal :=
  plain c (getField d aa fun k => BitVec.ofNat 64 k.otype) s

/-- CGETD: DOM (07 R241). -/
def execCgetd (c : Fin 230) (d : BitVec 5) (aa : BitVec 4) (s : State) : Host.Outcome State Fault Refusal :=
  plain c (getField d aa fun k => BitVec.ofNat 64 k.dom) s

/-- CGETT: the tag (07 R241). -/
def execCgett (c : Fin 230) (d : BitVec 5) (aa : BitVec 4) (s : State) : Host.Outcome State Fault Refusal :=
  plain c (getField d aa fun k => BitVec.ofNat 64 (b2n k.tag)) s

/-- CSUB: A[aa].cur - A[ab].cur, signed (07 R241). -/
def execCsub (c : Fin 230) (d : BitVec 5) (aa ab : BitVec 4) (s : State) : Host.Outcome State Fault Refusal :=
  plain c (do
    let x ← getC
    writeD d (BitVec.ofInt 64 (((x.ra aa).cur : Int) - (x.ra ab).cur)) 0) s

/-- CGETOFF: cursor - BASE, signed (07 R241). -/
def execCgetoff (c : Fin 230) (d : BitVec 5) (aa : BitVec 4) (s : State) : Host.Outcome State Fault Refusal :=
  plain c (getField d aa fun k => BitVec.ofInt 64 ((k.cur : Int) - k.base)) s

/-- CPCC: A[p] = PCC with cursor + sext(simm20) × 4 (07 R242). -/
def execCpcc (c : Fin 230) (p : BitVec 4) (imm : BitVec 20) (s : State) : Host.Outcome State Fault Refusal :=
  plain c (do
    let x ← getC
    writeA p (x.pcc.adv (imm.toInt * 4)) 0) s

/-- CCALL: the cross-domain call through an entry gate (07 R243). EVAL of 0x01 is 0, as for a jump (06 Table
6-5); of 0x04 where only the pair differs it is A[p]'s cursor (DESIGN CHOICE, assumption 20). -/
def execCcall (c : Fin 230) (p q : BitVec 4) (s : State) : Host.Outcome State Fault Refusal :=
  access c (do
    notInSlot (encCX 0 p.toNat q.toNat 0)
    waitDrain
    let x ← getC
    let kp := x.ra p
    let kq := x.ra q
    raiseIf (!kp.tag || !kq.tag) 0x01 0
    raiseIf (kp.otype != 63) 0x04 kp.cur
    raiseIf (kq.otype != 63) 0x04 kq.cur
    raiseIf (kp.dom != kq.dom) 0x04 kp.cur
    raiseIf (!kp.has 2) 0x03 kp.cur
    raiseIf (kq.has 2) 0x03 kq.cur
    raiseIf (kp.cur % 4 != 0) 0x05 kp.cur
    raiseIf (kp.outside kp.cur 4).isSome 0x02 ((kp.outside kp.cur 4).getD 0)
    modC fun x => (x.wa 13 ((x.pcc.adv 4).setOtype 63) 0).wa 12 (kq.setOtype 0) 0
    modC fun y => if kp.dom != x.pcc.dom then y.pflush else y
    let w ← extraSteps (b2n (kp.dom != x.pcc.dom))
    return .goto (4 + w) (kp.setOtype 0) none) s

/-- The granules of CCOPY in ascending order; `keep` says whether tags are copied (07 R244). -/
def ccopyGo (p q : Cap) (keep : Bool) : Nat → Nat → OnCore Unit
  | 0, _ => return ()
  | n + 1, i => do
    let (bs, t) ← load q ((q.cur + 16 * i) % 2 ^ 44) 16
    storeAs p ((p.cur + 16 * i) % 2 ^ 44) bs (some (keep && t)) true
    ccopyGo p q keep n (i + 1)

/-- The count that an 8-bit register field gives: 0 means 256 (07 R244, R249). -/
def count256 (v : Word) : Nat := if v.toNat % 256 = 0 then 256 else v.toNat % 256

/-- The first `j` granules of a CCOPY; the answer is the count of the whole. -/
def ccopyPart (p q : BitVec 4) (n : BitVec 5) (j : Nat) : OnCore Nat := do
  let x ← getC
  let kp := x.ra p
  let kq := x.ra q
  let g := count256 (x.rd n)
  checkCap kq rLD kq.cur (16 * g) 16
  checkCap kp rST kp.cur (16 * g) 16
  ccopyGo kp kq (kq.has 3 && kp.has 4) (min j g) 0
  return g

/-- CCOPY: both ranges are checked before the first access (07 R244). -/
def execCcopy (c : Fin 230) (p q : BitVec 4) (n : BitVec 5) (s : State) : Host.Outcome State Fault Refusal :=
  multi c (count256 ((s.core c.val).rd n)) (fun j => do let _ ← ccopyPart p q n j)
    (do
      let g ← ccopyPart p q n 256
      return .seq (3 + 2 * g)) s

end Sys2Proof.Machine
end

