-- ==== Sys2Proof/Machine/LoadStore.lean ====
section
/-! DEFINITION. Loads, stores, capability loads and stores, atomics, LDM and STM (07 R233-R239, 08 R279). -/

namespace Sys2Proof.Machine
open Sys2Proof

/-- A load into D of `n` bytes of a container of `cs` bytes; `f` extends the value (07 R234, Table 7-5). -/
def loadD (t : BitVec 5) (m : MemOp) (cs n : Nat) (f : Nat → Word) : OnCore Flow := do
  let x ← getC
  let k := x.ra (memBase m)
  let e := x.ea m cs
  checkCap k rLD e n cs
  let (bs, _) ← load k e n
  writeD t (f (leNat bs)) 2

/-- A store from D of the bytes that `f` gives (07 R234, R236). -/
def storeD (t : BitVec 5) (m : MemOp) (cs n : Nat) (f : Word → Nat) : OnCore Flow := do
  let x ← getC
  let k := x.ra (memBase m)
  let e := x.ea m cs
  checkCap k rST e n cs
  store k e (natLE n (f (x.rd t))) none
  return .seq 1

/-- Sign and zero extension of a value of `w` bits. -/
def sx (w n : Nat) : Word := BitVec.ofInt 64 (signed w n)
def zx (n : Nat) : Word := BitVec.ofNat 64 n

/-- LB: sext(mem_1) (07 Table 7-5). -/
def execLb (c : Fin 230) (t : BitVec 5) (m : MemOp) (s : State) : Host.Outcome State Fault Refusal :=
  access c (loadD t m 1 1 (sx 8)) s

/-- LBU: zext(mem_1) (07 Table 7-5). -/
def execLbu (c : Fin 230) (t : BitVec 5) (m : MemOp) (s : State) : Host.Outcome State Fault Refusal :=
  access c (loadD t m 1 1 zx) s

/-- LH: sext(mem_2) (07 Table 7-5). -/
def execLh (c : Fin 230) (t : BitVec 5) (m : MemOp) (s : State) : Host.Outcome State Fault Refusal :=
  access c (loadD t m 2 2 (sx 16)) s

/-- LHU: zext(mem_2) (07 Table 7-5). -/
def execLhu (c : Fin 230) (t : BitVec 5) (m : MemOp) (s : State) : Host.Outcome State Fault Refusal :=
  access c (loadD t m 2 2 zx) s

/-- LW: sext(mem_4) (07 Table 7-5). -/
def execLw (c : Fin 230) (t : BitVec 5) (m : MemOp) (s : State) : Host.Outcome State Fault Refusal :=
  access c (loadD t m 4 4 (sx 32)) s

/-- LWU: zext(mem_4) (07 Table 7-5). -/
def execLwu (c : Fin 230) (t : BitVec 5) (m : MemOp) (s : State) : Host.Outcome State Fault Refusal :=
  access c (loadD t m 4 4 zx) s

/-- LD: mem_8 (07 Table 7-5). -/
def execLd (c : Fin 230) (t : BitVec 5) (m : MemOp) (s : State) : Host.Outcome State Fault Refusal :=
  access c (loadD t m 8 8 zx) s

/-- LDT: sext(mem_3), from bytes 0-2 of a 4-byte container (07 R235) (07 Table 7-5). -/
def execLdt (c : Fin 230) (t : BitVec 5) (m : MemOp) (s : State) : Host.Outcome State Fault Refusal :=
  access c (loadD t m 4 3 (sx 24)) s

/-- SB: the low byte (07 Table 7-5). -/
def execSb (c : Fin 230) (t : BitVec 5) (m : MemOp) (s : State) : Host.Outcome State Fault Refusal :=
  access c (storeD t m 1 1 (fun v => v.toNat)) s

/-- SH: the low 2 bytes (07 Table 7-5). -/
def execSh (c : Fin 230) (t : BitVec 5) (m : MemOp) (s : State) : Host.Outcome State Fault Refusal :=
  access c (storeD t m 2 2 (fun v => v.toNat)) s

/-- SW: the low 4 bytes (07 Table 7-5). -/
def execSw (c : Fin 230) (t : BitVec 5) (m : MemOp) (s : State) : Host.Outcome State Fault Refusal :=
  access c (storeD t m 4 4 (fun v => v.toNat)) s

/-- SD: all 8 bytes (07 Table 7-5). -/
def execSd (c : Fin 230) (t : BitVec 5) (m : MemOp) (s : State) : Host.Outcome State Fault Refusal :=
  access c (storeD t m 8 8 (fun v => v.toNat)) s

/-- STT: D[t][23:0] into bytes 0-2; byte 3 stays (07 R235) (07 Table 7-5). -/
def execStt (c : Fin 230) (t : BitVec 5) (m : MemOp) (s : State) : Host.Outcome State Fault Refusal :=
  access c (storeD t m 4 3 (fun v => v.toNat)) s

/-- STTS: sat24(D[t]) into bytes 0-2; byte 3 stays (07 R235) (07 Table 7-5). -/
def execStts (c : Fin 230) (t : BitVec 5) (m : MemOp) (s : State) : Host.Outcome State Fault Refusal :=
  access c (storeD t m 4 3 (fun v => unsigned 24 (satI 24 v.toInt))) s

/-- The address of CLC and CSC: A[ab].cur + sext(simm17) × 16 (07 R237). -/
def capEa (k : Cap) (imm : BitVec 17) : Nat := unsigned 44 ((k.cur : Int) + imm.toInt * 16)

/-- The rights that storing a capability value needs (07 R237, 08 Table 8-6). -/
def capStoreRights (v : Cap) : Nat := rST + (if v.tag then rSC + (if v.has 6 then 0 else rSL) else 0)

/-- CLC: 16 bytes and their tag into A[at]; without LC the loaded tag is 0 (07 R237). -/
def execClc (c : Fin 230) (t ab : BitVec 4) (imm : BitVec 17) (s : State) : Host.Outcome State Fault Refusal :=
  access c (do
    let x ← getC
    let k := x.ra ab
    let e := capEa k imm
    checkCap k rLD e 16 16
    let (bs, tag) ← load k e 16
    writeA t ⟨BitVec.ofNat 128 (leNat bs), tag && k.has 3⟩ 2) s

/-- CSC: A[at] and its tag stored (07 R237). -/
def execCsc (c : Fin 230) (t ab : BitVec 4) (imm : BitVec 17) (s : State) : Host.Outcome State Fault Refusal :=
  access c (do
    let x ← getC
    let k := x.ra ab
    let v := x.ra t
    let e := capEa k imm
    checkCap k (capStoreRights v) e 16 16
    storeAs k e v.bytes (some v.tag) true
    return .seq 1) s

/-- An atomic (07 R238): the core's own line leaves the cache, and the target block reads, and writes what the operation on the old
value and D[b] gives, if anything. Values are as wide as the access, and a CAS compares with D[d]. -/
def atomic (d : BitVec 5) (ab : BitVec 4) (b : BitVec 5) (wide : Bool) (op : Word → AmoOp) : OnCore Flow := do
  let x ← getC
  let k := x.ra ab
  let e := k.cur
  let n := if wide then 8 else 4
  checkCap k (rLD + rST) e n n
  passFence
  waitDrain
  let (a, _) ← xlate k.dom e .both
  let c ← coreNo
  modS fun s => s.evict c a
  let s ← getS
  let at_ := coreAttr c k.dom x.lvl
  let (r, s') := s.reaches at_ kAtomic a
  modS fun _ => s'
  note 2 (s.srcCode c a) true
  raiseIf (r != .ok) 0x08 e
  let l := s'.loc a
  modS fun s => if isRegPlace l then s else ((s.countSram at_ a n false).tagTouch at_ a).performed at_ a n n
  let s' ← getS
  if isRegPlace l then
    let old := leNat (s'.regBytes a n)
    let m := 2 ^ (8 * n)
    match amoNew (op (x.rd d)) (8 * n) old ((x.rd b).toNat % m) with
    | some v => modS fun s => s.regPoke at_ a (natLE n v)
    | none => modS id
    writeD d (sx (8 * n) old) 2
  else
    let bad := s'.uncorr a n || (s'.inDram a && s'.dramDown a)
    modS fun s => if bad then (if s.ownSram c a then (s.ueMet a).markErr c else s.ueMet a) else s
    raiseIf bad 0x13 e
    let old := leNat (s'.peek a n)
    let m := 2 ^ (8 * n)
    match amoNew (op (x.rd d)) (8 * n) old ((x.rd b).toNat % m) with
    | some v => modS fun s =>
        let s := ((s.countDram at_ a n false).countDram at_ a n true).countSram at_ a n true
        (s.store a (natLE n v) none).tagsThrough s at_ a n
    | none => modS fun s => s.countDram at_ a n false
    writeD d (sx (8 * n) old) 2

/-- AMOSWAP: new memory value D[b] (07 Table 7-6). -/
def execAmoswap (c : Fin 230) (d : BitVec 5) (ab : BitVec 4) (b : BitVec 5) (wide : Bool) (s : State) :
    Host.Outcome State Fault Refusal :=
  access c (atomic d ab b wide (fun _ => .swap)) s

/-- AMOADD: new memory value old + D[b] (07 Table 7-6). -/
def execAmoadd (c : Fin 230) (d : BitVec 5) (ab : BitVec 4) (b : BitVec 5) (wide : Bool) (s : State) :
    Host.Outcome State Fault Refusal :=
  access c (atomic d ab b wide (fun _ => .add)) s

/-- AMOAND: new memory value old AND D[b] (07 Table 7-6). -/
def execAmoand (c : Fin 230) (d : BitVec 5) (ab : BitVec 4) (b : BitVec 5) (wide : Bool) (s : State) :
    Host.Outcome State Fault Refusal :=
  access c (atomic d ab b wide (fun _ => .and)) s

/-- AMOOR: new memory value old OR D[b] (07 Table 7-6). -/
def execAmoor (c : Fin 230) (d : BitVec 5) (ab : BitVec 4) (b : BitVec 5) (wide : Bool) (s : State) :
    Host.Outcome State Fault Refusal :=
  access c (atomic d ab b wide (fun _ => .or)) s

/-- CAS: new memory value D[b] if old = D[d], compared at the access width; otherwise no write (07 Table 7-6). -/
def execCas (c : Fin 230) (d : BitVec 5) (ab : BitVec 4) (b : BitVec 5) (wide : Bool) (s : State) :
    Host.Outcome State Fault Refusal :=
  access c (atomic d ab b wide .cas) s

/-- AMOMAX: new memory value signed maximum of old and D[b] (07 Table 7-6). -/
def execAmomax (c : Fin 230) (d : BitVec 5) (ab : BitVec 4) (b : BitVec 5) (wide : Bool) (s : State) :
    Host.Outcome State Fault Refusal :=
  access c (atomic d ab b wide (fun _ => .max)) s

/-- AMOMIN: new memory value signed minimum of old and D[b] (07 Table 7-6). -/
def execAmomin (c : Fin 230) (d : BitVec 5) (ab : BitVec 4) (b : BitVec 5) (wide : Bool) (s : State) :
    Host.Outcome State Fault Refusal :=
  access c (atomic d ab b wide (fun _ => .min)) s

/-- The registers of a mask in a bank, lowest first (07 R239). -/
def maskRegs (mask : BitVec 16) : List Nat := setBits 16 mask.toNat

/-- Bytes of one register of a bank, and its number among the D names. -/
def bankSize : Bank → Nat
  | .address => 16
  | _ => 8
def bankD (k : Bank) (i : Nat) : BitVec 5 := BitVec.ofNat 5 (if k = .window then 16 + i else i)
def bankCode : Bank → Nat
  | .globals => 0
  | .window => 1
  | .address => 2

/-- Steps of LDM and STM (07 Table 7-12). -/
def lmSteps (k : Bank) (m : Nat) : Nat := if k = .address then 1 + 2 * m else 1 + m

/-- The memory reads of LDM, in order. -/
def ldmGo (k : Cap) (z : Nat) : List Nat → Nat → List (Nat × List Byte × Bool) → OnCore (List (Nat × List Byte × Bool))
  | [], _, acc => return acc
  | i :: is, e, acc => do
    let (bs, t) ← load k (e % 2 ^ 44) z
    ldmGo k z is (e + z) (acc ++ [(i, bs, t)])

/-- The checks of LDM and its first `j` reads. -/
def ldmPart (ab : BitVec 4) (w : Bool) (bank : Bank) (mask : BitVec 16) (j : Nat) : OnCore (List (Nat × List Byte × Bool)) := do
  let x ← getC
  let word := encLM false ab.toNat w (bankCode bank) mask.toNat
  raiseIf (mask == 0 || (bank == .address && bitOf mask.toNat ab.toNat)) 0x09 word
  let k := x.ra ab
  let z := bankSize bank
  let rs := maskRegs mask
  checkCap k rLD k.cur (rs.length * z) z
  ldmGo k z (rs.take j) k.cur []

/-- LDM: registers are written at the final step, with exposed latency 2 (07 R239, 06 R216). -/
def execLdm (c : Fin 230) (ab : BitVec 4) (w : Bool) (bank : Bank) (mask : BitVec 16) (s : State) :
    Host.Outcome State Fault Refusal :=
  multi c (maskRegs mask).length (fun j => do let _ ← ldmPart ab w bank mask j)
    (do
    let x ← getC
    let k := x.ra ab
    let z := bankSize bank
    let rs := maskRegs mask
    let vs ← ldmPart ab w bank mask rs.length
    modC fun x => vs.foldl (fun x v =>
      if bank = .address then x.wa (BitVec.ofNat 4 v.1) ⟨BitVec.ofNat 128 (leNat v.2.1), v.2.2 && k.has 3⟩ 2
      else x.wd (bankD bank v.1) (zx (leNat v.2.1)) 2) x
    modC fun x => if w then x.wa ab (k.adv (rs.length * z)) 2 else x
    return .seq (lmSteps bank rs.length)) s

/-- The memory writes of STM, in order. -/
def stmGo (k : Cap) (x : CoreS) (bank : Bank) : List Nat → Nat → OnCore Unit
  | [], _ => return ()
  | i :: is, e => do
    if bank = .address then
      store k (e % 2 ^ 44) (x.ra (BitVec.ofNat 4 i)).bytes (some (x.ra (BitVec.ofNat 4 i)).tag)
    else store k (e % 2 ^ 44) (natLE 8 (x.rd (bankD bank i)).toNat) none
    stmGo k x bank is (e + bankSize bank)

/-- The checks of STM and its first `j` writes; the answer is the lowest address written by the whole. -/
def stmPart (ab : BitVec 4) (w : Bool) (bank : Bank) (mask : BitVec 16) (j : Nat) : OnCore Nat := do
  let x ← getC
  raiseIf (mask == 0) 0x09 (encLM true ab.toNat w (bankCode bank) mask.toNat)
  let k := x.ra ab
  let z := bankSize bank
  let rs := maskRegs mask
  let e := if w then unsigned 44 ((k.cur : Int) - (rs.length * z : Nat)) else k.cur
  let need := if bank = .address then
      rs.foldl (fun n i => n ||| capStoreRights (x.ra (BitVec.ofNat 4 i))) rST else rST
  checkCap k need e (rs.length * z) z
  stmGo k x bank (rs.take j) e
  return e

/-- STM: with W = 1 it writes below the cursor and moves it there (07 R239). -/
def execStm (c : Fin 230) (ab : BitVec 4) (w : Bool) (bank : Bank) (mask : BitVec 16) (s : State) :
    Host.Outcome State Fault Refusal :=
  multi c (maskRegs mask).length (fun j => do let _ ← stmPart ab w bank mask j)
    (do
      let e ← stmPart ab w bank mask (maskRegs mask).length
      modC fun x => if w then x.wa ab ((x.ra ab).setCur e) 0 else x
      return .seq (lmSteps bank (maskRegs mask).length)) s

end Sys2Proof.Machine
end

