-- ==== Sys2Proof/Machine/LongUnit.lean ====
section
/-! DEFINITION. The long unit: its operations, their completion and imprecise events (07 R250, 06 R184-R188). -/

namespace Sys2Proof.Machine
open Sys2Proof

/-- The core waits for the long unit: its steps and stall steps count on (17 Table 17-3). -/
def longWait : OnCore Unit := do
  let c ← coreNo
  modS fun s =>
    let n := Config.stall s.fresh
    let pc := (s.core c).pcc.cur
    { (s.coreEv c 1 9 n pc).steps c n pc with fresh := s.fresh + 1 }

/-- A long operation issues. With PRE = 1 the earlier ones complete, it completes before any later instruction, and an
enabled event is raised precisely with EVAL 0. With PRE = 0 a third operation waits until the oldest completes
(06 R184, R188). The event of an operation that completes while a third waits at issue is taken after that one has issued (DESIGN
CHOICE, assumption 94). -/
def longIssue (d : BitVec 5) (v : Word) (ev : Option Nat) (lat : Nat) : OnCore Flow := do
  let x ← getC
  if x.pre then
    modC CoreS.longAll
    let y ← getC
    match ev with
    | some e => raiseIf (if e = 0x0E then y.dze else y.ove) e 0
    | none => raiseIf false 0 0
    longWait
    writeD d v 0
  else
    if 2 ≤ x.longq.length then
      modC CoreS.longDone
      longWait
    modC fun y => { y with longq := y.longq ++ [⟨y.physD d.toNat, v, ev, y.pcc.cur, lat, y.shadowOf (y.physD d.toNat)⟩] }
    return .seq 1

/-- Quotients and remainders with the results of R187 for a divisor of 0 and for -2^63 by -1. -/
def divS (a b : Word) : Word := if b = 0 then BitVec.allOnes 64 else BitVec.ofInt 64 (a.toInt.tdiv b.toInt)
def divU (a b : Word) : Word := if b = 0 then BitVec.allOnes 64 else BitVec.ofNat 64 (a.toNat / b.toNat)
def remS (a b : Word) : Word := if b = 0 then a else BitVec.ofInt 64 (a.toInt.tmod b.toInt)
def remU (a b : Word) : Word := if b = 0 then a else BitVec.ofNat 64 (a.toNat % b.toNat)

/-- A two-operand long operation. -/
def long2 (d a b : BitVec 5) (f : Word → Word → Word) (ev : Word → Word → Option Nat) : OnCore Flow := do
  let x ← getC
  longIssue d (f (x.rd a) (x.rd b)) (ev (x.rd a) (x.rd b)) 68

/-- DIV (07 Table 7-10). -/
def execDiv (c : Fin 230) (d a b : BitVec 5) (s : State) : Host.Outcome State Fault Refusal :=
  plain c (long2 d a b divS (divEvent true)) s

/-- DIVU (07 Table 7-10). -/
def execDivu (c : Fin 230) (d a b : BitVec 5) (s : State) : Host.Outcome State Fault Refusal :=
  plain c (long2 d a b divU (divEvent false)) s

/-- REM (07 Table 7-10). -/
def execRem (c : Fin 230) (d a b : BitVec 5) (s : State) : Host.Outcome State Fault Refusal :=
  plain c (long2 d a b remS (divEvent true)) s

/-- REMU (07 Table 7-10). -/
def execRemu (c : Fin 230) (d a b : BitVec 5) (s : State) : Host.Outcome State Fault Refusal :=
  plain c (long2 d a b remU (divEvent false)) s

/-- SQRT: the floor of the square root, unsigned (07 Table 7-10). -/
def execSqrt (c : Fin 230) (d a : BitVec 5) (s : State) : Host.Outcome State Fault Refusal :=
  plain c (do
    let x ← getC
    longIssue d (BitVec.ofNat 64 (isqrt (x.rd a).toNat)) none 36) s

/-- 2^62 ÷ x, truncated toward zero; the largest positive value for 0 (07 Table 7-10, 06 R187). -/
def rcp (x : Word) : Word := if x = 0 then BitVec.ofNat 64 (2 ^ 63 - 1) else BitVec.ofInt 64 (((2 : Int) ^ 62).tdiv x.toInt)

/-- RCP (07 Table 7-10). -/
def execRcp (c : Fin 230) (d a : BitVec 5) (s : State) : Host.Outcome State Fault Refusal :=
  plain c (do
    let x ← getC
    longIssue d (rcp (x.rd a)) (if x.rd a = 0 then some 0x0E else none) 20) s

/-- Leading bits equal to bit 79, less 1 (07 Table 7-10). -/
def normOf (x : BitVec 80) : Nat := leadZeros 80 (if x.msb then (~~~x).toNat else x.toNat) - 1

/-- NORM: it reads C with exposed latency 2 (07 Table 7-10, 06 Table 6-2). -/
def execNorm (c : Fin 230) (d : BitVec 5) (k : BitVec 2) (s : State) : Host.Outcome State Fault Refusal :=
  plain c (do
    let x ← getC
    longIssue d (BitVec.ofNat 64 (normOf (x.accSeen k.toNat))) none 4) s

/-- LONG_OP_COMPLETE: the oldest operation completes before its worst case (06 R184, R187, R188). -/
def execLongOpComplete (c : Fin 230) (s : State) : Host.Outcome State Fault Refusal :=
  if s.coreActs c.val then .next (s.modCore c.val CoreS.longDone) else .next s

/-- IMPRECISE_LONG_EXCEPTION: a pending event is taken at a boundary that is not between a branch and its delay slot
(06 R188). -/
def execImpreciseLongException (c : Fin 230) (s : State) : Host.Outcome State Fault Refusal :=
  let x := s.core c.val
  .next (if s.issues c.val && !x.imprecise.isEmpty && x.delay.isNone then s.attempt fun s => (s.tookImprecise c.val).settle else s)

end Sys2Proof.Machine
end

