-- ==== Sys2Proof/Machine/MulAcc.lean ====
section
/-! DEFINITION. Multiplication and the accumulators (07 R246-R249). -/

namespace Sys2Proof.Machine
open Sys2Proof

/-- D[d] from D[a] and D[b] with exposed latency 1 (07 R246). -/
def mul2 (d a b : BitVec 5) (f : Word → Word → Word) : OnCore Flow := do
  let x ← getC
  writeD d (f (x.rd a) (x.rd b)) 1

/-- MUL: the low 64 bits of the product (07 R246). -/
def execMul (c : Fin 230) (d a b : BitVec 5) (s : State) : Host.Outcome State Fault Refusal :=
  plain c (mul2 d a b fun x y => x * y) s

/-- MULH: the high 64 bits of the signed product (07 R246). -/
def execMulh (c : Fin 230) (d a b : BitVec 5) (s : State) : Host.Outcome State Fault Refusal :=
  plain c (mul2 d a b fun x y => BitVec.ofInt 64 (x.toInt * y.toInt / (2 : Int) ^ 64)) s

/-- MULHU: the high 64 bits of the unsigned product (07 R246). -/
def execMulhu (c : Fin 230) (d a b : BitVec 5) (s : State) : Host.Outcome State Fault Refusal :=
  plain c (mul2 d a b fun x y => BitVec.ofNat 64 (x.toNat * y.toNat / 2 ^ 64)) s

/-- MULO: as MUL; a signed product that does not fit raises 0x0F precisely (07 R246). -/
def execMulo (c : Fin 230) (d a b : BitVec 5) (s : State) : Host.Outcome State Fault Refusal :=
  plain c (do
    let x ← getC
    raiseIf (mulOverflow (x.rd a) (x.rd b)) 0x0F 0
    writeD d (x.rd a * x.rd b) 1) s

/-- The product of the low 32 bits of two values in a mode (07 R247). -/
def product (m : MulMode) (a b : Nat) : Int :=
  match m with
  | .ss => signed 32 a * signed 32 b
  | .uu => ((a % 2 ^ 32 * (b % 2 ^ 32) : Nat) : Int)
  | .su => signed 32 a * ((b % 2 ^ 32 : Nat) : Int)

/-- An accumulator operation: the new C[k] from the old and the product (07 Table 7-9). -/
def accumulate (k : BitVec 2) (a b : BitVec 5) (m : MulMode) (f : BitVec 80 → BitVec 80 → BitVec 80) : OnCore Flow := do
  modC fun x => x.wacc k.toNat (f (x.accNow k.toNat) (BitVec.ofInt 80 (product m (x.rd a).toNat (x.rd b).toNat)))
  return .seq 1

/-- MAC: C[c] = C[c] + p (07 Table 7-9). -/
def execMac (c : Fin 230) (k : BitVec 2) (a b : BitVec 5) (m : MulMode) (s : State) : Host.Outcome State Fault Refusal :=
  plain c (accumulate k a b m fun x p => x + p) s

/-- MSU: C[c] = C[c] - p (07 Table 7-9). -/
def execMsu (c : Fin 230) (k : BitVec 2) (a b : BitVec 5) (m : MulMode) (s : State) : Host.Outcome State Fault Refusal :=
  plain c (accumulate k a b m fun x p => x - p) s

/-- MACR: C[c] = p (07 Table 7-9). -/
def execMacr (c : Fin 230) (k : BitVec 2) (a b : BitVec 5) (m : MulMode) (s : State) : Host.Outcome State Fault Refusal :=
  plain c (accumulate k a b m fun _ p => p) s

/-- CLRAC: C[c] = 0 for k = 0, else 2^(k - 1) (07 Table 7-9). -/
def execClrac (c : Fin 230) (k : BitVec 2) (r : BitVec 6) (s : State) : Host.Outcome State Fault Refusal :=
  plain c (do
    modC fun x => x.wacc k.toNat (if r = 0 then 0 else BitVec.ofNat 80 (2 ^ (r.toNat - 1)))
    return .seq 1) s

/-- The rounding of MVAC (07 R248). -/
def roundShift (rm : RoundMode) (x : Int) (sh : Nat) : Int :=
  match rm with
  | .floor => x / (2 : Int) ^ sh
  | .rnd => rnd x sh
  | .even => rndEven x sh

/-- The limit of MVAC: the low 64 bits, or saturation to 64, 32 or 24 bits (07 R248). -/
def limitTo (sat : BitVec 2) (x : Int) : Word :=
  if sat = 0 then BitVec.ofInt 64 x
  else BitVec.ofInt 64 (satI (if sat = 1 then 64 else if sat = 2 then 32 else 24) x)

/-- MVAC: D[d] = limit(round(C[c] ÷ 2^sh)), exposed latency 1; it reads C with exposed latency 2 (07 R248, 06 Table 6-2). -/
def execMvac (c : Fin 230) (d : BitVec 5) (k : BitVec 2) (sh : BitVec 6) (rm : RoundMode) (sat : BitVec 2) (s : State) :
    Host.Outcome State Fault Refusal :=
  plain c (do
    let x ← getC
    writeD d (limitTo sat (roundShift rm (x.accSeen k.toNat).toInt sh.toNat)) 1) s

/-- The terms of MACB in order, and their sum (07 R249). -/
def macbGo (ka kb : Cap) (m : MulMode) : Nat → Nat → Int → OnCore Int
  | 0, _, acc => return acc
  | n + 1, i, acc => do
    let (x, _) ← load ka ((ka.cur + 4 * i) % 2 ^ 44) 4
    let (y, _) ← load kb ((kb.cur + 4 * i) % 2 ^ 44) 4
    macbGo ka kb m n (i + 1) (acc + product m (leNat x) (leNat y))

/-- The count of MACB: D[n][7:0], 0 meaning 256 (07 R249). -/
def macbCount (v : Word) : Nat := if v.toNat % 256 = 0 then 256 else v.toNat % 256

/-- The checks of MACB and the sum of its first `j` terms. -/
def macbPart (aa ab : BitVec 4) (n : BitVec 5) (m : MulMode) (j : Nat) : OnCore Int := do
  let x ← getC
  let ka := x.ra aa
  let kb := x.ra ab
  let g := macbCount (x.rd n)
  checkCap ka rLD ka.cur (4 * g) 4
  checkCap kb rLD kb.cur (4 * g) 4
  macbGo ka kb m (min j g) 0 0

/-- MACB: both ranges are checked first, and C[c] is written at the final step (07 R249, 06 R216). -/
def execMacb (c : Fin 230) (k : BitVec 2) (aa ab : BitVec 4) (n : BitVec 5) (m : MulMode) (s : State) :
    Host.Outcome State Fault Refusal :=
  multi c (macbCount ((s.core c.val).rd n)) (fun j => do let _ ← macbPart aa ab n m j)
    (do
      let x ← getC
      let sum ← macbPart aa ab n m 256
      modC fun x => x.wacc k.toNat (x.accNow k.toNat + BitVec.ofInt 80 sum)
      return .seq (3 + macbCount (x.rd n))) s

end Sys2Proof.Machine
end

