-- ==== Sys2Proof/Machine/Power.lean ====
section
/-! DEFINITION. Power-up: power good, the boot ROM's outcome, the load of the runtime, supplies and temperature, and the test
access port (chapters 16 and 18, 17 R497-R500). -/

namespace Sys2Proof.Machine
open Sys2Proof

/-! ### Power good (16 R461-R463, 18 R503) -/

/-- The memory that the straps and the modules give (10 R310, R312). -/
def shapeOf (st : Straps) : MemShape :=
  { raw := 2 ^ (33 + st.msize.toNat) * (if st.dpc2 then 2 else 1), mirrored := st.memMir, ilv := st.memIlv.toNat,
    rate6400 := !st.dpc2, dpc2 := st.dpc2, msize := st.msize.toNat }

/-- Fuses of a hub set by a list of words: a fuse only changes from 0 to 1 (16 R465). -/
def State.fuseWords (s : State) (h : Nat) (ws : List Word) : State :=
  (ws.zip (upTo ws.length)).foldl (fun s p =>
    { s with fuses := SMap.set (dflt 0) s.fuses (64 * h + p.2) (s.fuse h p.2 ||| p.1) }) s

/-- MCCFG of every controller (10 Table 10-5). -/
def State.mccfgShow (s : State) : State :=
  let m := s.shape
  let w := b2n m.mirrored + 2 * m.ilv + 8 * b2n m.rate6400 + 16 * b2n m.dpc2 + 32 * m.msize
  (upTo 2).foldl (fun s h => (upTo 4).foldl (fun s c => s.setRg (mcReg h c) (BitVec.ofNat 64 w)) s) s

/-- The whole device restarts from power good with the straps given: only the fuses, the waiting commands and the model's own
counter of free values stay. A node with an ID sends its boot-up message (14 R428). -/
def State.powerUp (s : State) (st : Straps) : State :=
  let s : State := { State.reset with pending := s.pending, fresh := s.fresh, fuses := s.fuses, straps := st, shape := shapeOf st }
  let s := ((s.fuseWords 0 st.otp).fuseWords 1 st.otpH1).otpBoot.mccfgShow
  let s := s.portsShow st
  { s with resp := if st.node = 0 then .none else .frame (0x700 + st.node.toNat) [0] }

/-- POWER_GOOD (18 R503): PORST_N rises and the straps are latched. -/
def execPowerGood (st : Straps) (s : State) : Host.Outcome State Fault Refusal := .next (s.powerUp st)

/-- PORST_RESET (18 R503): a low pulse of at least 10 µs resets the device; the spec gives a shorter one no effect. -/
def execPorstReset (us : Nat) (s : State) : Host.Outcome State Fault Refusal := .next (if us < 10 then s else s.powerUp s.straps)

/-! ### From power good to LOADING (16 R463, R464; 01 R18; 10 R310) -/

/-- A bank with more failing rows than its four spares (01 Table 1-3, R18). -/
def bankFails (b : BankTest) : Bool := 4 < b.rows

/-- The clusters and comets, 25 n + k, and the dies of other units, that the self-test marks failed (01 R18). -/
def bistClusters (r : BootResult) : List Nat :=
  (r.banks.filterMap fun b => match b.unit with | .cluster i => if bankFails b then some i.val else none | .other _ => none).foldl nsAdd
    ((r.failedClusters.map (·.val)).foldl nsAdd [])
def bistOthers (r : BootResult) : List Nat :=
  (r.banks.filterMap fun b => match b.unit with | .other d => if bankFails b then some d.val else none | .cluster _ => none).foldl nsAdd []

/-- A failure that keeps the device in BOOT. -/
def State.bootStops (s : State) (dies : List Nat) (r : BootResult) : Bool :=
  let chan (h p : Nat) : Bool := nsMem dies h || r.failedChannels.any fun c => c.val == 4 * h + p
  r.failedOther || (bistClusters r).any (fun i => i % 25 == 24) || !(bistOthers r).isEmpty || !s.straps.uniform || (nsMem dies 0 && nsMem dies 1) ||
    if s.shape.mirrored then (upTo 4).any fun p => chan 0 p && chan 1 p
    else (upTo 2).any fun h => (upTo 4).any fun p => chan h p

/-- The boot ROM fences a die. -/
def State.bootFence (s : State) (d : Nat) : State :=
  if d < 2 then { s.hubFence d with hostWait := false } else s.dieFence (d - 2)

/-- The hash of the boot ROM's 256 KiB (assumption 4). -/
def romHash : Nat := (upTo 8).foldl (fun n i => n + (Config.partConst (32 + i)).toNat * 2 ^ (64 * i)) 0

/-- What the self-test and the training leave (01 R18, Table 1-3; 10 R310): spare rows in use, units marked failed, and failed
channels; modules that are not all alike are reported at every controller (10 R310). The failures stand in the trouble record, which the
service port reads in BOOT too (14 R417): the form of the report that R18 asks for (DESIGN CHOICE, assumption 84). -/
def State.bistMark (s : State) (dies : List Nat) (r : BootResult) : State :=
  let unitNum (u : BankUnit) : Nat := match u with | .cluster i => i.val | .other d => 150 + d.val
  let s := r.banks.foldl (fun (s : State) b =>
    if bankFails b then s
    else { s with spareRows := SMap.set (dflt 0) s.spareRows (1024 * unitNum b.unit + b.bank.toNat) b.rows }) s
  let s := (bistClusters r).foldl (fun (s : State) i =>
    (if i % 25 = 24 then { s with failedUnits := nsAdd s.failedUnits (i / 25 + 2) }
      else { s with failedCl := nsAdd s.failedCl (24 * (i / 25) + i % 25) }).troubleCluster (i / 25 + 2) (i % 25)) s
  let s := (bistOthers r).foldl (fun (s : State) d =>
    let s := { s with failedUnits := nsAdd s.failedUnits d }
    if d < 2 then s.troubleHub d 0 6 else s.troubleDie d 4) s
  let s := if s.straps.uniform then s else (upTo 8).foldl (fun s c => s.troubleHub (c / 4) 1 (c % 4)) s
  (upTo 8).foldl (fun s c =>
    if nsMem dies (c / 4) || r.failedChannels.any (·.val == c) then s.chanFail (c / 4) (c % 4) else s) s

/-- BOOT_COMPLETE (16 R463): self-test, training and calibration have ended as `r` says; dies whose supply is not up are fenced
too. A failure that stops the boot is marked, and the device stays in BOOT. -/
def execBootComplete (r : BootResult) (s : State) : Host.Outcome State Fault Refusal :=
  let dies := (upTo 8).filter fun d => (r.failedDies.any fun x => x.val == d) || !(s.die d).up
  if s.dev ≠ 0 then .next s
  else if s.bootStops dies r then .next (s.bistMark dies r)
  else
    let s := dies.foldl State.bootFence s
    let s := (upTo 8).foldl (fun s c => s.setFld (mcReg (c / 4) (c % 4) + 8) 0 2 1) s
    let s := s.bistMark dies r
    let s := (upTo 6).foldl (fun s n => s.calibrate (n + 2)) s
    let s := if s.mlog.isEmpty then s.measure 1 0 255 romHash else s
    .next { s with dev := 1 }

/-! ### The load of the runtime (16 R469) -/

/-- Domain 0's block table: the runtime region as normal, the register spaces as device type, for S and M. -/
def runtimeTable : List Nat := [btEntry 0 0 30 0 56 0, btEntry 0xC0000000000 0xC0000000000 42 0 24 1]

/-- CONFIG_ENTRY (16 R469): segments, measurement, table, and the release of every core that is in service. -/
def execConfigEntry (s : State) : Host.Outcome State Fault Refusal :=
  match s.runImg with
  | none => .next s
  | some r =>
    if s.dev ≠ 1 ∨ s.imgStat ≠ 2 then .next s
    else
      let bs := s.peek imgBase s.imgLen
      let s := s.loadSegments bs
      let s := (s.measure 2 0 r.slot (sha bs)).tableWrite 0 runtimeTable
      let s := (upTo 230).foldl (fun s c =>
        let gone := nsMem s.fenced (coreDie c) ||
          (coreKind c == 0 && nsMem s.failedCl (24 * (coreDie c - 2) + coreLocal c))
        if gone then s else s.setCore c (CoreS.reset (r.entries.getD (coreKind c) 0) true)) s
      let s := if s.tap.mode = 0 then s else { s with tap := { s.tap with mode := 0, extref := true } }
      .next { s with dev := 2 }.settle

/-! ### Resets of a die (02 R76), supplies and temperature (18 R506, R508) -/

/-- A die resets: it is fenced; with no hub left the whole device restarts. -/
def State.dieReset (s : State) (d : Nat) : State :=
  if 2 ≤ d then s.dieFence (d - 2)
  else if nsMem s.fenced d then s
  else if nsMem s.fenced (1 - d) then s.powerUp s.straps
  else s.hubFence d

/-- THERMAL_TRIP (18 R508): at 140 °C or above THERMTRIP_N is asserted and the die resets. -/
def execThermalTrip (d : Fin 8) (temp : BitVec 32) (s : State) : Host.Outcome State Fault Refusal :=
  .next (if 140 ≤ temp.toInt then { s with thermtrip := true }.dieReset d.val else s)

/-- A hub's SerDes supplies leave their range: its media ports and its CXL port go down. -/
def State.serdesDown (s : State) (h : Nat) : State :=
  ((({ s with sdDown := nsAdd s.sdDown h }.portDown (2 * h)).portDown (2 * h + 1)).cxDown h)

/-- OTHER_SUPPLY_OUT_OF_RANGE (18 Table 18-4). -/
def execOtherSupplyOutOfRange (x : Supply) (s : State) : Host.Outcome State Fault Refusal :=
  match x with
  | .vddq m => .next (s.chanFail (m.val / 4) (m.val % 4))
  | .vddSd h => .next (s.serdesDown h.val)
  | .vddhSd h => .next (s.serdesDown h.val)
  | .vddio => .next (s.powerUp s.straps)
  | .vdda h => .next (s.dieReset h.val)

/-! ### The test access port (17 R497-R500, 16 R471, R472) -/

/-- Another instruction is selected: a boundary-scan mode ends. -/
def State.tapSel (s : State) : State := { s with tap := { s.tap with mode := 0 } }

/-- What a data register captures. -/
def State.tapOut (s : State) (w v : Nat) : State := { s with resp := .tap w v }

/-- TAP_RESET (17 R497): Test-Logic-Reset. -/
def execTapReset (s : State) : Host.Outcome State Fault Refusal :=
  .next { s with tap := { s.tap with dbgctl := 0, mode := 0 } }

/-- The levels that the balls have: free values (assumption 1). -/
def State.capture (s : State) (n : Nat) : State :=
  let v := (upTo (cdiv n 64)).foldl (fun v i => v + (Config.freeWord (s.fresh + i)).toNat * 2 ^ (64 * i)) 0
  { s with fresh := s.fresh + cdiv n 64 }.tapOut n (v % 2 ^ n)

/-- A boundary-scan mode takes effect in BOOT and LOADING; later its instruction acts as BYPASS and sets EXTREF (17 R498). -/
def State.scanMode (s : State) (m : Nat) : State :=
  if s.dev < 2 then { s with tap := { s.tap with mode := m } }
  else { s with tap := { s.tap with mode := 0, extref := true } }.tapOut 1 0

/-- EXTEST, with the cells shifted in. -/
def execExtest (bits : List Bool) (s : State) : Host.Outcome State Fault Refusal :=
  if s.dev < 2 then .next ({ s with tap := { s.tap with cells := bits, mode := 1 } }.capture bits.length)
  else .next (s.scanMode 1)

/-- CLAMP and HIGHZ. -/
def execClamp (s : State) : Host.Outcome State Fault Refusal := .next (s.scanMode 2)
def execHighz (s : State) : Host.Outcome State Fault Refusal := .next (s.scanMode 3)

/-- SAMPLE/PRELOAD: in every state. -/
def execSamplePreload (bits : List Bool) (s : State) : Host.Outcome State Fault Refusal :=
  .next ({ s.tapSel with tap := { s.tapSel.tap with cells := bits } }.capture bits.length)

/-- IDCODE: rev A. -/
def execIdcode (s : State) : Host.Outcome State Fault Refusal := .next (s.tapSel.tapOut 32 0x0580855D)

/-- BYPASS. -/
def execBypass (s : State) : Host.Outcome State Fault Refusal := .next (s.tapSel.tapOut 1 0)

/-- DBGCTL: HUB, DOM and INC. -/
def execDbgctl (v : Byte) (s : State) : Host.Outcome State Fault Refusal :=
  let s := s.tapSel
  .next ({ s with tap := { s.tap with dbgctl := v.toNat % 64 } }.tapOut 8 s.tap.dbgctl)

/-- LOCKED: in SECURED until an unlock (17 R500). -/
def State.dbgLocked (s : State) : Bool := s.lifecycle == 1 && !s.tap.unlocked

/-- The end of a debug access: ERR, the read data, and the address, which INC moves on by 8. -/
def State.dbgDone (s : State) (a err : Nat) (v : Word) : State :=
  { s with tap := { s.tap with busy := false, err := err, data := v, addr := (if bitOf s.tap.dbgctl 5 then a + 8 else a) % 2 ^ 44 } }

/-- One access of the debug master (17 R499): none where the target never answers. -/
def State.dbgAccess (s : State) (a : Nat) (write : Bool) (v : Word) : State :=
  let h := s.tap.dbgctl % 2
  let m := mid h 1 3 0
  let b : Attr := ⟨m, bitsOf s.tap.dbgctl 1 4, 3, 3⟩
  let p := selfAlias m a
  let code (r : BusRes) : Nat := match r with | .ok => 0 | .denied => 1 | .decode => 2 | .uncorr => 4 | .held => 5
  let silent : State := { s with tap := { s.tap with busy := true, addr := a } }
  if s.dbgLocked then s.dbgDone a 3 0
  else if !s.dieActs h then silent
  else if write then
    let (r, t) := s.busWrite b kWrite p (natLE 8 v.toNat) none
    if r = .held then silent else t.settle.dbgDone a (code r) 0
  else
    let ((r, bs), t) := s.busRead b kRead p 8
    if r = .held then silent else t.settle.dbgDone a (code r) (BitVec.ofNat 64 (leNat bs))

/-- DBGACC: its capture shows the last access; an update while BUSY is 1 is ignored. -/
def execDbgacc (a : BitVec 44) (write : Bool) (data : Word) (s : State) : Host.Outcome State Fault Refusal :=
  let s := s.tapSel
  let cap := s.tap.addr + 2 ^ 44 * b2n s.tap.busy + 2 ^ 45 * s.tap.data.toNat
  .next ((if s.tap.busy then s else s.dbgAccess (a.toNat / 8 * 8) write data).tapOut 109 cap)

/-- DEBUG_ACCESS_TIMEOUT: no response within 100 µs. -/
def execDebugAccessTimeout (s : State) : Host.Outcome State Fault Refusal :=
  .next (if s.tap.busy then s.dbgDone s.tap.addr 5 0 else s)

/-- DBGSTAT. -/
def execDbgstat (s : State) : Host.Outcome State Fault Refusal :=
  let t := s.tap
  .next (s.tapSel.tapOut 8 (t.err + 8 * b2n t.busy + 16 * b2n s.dbgLocked + 32 * b2n t.extref + 64 * b2n t.unlocked))

/-- CHAL: each capture draws a fresh challenge of 32 bytes. -/
def execChal (s : State) : Host.Outcome State Fault Refusal :=
  let v := (upTo 4).foldl (fun v i => v + (Config.freeWord (s.fresh + i)).toNat * 2 ^ (64 * i)) 0
  let s := s.tapSel
  .next ({ s with fresh := s.fresh + 4, tap := { s.tap with chal := some v } }.tapOut 256 v)

/-- UNLOCK (16 R471): in SECURED, a signature over the latest challenge by a key that a qualifying slot holds. A wrong response has
further ones refused until UNLOCK_LOCKOUT_EXPIRY. -/
def execUnlock (key : BitVec 256) (sig : BitVec 512) (s : State) : Host.Outcome State Fault Refusal :=
  let s := s.tapSel
  if !s.dbgLocked || s.tap.wait then .next s
  else
    let kb := natLE 32 key.toNat
    let good := (s.keySlot (sha kb)).isSome && s.tap.chal.any fun v => Config.edValid key (natLE 32 v) sig
    if good then .next ({ s with tap := { s.tap with unlocked := true }, dbgUnlock := true }.measure 4 0 255 (sha kb))
    else .next { s with tap := { s.tap with wait := true } }

/-- UNLOCK_LOCKOUT_EXPIRY (16 R471). -/
def execUnlockLockoutExpiry (s : State) : Host.Outcome State Fault Refusal := .next { s with tap := { s.tap with wait := false } }

end Sys2Proof.Machine
end

