-- ==== Sys2Proof/Machine/System.lean ====
section
/-! DEFINITION. System instructions: system registers, cache operations, fences, returns, traps, window spills, and the
interrupt entries (07 R251-R254, 06 R193-R226). -/

namespace Sys2Proof.Machine
open Sys2Proof

/-! ### System registers (06 R222-R226, 07 R251) -/

/-- The checks of R222: unassigned numbers, a register of the other kind and writes of read-only registers raise 0x09,
access below the listed level 0x0A. -/
def sysAccess (num : Nat) (write cap : Bool) (word : Nat) : OnCore Unit := do
  let x ← getC
  raiseIf (sysKind num != (if cap then 2 else 1) || (write && sysWriteAt num == 3)) 0x09 word
  raiseIf (decide (x.lvl < if write then sysWriteAt num else sysReadAt num)) 0x0A word

/-- FEAT0-FEAT3 and FEATV (06 Table 6-14). -/
def featReg (c n : Nat) : Nat :=
  if n = 0x10 then 0x1FF
  else if n = 0x11 then 12 + 8 * 2 ^ 8 + 14 * 2 ^ 16 + 14 * 2 ^ 24 + 8 * 2 ^ 32 + 10 * 2 ^ 40 + 8 * 2 ^ 48
  else if n = 0x12 then coreKind c + 4 * b2n (coreKind c < 2) + 2 ^ 8 * coreMid c
  else if n = 0x14 then 2 + 256
  else 0

/-- A 64-bit system register as MFS reads it. TIDEPOS is the die's tide position with its valid bit (02 R45). -/
def State.sysRead (s : State) (c n : Nat) : Word :=
  let x := s.core c
  if n = 2 then BitVec.ofNat 64 ((s.die (coreDie c)).tide + 2 ^ 63 * b2n (s.die (coreDie c)).tideValid)
  else if n = 8 then BitVec.ofNat 64 (s.ipend c)
  else if n = 0x203 then x.sysReg n &&& BitVec.ofNat 64 (if getBits (x.sysReg 0x202) 0 8 = 0x12 then 0x7FF else 2 ^ 64 - 1)
  else if 0x10 ≤ n ∧ n ≤ 0x14 then BitVec.ofNat 64 (featReg c n)
  else x.sysReg n

/-- MFS: D[r] = register, exposed latency 1 (07 R251). -/
def execMfs (c : Fin 230) (r : BitVec 5) (num : BitVec 12) (s : State) : Host.Outcome State Fault Refusal :=
  plain c (do
    sysAccess num.toNat false false (encS r.toNat false false num.toNat)
    let s ← getS
    writeD r (s.sysRead c.val num.toNat) 1) s

/-- MTS: register = D[r], exposed latency 2; it waits for the frame drain (07 R251, 06 R209, R223). -/
def execMts (c : Fin 230) (r : BitVec 5) (num : BitVec 12) (s : State) : Host.Outcome State Fault Refusal :=
  access c (do
    waitDrain
    sysAccess num.toNat true false (encS r.toNat true false num.toNat)
    modC fun x =>
      let m : Word := BitVec.ofNat 64 (x.sysMaskOf num.toNat &&& kindMask (coreKind c.val) num.toNat)
      x.post (.sys num.toNat) (m ++ x.rd r) false 2
    return .seq 1) s

/-- CMFS: A[r] = register, exposed latency 1; r[4] must be 0 (07 R251). -/
def execCmfs (c : Fin 230) (r : BitVec 5) (num : BitVec 12) (s : State) : Host.Outcome State Fault Refusal :=
  plain c (do
    let word := encS r.toNat false true num.toNat
    raiseIf (decide (15 < r.toNat)) 0x09 word
    sysAccess num.toNat false true word
    let x ← getC
    writeA (r.setWidth 4) (x.capSys num.toNat) 1) s

/-! ### Vector buffers and save areas (06 R210, R220) -/

/-- The latch of the 256 bytes at a save capability's cursor for a level; none where the translation fails, with its
cause and EVAL (06 R210). A range that crosses a 4 KiB boundary may lie in two blocks. -/
def State.makeLatch (s : State) (c : Nat) (k : Cap) (priv : Nat) : (Except (Nat × Nat) Latch) × State :=
  match s.translate (16 + c) k.dom priv k.cur .latch with
  | (.fault e a, s) => (.error (e, a), s)
  | (.ok p _, s) =>
    let cut := 4096 - k.cur % 4096
    if 256 ≤ cut then (.ok ⟨true, p, 256, p⟩, s)
    else
      match s.translate (16 + c) k.dom priv ((k.cur + cut) % 2 ^ 44) .latch with
      | (.fault e a, s) => (.error (e, a), s)
      | (.ok q _, s) => (.ok ⟨true, p, cut, q⟩, s)

/-- CMTS: register = A[r], validated for XSA, MXSA and the vectors; exposed latency 2 (07 R251, 06 R210, R220). -/
def execCmts (c : Fin 230) (r : BitVec 5) (num : BitVec 12) (s : State) : Host.Outcome State Fault Refusal :=
  access c (do
    waitDrain
    let n := num.toNat
    let word := encS r.toNat true true n
    raiseIf (decide (15 < r.toNat)) 0x09 word
    sysAccess n true true word
    let x ← getC
    let k := x.ra (r.setWidth 4)
    if n = 0x105 || n = 0x205 then
      checkCap k (rLD + rST) k.cur 0 16
      raiseIf (decide (k.top < k.cur + 256)) 0x02 (k.lowestOutside k.cur 256)
      let s ← getS
      let (l, s') := s.makeLatch c.val k (if n = 0x205 then 2 else 1)
      modS fun _ => s'
      match l with
      | .error (e, a) => raise e a
      | .ok l => modC fun x => if n = 0x205 then { x with mxsaLatch := l } else { x with xsaLatch := l }
    else if n = 0x106 || n = 0x206 || n = 0x10A then
      raiseIf (!k.tag) 0x01 k.cur
      raiseIf k.sealed 0x04 k.cur
      raiseIf (!k.has 2) 0x03 k.cur
      let len := if n = 0x10A then 0x80 else 32
      raiseIf (decide (k.top < k.cur + len)) 0x02 (k.lowestOutside k.cur len)
      modS fun s => s.reload c.val n (some k)
    modC fun x => x.post (.csys n) k.bits k.tag 2
    return .seq 1) s

/-! ### Operand-less instructions (07 Table 7-11) -/

/-- NOP (07 Table 7-11). -/
def execNop (c : Fin 230) (s : State) : Host.Outcome State Fault Refusal := plain c (return .seq 1) s

/-- FENCE issues once the frame buffer has drained; no later data access issues before it completes (07 R253). Accesses
are performed in order at their commands, so what is left to complete is the wait itself. -/
def execFence (c : Fin 230) (s : State) : Host.Outcome State Fault Refusal :=
  access c (do
    waitDrain
    modC fun x => { x with fencing := true }
    return .seq 1) s

/-- FENCE_COMPLETE (07 R253). -/
def execFenceComplete (c : Fin 230) (s : State) : Host.Outcome State Fault Refusal :=
  if (s.core c.val).fencing && (s.core c.val).frame.isNone then .next (s.modCore c.val fun x => { x with fencing := false })
  else .next s

/-- WAITL: every outstanding long operation writes its destination (06 R186). -/
def execWaitl (c : Fin 230) (s : State) : Host.Outcome State Fault Refusal :=
  plain c (do
    let x ← getC
    if !x.longq.isEmpty then longWait
    modC CoreS.longAll
    return .seq 1) s

/-- PFLUSH (06 R200). -/
def execPflush (c : Fin 230) (s : State) : Host.Outcome State Fault Refusal :=
  plain c (do
    modC CoreS.pflush
    return .seq 1) s

/-- IFLUSHA: the instruction cache is emptied and the vector buffers reloaded (07 Table 7-11). -/
def execIflusha (c : Fin 230) (s : State) : Host.Outcome State Fault Refusal :=
  access c (do
    modC fun x => { x with icache := [] }
    modS fun s => s.reload c.val 0 none
    return .seq 258) s

/-- DFLUSHA: DFLUSH of every line (07 Table 7-11). -/
def execDflusha (c : Fin 230) (s : State) : Host.Outcome State Fault Refusal :=
  access c (do
    needLevel 1 (encX 0x05 0)
    let x ← getC
    let w ← extraSteps (x.dirtyOf (x.dcache.map (·.1)))
    modS fun s => (x.dcache.map (·.1)).foldl (fun s a => s.evict c.val a) s
    return .seq (258 + w)) s

/-- DINVA: every line is discarded (07 Table 7-11). -/
def execDinva (c : Fin 230) (s : State) : Host.Outcome State Fault Refusal :=
  plain c (do
    needLevel 1 (encX 0x06 0)
    modC fun x => { x with dcache := [] }
    return .seq 258) s

/-- Control returns to a resume point: one that names an abandoned instruction lets it finish before any interrupt (07 R255). -/
def CoreS.resume (x : CoreS) (k : Cap) : CoreS := { x with resumed := x.abandoned.contains k }

/-- RETX: the return from an exception, with its checks in order (06 R213, 08 R280). -/
def execRetx (c : Fin 230) (s : State) : Host.Outcome State Fault Refusal :=
  access c (do
    notInSlot (encX 0x07 0)
    needLevel 1 (encX 0x07 0)
    waitDrain
    let x ← getC
    let l := x.lvl
    let b := excBase l
    let p := x.sysReg (b + 1)
    let k := x.capSys b
    let g := x.capSys (b + 4)
    let bd := getBits (x.sysReg (b + 2)) 8 1 == 1
    raiseIf (decide (l < getBits p 0 2)) 0x0B (getBits p 0 2)
    raiseIf (!k.tag) 0x01 0
    raiseIf k.sealed 0x04 k.cur
    raiseIf (!k.has 2) 0x03 k.cur
    raiseIf (k.cur % 4 != 0) 0x05 k.cur
    raiseIf (bd && !g.tag) 0x01 0
    raiseIf (bd && g.sealed) 0x04 g.cur
    raiseIf (bd && !g.has 2) 0x03 g.cur
    raiseIf (bd && g.cur % 4 != 0) 0x05 g.cur
    modC fun x => (x.putSys 0 (if l = 1 then putBits p 12 1 0 else p)).resume k
    return .goto 1 k (if bd then some ⟨g, .none⟩ else none)) s

/-- RETF: the return from a fast interrupt, legal only while FB is 1 (06 R219). -/
def execRetf (c : Fin 230) (s : State) : Host.Outcome State Fault Refusal :=
  plain c (do
    notInSlot (encX 0x08 0)
    needLevel 1 (encX 0x08 0)
    let x ← getC
    raiseIf (!x.fb) 0x09 (encX 0x08 0)
    modC fun x => (x.putSys 0 (putBits (x.sysReg 0x109) 12 1 0)).resume (x.capSys 0x108)
    return .goto 1 (x.capSys 0x108) none) s

/-- TRAP: raises 0x10 with EVAL = imm16 (07 Table 7-11). -/
def execTrap (c : Fin 230) (imm : BitVec 16) (s : State) : Host.Outcome State Fault Refusal :=
  access c (do
    notInSlot (encX 0x09 imm.toNat)
    raise 0x10 imm.toNat) s

/-- BREAK: raises 0x11 with EVAL = its address (07 Table 7-11). -/
def execBrk (c : Fin 230) (s : State) : Host.Outcome State Fault Refusal :=
  access c (do
    let x ← getC
    raise 0x11 x.pcc.cur) s

/-- ILLEGAL_INSTRUCTION: a word that is no instruction raises 0x09 with EVAL the word (07 R229). A word that is one is not this command
(assumption 15). -/
def execIllegalInstruction (c : Fin 230) (word : BitVec 32) (s : State) : Host.Outcome State Fault Refusal :=
  if (decodeCore c word).isSome then .next s else access c (raise 0x09 word.toNat) s

/-- A fault of WSPILL or WFILL escalates to M (06 R197). -/
def asWindow {α : Type} (m : OnCore α) : OnCore α := fun r =>
  match m r with
  | .ok v r => .ok v r
  | .error (.exn 0x12 e _) r => .error (.exn 0x12 e false) r
  | .error (.exn k e _) r => .error (.exn k e true) r
  | .error x r => .error x r

/-- The stores of WSPILL, register 16 first. -/
def wspillGo (k : Cap) : List Word → Nat → OnCore Unit
  | [], _ => return ()
  | v :: vs, e => do
    store k (e % 2 ^ 44) (natLE 8 v.toNat) none
    wspillGo k vs (e + 8)

/-- The physical registers of a window. -/
def windowRegs (w : Nat) : List Nat := (upTo 16).map (16 + 16 * (w % 12) + ·)

/-- WSPILL (06 R196): window OLD goes to A14, and OLD and A14 advance. 0x0A at U and 0x09 in a delay slot are ordinary exceptions: R197
is read of the faults of its accesses (DESIGN CHOICE, assumption 97). No row of 07 Table 7-12 counts its steps: 17, as STM of sixteen
registers (DESIGN CHOICE, assumption 97). -/
def execWspill (c : Fin 230) (s : State) : Host.Outcome State Fault Refusal :=
  access c (do
    notInSlot (encX 0x0B 0)
    needLevel 1 (encX 0x0B 0)
    waitDrain
    let x ← getC
    let k := x.ra 14
    let vs := (windowRegs x.old).map (SMap.get (dflt 0) x.d)
    asWindow (do
      checkCap k rST k.cur 128 8
      wspillGo k vs k.cur)
    modC fun x => (x.wa 14 (k.adv 128) 0).putSys 3 (BitVec.ofNat 64 ((x.old + 1) % 12))
    return .seq 17) s

/-- The loads of WFILL. -/
def wfillGo (k : Cap) : Nat → Nat → List Word → OnCore (List Word)
  | 0, _, acc => return acc
  | n + 1, e, acc => do
    let (bs, _) ← load k (e % 2 ^ 44) 8
    wfillGo k n (e + 8) (acc ++ [BitVec.ofNat 64 (leNat bs)])

/-- WFILL (06 R196): window OLD - 1 comes from below A14; nothing is written until the last load succeeds. Ordinary exceptions and
steps as for WSPILL (DESIGN CHOICE, assumption 97). -/
def execWfill (c : Fin 230) (s : State) : Host.Outcome State Fault Refusal :=
  access c (do
    notInSlot (encX 0x0C 0)
    needLevel 1 (encX 0x0C 0)
    waitDrain
    let x ← getC
    let k := (x.ra 14).adv (-128)
    let w := (x.old + 11) % 12
    let vs ← asWindow (do
      checkCap k rLD k.cur 128 8
      wfillGo k 16 k.cur [])
    modC fun x =>
      let y := ((windowRegs w).zip vs).foldl (fun y p => y.post (.d p.1) (p.2.setWidth 128) false 0) x
      (y.wa 14 k 0).putSys 3 (BitVec.ofNat 64 w)
    return .seq 17) s

/-- One save area translated again, of the capability that its latch goes by (06 R210). -/
def State.relatch (s : State) (c : Nat) (m : Bool) : State :=
  let x := s.core c
  let old := if m then x.mxsaLatch else x.xsaLatch
  let k := x.newestCap (if m then 0x205 else 0x105)
  if !k.tag then s
  else
    let (r, s) := s.makeLatch c k (if m then 2 else 1)
    let l := match r with
      | .ok l => l
      | .error _ => { old with valid := false }
    s.modCore c fun x => if m then { x with mxsaLatch := l } else { x with xsaLatch := l }

/-- BINV: the copies in BT0-BT7 are discarded and both save areas translated again (07 Table 7-11). -/
def execBinv (c : Fin 230) (s : State) : Host.Outcome State Fault Refusal :=
  access c (do
    needLevel 1 (encX 0x0D 0)
    modC fun x => (upTo 16).foldl (fun x i => x.putSys (0x180 + i) 0) x
    modS fun s => (s.relatch c.val false).relatch c.val true
    return .seq 1) s

/-- WFI: stalls until some source is asserted in IPEND and IEN (07 Table 7-11). -/
def execWfi (c : Fin 230) (s : State) : Host.Outcome State Fault Refusal :=
  plain c (do
    needLevel 1 (encX 0x0E 0)
    let s ← getS
    modC fun x => { x with waiting := s.asserted c.val == 0 }
    return .seq 1) s

/-! ### Cache operations on a range (07 R254, 06 R205) -/

/-- The checks of a range of `n` bytes: tag, seal, rights, length and bounds (07 R254). -/
def checkRange (k : Cap) (need n : Nat) (bounds : Bool) : OnCore Unit := do
  raiseIf (!k.tag) 0x01 k.cur
  raiseIf k.sealed 0x04 k.cur
  raiseIf (k.rights &&& need != need) 0x03 k.cur
  raiseIf (decide (4096 < n)) 0x02 (k.cur + 4096)
  if bounds then
    match k.outside k.cur n with
    | some a => raise 0x02 a
    | none => raiseIf false 0 0

/-- The addresses, one in each 64-byte line that overlaps `n` bytes at `a`. -/
def rangeLines (a n : Nat) : List Nat :=
  if n = 0 then [] else (upTo ((a + n - 1) / 64 + 1 - a / 64)).map fun i => max a ((a / 64 + i) * 64)

/-- The lines of a range with their physical addresses: the whole range is translated before any line is acted on (07 R254). -/
def linesGo (k : Cap) (need : Need) : List Nat → OnCore (List (Nat × Nat))
  | [] => return []
  | va :: vs => do
    let (a, _) ← xlate k.dom (va % 2 ^ 44) need
    let r ← linesGo k need vs
    return (va, a) :: r

/-- DFLUSH: each overlapping line is written back if dirty, then invalidated (06 R205). -/
def execDflush (c : Fin 230) (aa : BitVec 4) (b : BitVec 5) (s : State) : Host.Outcome State Fault Refusal :=
  access c (do
    let x ← getC
    let k := x.ra aa
    let n := (x.rd b).toNat
    checkRange k rLD n true
    let ls ← linesGo k .read (rangeLines k.cur n)
    let w ← extraSteps (x.dirtyOf (ls.map (·.2)))
    modS fun s => ls.foldl (fun s p => s.evict c.val p.2) s
    return .seq (2 + ls.length + w)) s

/-- DINV: lines wholly within the range are discarded; a partly covered line is flushed (06 R205). -/
def execDinv (c : Fin 230) (aa : BitVec 4) (b : BitVec 5) (s : State) : Host.Outcome State Fault Refusal :=
  access c (do
    let x ← getC
    let k := x.ra aa
    let n := (x.rd b).toNat
    checkRange k rST n true
    let ls ← linesGo k .write (rangeLines k.cur n)
    let whole (va : Nat) : Bool := k.cur ≤ va / 64 * 64 && va / 64 * 64 + 64 ≤ k.cur + n
    let w ← extraSteps (x.dirtyOf ((ls.filter fun p => !whole p.1).map (·.2)))
    modS fun s => ls.foldl (fun s p => if whole p.1 then s.modCore c.val fun y => y.dropLine p.2 else s.evict c.val p.2) s
    return .seq (2 + ls.length + w)) s

/-- IFLUSH: the lines of the range leave the instruction cache and the vector buffers are reloaded; only a tag, no seal and
the translation are checked (07 R254). -/
def execIflush (c : Fin 230) (aa : BitVec 4) (b : BitVec 5) (s : State) : Host.Outcome State Fault Refusal :=
  access c (do
    let x ← getC
    let k := x.ra aa
    let n := (x.rd b).toNat
    checkRange k 0 n false
    let ls ← linesGo k .any (rangeLines k.cur n)
    modC fun x => { x with icache := ls.foldl (fun l p => nsDel l (p.2 / 64 * 64)) x.icache }
    modS fun s => s.reload c.val 0 none
    return .seq (2 + ls.length)) s

/-! ### Events of a core -/

/-- FRAME_DRAIN_COMPLETE: the frame buffer has drained, or a write of it failed (06 R209, R211). -/
def execFrameDrainComplete (c : Fin 230) (s : State) : Host.Outcome State Fault Refusal :=
  let x := s.core c.val
  .next (if x.frame.isNone || !s.coreActs c.val then s
    else s.attempt fun s => (s.drain c.val x.pcc x.etgtOf x.delay.isSome).2.settle)

/-- The interrupt that cut off a multi-step instruction is taken, and its resume point names that instruction (06 R215, 07 R255). -/
def State.abandon (s : State) (c : Nat) : State :=
  s.modCore c fun x => { x with cut := false, abandoned := if x.cut then x.abandoned.insert x.pcc else x.abandoned }

/-- NORMAL_INTERRUPT_ENTRY (06 R218): lowest bit first, behind the fast sources that can be taken, at max(LVL, S). -/
def execNormalInterruptEntry (c : Fin 230) (s : State) : Host.Outcome State Fault Refusal :=
  let x := s.core c.val
  .next (match s.fastDue c.val, s.normalDue c.val with
    | false, some b =>
      let t := max x.lvl 1
      s.attempt fun s => ((s.abandon c.val).except c.val t x.pcc Cap.null (b + 0x400) 0 false false).settle
    | _, _ => s)

/-- Fast entry for TIDE or LATTICE, once the frame buffer is empty (06 R209, R219, R221). -/
def State.fastEntry (s : State) (c : Nat) (lattice : Bool) : State :=
  let s := s.modCore c CoreS.flush
  match s.drain c (s.core c).pcc Cap.null false with
  | (false, s) => s
  | (true, s) =>
    let pc := (s.core c).pcc.cur
    let s := s.modCore c fun x =>
      let p := x.pstat
      let y := (x.setCapSys 0x108 x.pcc).setSys 0x109 p
      let y := y.setPs 12 1 1
      let y := if x.lvl = 0 then y.setPs 0 2 1 else y
      let y := if lattice then y else y.setSys 8 (putBits (y.sysReg 8) 0 1 0)
      let v := (x.capSys 0x10A).adv (if lattice then 0x40 else 0)
      { y with pcc := v, waiting := false, entered := some (v.cur, v.dom) }
    (s.coreEv c 1 8 1 pc).steps c entrySteps pc

/-- FAST_INTERRUPT_ENTRY (06 R218, R219): TIDE before LATTICE. -/
def execFastInterruptEntry (c : Fin 230) (s : State) : Host.Outcome State Fault Refusal :=
  .next (if s.fastDue c.val then
      s.attempt fun s => ((s.abandon c.val).fastEntry c.val (!bitOf (s.asserted c.val) 0)).settle
    else s)

/-- SAMPLE_COUNTDOWN_EXPIRY (17 R492, R494): a countdown that stands at 0 where sampling is enabled expires. One that an instruction
takes to 0 expires with that instruction. -/
def execSampleCountdownExpiry (c : Fin 230) (s : State) : Host.Outcome State Fault Refusal :=
  if s.bit (sampBase c.val) 0 && s.dieActs (coreDie c.val) && (s.core c.val).countdown == 0 then .next (s.sampleExpire c.val)
  else .next s

/-- SEED (17 R493). -/
def execSeed (c : Fin 230) (v : BitVec 32) (s : State) : Host.Outcome State Fault Refusal :=
  if s.dieActs (coreDie c.val) then .next (s.seedWrite c.val v.toNat) else .next s

end Sys2Proof.Machine
end

