-- ==== Sys2Proof/Machine/Tide.lean ====
section
/-! DEFINITION. Tide generators, tick messages, the local tick with all that a block begins, shedding, and HOLD (chapter 02, 05 R159,
R164; 12 R367, R376, R377; 15 R447; 17 R487). Die 0 and 1 are the hubs, die n + 2 is lattice die Ln. -/

namespace Sys2Proof.Machine
open Sys2Proof

/-! ### The generators (02 R46-R49) -/

/-- TIDE_GENERATOR_TICK (02 R44, R47): the next position, or the PTP-derived one where a step is due outside RUN, DEGRADED and HOLD.
The standby generator holds the same position. -/
def execTideGeneratorTick (ptpPos : BitVec 56) (s : State) : Host.Outcome State Fault Refusal :=
  let g := s.gen s.active
  let step := g.stepDue && !s.live
  let pos := if step then ptpPos.toNat else (g.pos + 1) % 2 ^ 56
  .next (s.bothGens fun g => if step then { g.hold s.rateHz with pos := pos, stepDue := false, freqAt := pos, wantPpb := g.wantPpb }
    else { g with pos := pos, stepDue := false })

/-- TICK_MESSAGE (02 R50, 15 R452): a hub's tick message waits for the die's local tick. -/
def execTickMessage (d : Fin 8) (h : Fin 2) (pos : BitVec 56) (s : State) : Host.Outcome State Fault Refusal :=
  if nsMem s.fenced d.val || !s.dieActs h.val then .next s
  else .next ((s.message (mid h.val 5 2 0) d.val).modDie d.val fun x => if h.val = 0 then { x with msg0 := some pos.toNat } else { x with msg1 := some pos.toNat })

/-- ACQUIRE_TIMEOUT (02 Table 2-3). -/
def execAcquireTimeout (s : State) : Host.Outcome State Fault Refusal :=
  .next (if s.fld (hubReg s.active 6) 0 2 = 1 ∧ !(s.gen s.active).valid then s.genState 0 else s)

/-- LOCK_QUALIFIED (02 Table 2-3): in ACQUIRE, with a phase error of 100 ns or less. -/
def execLockQualified (s : State) : Host.Outcome State Fault Refusal :=
  let a := hubReg s.active 6
  .next (if s.fld a 0 2 = 1 ∧ (s.gen s.active).valid ∧ (signed 16 (s.fld a 16 16)).natAbs ≤ 100 then s.genState 2 else s)

/-- HOLDOVER_ENTRY (02 Table 2-3). -/
def execHoldoverEntry (s : State) : Host.Outcome State Fault Refusal :=
  .next (if s.fld (hubReg s.active 6) 0 2 = 2 ∧ !(s.gen s.active).valid then s.genState 3 else s)

/-! ### The tide interrupt (06 R217) -/

/-- A tick as a core's IPEND sees it: TSEL selects it, TIDE is set, and TOVR where TIDE was pending. -/
def CoreS.tideTick (x : CoreS) (pos : Nat) : CoreS :=
  let t := getBits (x.sysReg 9) 4 2
  let sel := t == 0 || (t == 1 && pos % 16 == 0) || (t == 2 && pos % 512 == 0)
  if !sel then x
  else if getBits (x.sysReg 8) 0 1 = 1 then x.setSys 8 (putBits (x.sysReg 8) 2 1 1)
  else x.setSys 8 (putBits (x.sysReg 8) 0 1 1)

/-- A tick at every core of a die that runs. -/
def State.coresTick (s : State) (d pos : Nat) : State :=
  (upTo (if d < 2 then 4 else 37)).foldl (fun s r =>
    let c := coreOf d r
    if (s.core c).running then s.modCore c fun x => x.tideTick pos else s) s

/-! ### Speed gauge and shedding (02 R59-R69) -/

/-- The GAUGE register of a die. -/
def gaugeReg (d : Nat) : Nat := if d < 2 then hubReg d 6 + 0x10 else dieReg d 7

/-- A quarter-block reading. -/
def State.gaugeQuarter (s : State) (d reading : Nat) : State :=
  (s.modDie d fun x => { x with quarters := x.quarters ++ [reading] }).setFld (gaugeReg d) 0 16 reading

/-- The start of block `n`: the block reading of block n - 1, none where the die did not measure it or it lay before RUN. -/
def State.gaugeBlock (s : State) (d n : Nat) : State :=
  let x := s.die d
  let whole := x.quarters.length == 4
  let g := x.quarters.foldl min 0xFFFF
  let s := if whole then s.setFld (gaugeReg d) 16 16 g else s
  let follows := match x.blk with | some b => b + 1 == n | none => false
  let g1 := if whole && follows && !(s.live && decide (n ≤ s.runBlk)) then some g else none
  s.setDie d { x with quarters := [], g1 := g1, g2 := if follows then x.g1 else none, blk := some n }

/-- The prediction p (02 R65, R67). -/
def predict (g1 g2 : Option Nat) (now : Nat) (lacking : Bool) : Nat :=
  let a := g1.getD now
  let b := g2.getD now
  a - 2 * (b - a) - 0x40 - (if lacking then 0x100 else 0)

/-- The next level and the restore counts (02 R65, R66); `req` are REQ0 to REQ16. -/
def shedNext (req : List Nat) (p current force : Nat) (late en : Bool) (counts : List Nat) : Nat × List Nat :=
  let least := ((upTo 17).find? fun j => decide (req.getD j 0 ≤ p)).getD 16
  let up := if late then min 16 (least + 1) else least
  let counts := (upTo current).map fun j => if req.getD j 0 + 0x100 ≤ p then counts.getD j 0 + 1 else 0
  let back := ((upTo current).find? fun j => decide (4 ≤ counts.getD j 0)).getD current
  let next := if current < up then up else back
  let next := if en then max next force else force
  (next, if next = current then counts else [])

/-- The decision with a prediction; the levels in force move on by a block where `move` says so. -/
def State.decide_ (s : State) (n p : Nat) (move : Bool) : State :=
  let d := n + 2
  let g := dieReg d 7
  let x := s.die d
  let cur := if move then x.levelNext else x.level
  let req := (upTo 17).map fun j => s.fld (g + 0x100 + 8 * j) 0 16
  let (next, counts) := shedNext req p cur (s.fld (g + 8) 1 5) x.lateSeen (s.bit (g + 8) 0) x.restore
  let s := (s.setFld g 32 16 p).setFld g 48 5 cur
  let s := if cur = 0 then s else s.setBit (g + 0x10) 3 true
  s.setDie d { x with level := cur, levelNext := next, restore := counts, lateSeen := false, lacking := x.lacking - 1 }

/-- The decision at the start of a render block. -/
def State.shedBlock (s : State) (n : Nat) : State :=
  let x := s.die (n + 2)
  s.decide_ n (predict x.g1 x.g2 (s.fld (gaugeReg (n + 2)) 0 16) (decide (0 < x.lacking))) true

/-! ### The window writer (02 R56) -/

/-- A source block that was not written is filled by the concealment law; where the slot has a source, the die's trouble bit is set.
A slot without a source is filled by the same law, which gives zeros (assumption 27). -/
def State.concealBlock (s : State) (n b : Nat) : State :=
  let w := SMap.get (dflt []) s.written n
  let gone := (upTo s.nSlots).filter fun t => !w.contains (b * 2048 + t)
  let s := gone.foldl (fun s t => s.winBlock n t b (missValues (if b = 0 then 0 else s.winRead n t (16 * b - 1)))) s
  let used := s.slotsUsed
  let s := if gone.any used.contains then s.troubleDie (n + 2) 4 else s
  { s with written := SMap.set (dflt []) s.written n (w.filter fun x => decide (b < x / 2048)), concealed := SMap.set (dflt 0) s.concealed n (b + 1) }

/-- Every source block whose time to be written has passed at tide position `pos`. -/
def State.concealDue (s : State) (n pos : Nat) : State :=
  let b0 := SMap.get (dflt 0) s.concealed n
  (upTo (pos / 16 - 1 - b0)).foldl (fun s i => s.concealBlock n (b0 + i)) s

/-! ### The start of a block on a lattice die (02 R51-R55, R65; 04 R129; 05 R158-R164, R174; 15 R447) -/

/-- Flip points strictly between two positions, or at the second where `upto` says so: their blocks are not rendered (03 R104). -/
def flipsBetween (a b : Nat) : Nat := (b + 479) / 512 - (a + 480) / 512

/-- Skipped flips of every cluster of a die that renders; the list of the next block, the one that begins after position `pos`, is
the active half alone (03 R103, R104, R108). A comet that loads takes the skipped flip as `flipAt` says. -/
def State.flipsMissed (s : State) (n pos cnt : Nat) : State :=
  if cnt = 0 || !s.live then s
  else
    let s := (upTo 24).foldl (fun s k =>
      if (s.comet n).loading = some k then (s.flipMissed n 24).renderEv n 24 4 (cnt - 1)
      else if (s.cl n k).cond = 2 || ((s.cl n k).cond = 1 && (s.comet n).carry != some k) then s
      else ((s.flipMissed n k).renderEv n k 4 (cnt - 1)).listRegs n k ((pos + 15) / 16 - 2)) s
    s.reqUpdate n

/-- Priority bus changes whose effective block has come are written to every cluster and the comet (04 R129). -/
def State.busBlock (s : State) (n blk : Nat) : State :=
  let l := SMap.get (dflt []) s.busPend n
  let due := l.filter fun c => decide (c.blk ≤ blk)
  let s := { s with busPend := SMap.set (dflt []) s.busPend n (l.filter fun c => decide (blk < c.blk)) }
  due.foldl (fun s c => (upTo 25).foldl (fun s k =>
    s.setRg (clRegBase (n + 2) k + 0x1100 + 8 * c.bus) (BitVec.ofNat 64 (c.psrc + 2 ^ 11 * b2n c.active + 2 ^ 12 * c.duck))) s) s

/-- The flip point of scene tick `sc` at a cluster, and the registers that describe its list (03 R103, R104, R115; 02 R64). At a
cluster whose comet still loads, the comet takes the skipped flip: no half is READY there (15 R445; assumption 82). -/
def State.flipAt (s : State) (n k sc : Nat) : State :=
  if s.clActs n k then ((s.flipPoint n k sc).listRegs n k (32 * sc)).reqUpdate n
  else if (s.comet n).loading = some k then s.flipMissed n 24
  else s

/-- A cluster at the start of the block that renders ingress block `blk`: the outgoing half is free, a render still at work is late,
a flip point is made at its block's start even then, and the block is put to the cluster's work with what it samples (02 R55, 03 R104,
R107; 04 R131). -/
def State.clusterBlock (s : State) (n k blk now next : Nat) : State :=
  let s := if s.clActs n k then s.shadowFree n k else s
  let c := s.cl n k
  let runsOn := c.busy && !c.late && (c.work.map (·.blk)).headD blk != blk
  let s := if s.clActs n k && runsOn then s.renderLate n k
    else if s.clLoads n k && (c.work.map (·.blk)).headD blk != blk then s.modCl n k fun x => { x with late := true } else s
  if c.cond = 2 then s
  else
    let s := if blk % 32 = 0 then s.flipAt n k (blk / 32) else s
    let w := s.workAt n k blk now next
    let s := s.modCl n k fun x => { x with work := x.work ++ [w] }
    if s.clActs n k && !c.busy then s.renderStart n k else s

/-- A die's stream pairs begin a block once its sources are delivered (12 R377). -/
def State.pairsBegin (s : State) (n blk : Nat) : State :=
  if s.delivered = some (blk - 1) ∧ (s.die (n + 2)).blk = some blk ∧ s.dieActs (n + 2) then
    (upTo 6).foldl (fun s p => s.strmBlock n p) s
  else s

/-- Block `b` begins on lattice die n. -/
def State.latticeBlock (s : State) (n b : Nat) : State :=
  let d := n + 2
  let s := match (s.die d).detourNext with
    | some p => (s.modDie d fun x => { x with detour := p, detourNext := none }).calibrate d
    | none => s
  let s := s.gaugeBlock d b
  let s := s.busBlock n b
  let s :=
    if s.live && decide (s.runBlk ≤ b) then
      let s := s.shedBlock n
      let x := s.die d
      let s := (upTo 24).foldl (fun s k => s.clusterBlock n k (b - 2) x.level x.levelNext) s
      let s := s.auditStart n (b - 2) x.level
      let s := (upTo 6).foldl (fun s p => s.pairBlock n p) s
      let s := s.pairsBegin n b
      if b % 32 = 3 then
        (upTo 24).foldl (fun s k => if s.clActs n k then s.lawOpen n k (b / 32 + 1) else s) (s.sceneClose (b / 32 + 1))
      else s
    else (upTo 25).foldl (fun s k => s.firIdle n k) s
  s.metersBlock d b

/-- The position of a local tick: the active hub's message, else the standby's; on a hub, else its own generator's. A message for a
position already taken is spent (15 R452). -/
def State.tickPos (s : State) (d : Nat) : Option Nat :=
  let x := s.die d
  let fresh (m : Option Nat) : Option Nat := m.filter fun p => !(x.tideValid && p == x.tide)
  let (a, b) := if s.active = 0 then (x.msg0, x.msg1) else (x.msg1, x.msg0)
  let own := if d < 2 then fresh (some (s.gen d).pos) else none
  ((fresh a).orElse fun _ => fresh b).orElse fun _ => own

/-- A local tick at position `pos` of lattice die n that does its work; `prev` is the position before. -/
def State.latticeTick (s : State) (n pos prev : Nat) (gap : Bool) (gauge : Nat) : State :=
  let d := n + 2
  let s :=
    if gap then
      let s := ((s.tideSticky 34).troubleDie d 1).cutMeters d
      let s := s.modDie d fun x => { x with quarters := [], lacking := 2 }
      if prev < pos then s.flipsMissed n pos (flipsBetween prev pos) else s
    else s
  let s := s.coresTick d pos
  let s := if pos % 4 = 0 && !gap then s.gaugeQuarter d gauge else s
  let s := if s.live then s.concealDue n pos else s
  let path := (s.die d).detourNext.isSome && pos % 16 == 0
  let s := if pos % 16 = 0 then s.latticeBlock n (pos / 16) else s
  let s := if path then s.troubleDie d 1 else s
  if s.live && pos % 512 == (if s.rate96 then 24 else 28) then
    (upTo 24).foldl (fun s k => if s.clActs n k then s.lawClose n k (pos / 512) else s) s
  else s

/-! ### The start of a block on a hub (02 R71, 12 R367, R375-R377) -/

/-- The host credits of a hub (02 R71): withheld while its block reading is below 0x0A00. Requests that met a die in HOLD issue
once it takes work again. -/
def State.creditBlock (s : State) (h : Nat) : State :=
  let pause := match (s.die h).g1 with | some g => decide (g < 0xA00) | none => s.cxPaused h
  let s := if pause = s.cxPaused h then s
    else
      let s := (upTo 16).foldl (fun s k => s.setBit (cxReg h + 0x100 + 8 * k) 3 pause) s
      (upTo 15).foldl (fun s k => s.ldShow k) s
  if pause then s else s.hostServe

/-- Block `b` begins on hub h; the active hub's runtime applies what waits and delivers the last block. -/
def State.hubBlock (s : State) (h b : Nat) : State :=
  let s := ((s.gaugeBlock h b).creditBlock h).ingressBlock h b
  let s := s.metersBlock h b
  if h ≠ s.active then s
  else
    let s := if s.dev < 2 then s else s.applyAll.firStageAll
    if s.live then
      let s := s.deliverAll (b - 1)
      (upTo 6).foldl (fun s n => s.pairsBegin n b) s
    else s

/-- The 1PPS output (12 R367): it rises where the position is a multiple of the rate and falls 100 ms later. -/
def State.ppsTick (s : State) (h pos : Nat) : State :=
  if pos % s.rateHz = 0 ∧ s.bit (hubReg h 7 + 0x1020) 0 then { s with pps := nsAdd s.pps h }
  else if pos % s.rateHz = s.rateHz / 10 then { s with pps := nsDel s.pps h } else s

/-- A local tick of a hub that does its work. -/
def State.hubTick (s : State) (h pos : Nat) (gap : Bool) (gauge : Nat) : State :=
  let s := if gap then ((s.tideSticky 34).cutMeters h).modDie h fun x => { x with quarters := [] } else s
  let s := (s.coresTick h pos).ppsTick h pos
  let s := if pos % 4 = 0 && !gap then s.gaugeQuarter h gauge else s
  if pos % 16 = 0 then s.hubBlock h (pos / 16) else s

/-- LOCAL_TIDE_TICK (02 R45, R50, R51): the die takes the position. A die in HOLD does no work; its position is kept for its
rejoin. `gauge` is the gauge's reading of the quarter-block that ends, if one does. -/
def execLocalTideTick (d : Fin 8) (gauge : BitVec 16) (s : State) : Host.Outcome State Fault Refusal :=
  let d := d.val
  if nsMem s.fenced d then .next s
  else match s.tickPos d with
  | none => .next s
  | some pos =>
    let x := s.die d
    let gap := x.tideValid && pos != (x.tide + 1) % 2 ^ 56
    let s := s.setDie d { x with tide := pos, tideValid := true, msg0 := none, msg1 := none }
    let s := if d < 2 then s.setRg (hubReg d 6 + 8) (BitVec.ofNat 64 (pos + 2 ^ 63)) else s
    if nsMem s.held d then .next s
    else if d < 2 then .next (s.hubTick d pos gap gauge.toNat).settle
    else .next (s.latticeTick (d - 2) pos x.tide gap gauge.toNat).settle

/-! ### HOLD (02 R72-R77) -/

/-- SUPPLY_HOLD_ENTRY (02 R72-R75): the die's pipelines come to rest. In HOLD already, a further fall withdraws the exit condition. -/
def execSupplyHoldEntry (d : Fin 8) (s : State) : Host.Outcome State Fault Refusal :=
  let d := d.val
  if nsMem s.fenced d || !(s.die d).up then .next s
  else if nsMem s.held d then .next (s.modDie d fun x => { x with exitCount := false, exitMet := false })
  else
    let s := { s with held := nsAdd s.held d }.pointsStop d
    let s := s.modDie d fun x => { x with exitCount := false, exitMet := false, noticed := false, holdFrom := x.tide }
    let s := s.cutMeters d
    let s := if d < 2 then s.troubleHub d 2 1 else (s.setBit (dieReg d 7 + 0x10) 4 true).troubleDie d 3
    .next (if s.dev = 3 ∨ s.dev = 4 then { s with devBack := s.dev }.setDev 5 else s)

/-- HOLD_NOTICE (02 Table 2-10): the hubs suspend the die's link watchdogs and expect no further blocks. -/
def execHoldNotice (d : Fin 6) (s : State) : Host.Outcome State Fault Refusal :=
  .next (if nsMem s.held (d.val + 2) then s.modDie (d.val + 2) fun x => { x with noticed := true } else s)

/-- HUB_HOLD_NOTICE (02 R77): output stages write only to the other hub, which carries the held hub's duties as for hub loss. -/
def execHubHoldNotice (h : Fin 2) (s : State) : Host.Outcome State Fault Refusal :=
  let h := h.val
  if !nsMem s.held h || (s.die h).noticed then .next s
  else
    let s := s.modDie h fun x => { x with noticed := true }
    let s := (upTo 6).foldl (fun s n => s.modDie (n + 2) fun d => if h = 0 then { d with hub0 := false } else { d with hub1 := false }) s
    if !s.dieActs (1 - h) then .next s
    else
      let s := { s with xfers := s.xfers.filter fun p => !s.pathOn p.1 h, hostWait := true }.ptpHubStop h
      .next (if s.active = h then s.moveRoles (1 - h) else s)

/-- SUPPLY_HOLD_EXIT_RISE (02 R75). -/
def execSupplyHoldExitRise (d : Fin 8) (s : State) : Host.Outcome State Fault Refusal :=
  .next (if nsMem s.held d.val ∧ !(s.die d.val).exitMet then s.modDie d.val fun x => { x with exitCount := true } else s)

/-- SUPPLY_EXIT_THRESHOLD_FALL (02 R75): the count stops without release. -/
def execSupplyExitThresholdFall (d : Fin 8) (s : State) : Host.Outcome State Fault Refusal :=
  .next (if nsMem s.held d.val then s.modDie d.val fun x => { x with exitCount := false } else s)

/-- HOLD_EXIT_CONDITION (02 R75): the supply has stayed above the exit threshold for 100 µs. -/
def execHoldExitCondition (d : Fin 8) (s : State) : Host.Outcome State Fault Refusal :=
  .next (if nsMem s.held d.val ∧ (s.die d.val).exitCount then
    s.modDie d.val fun x => { x with exitCount := false, exitMet := true } else s)

/-- A die leaves HOLD; with none left in HOLD the device does (14 R418). -/
def State.leaveHold (s : State) (d : Nat) : State :=
  let s := { s with held := nsDel s.held d, pointStop := SMap.erase s.pointStop d }
  let s := s.modDie d fun x => { x with exitCount := false, exitMet := false, noticed := false, quarters := [], g1 := none, g2 := none,
                                        blk := some (x.tide / 16), lacking := 1 }
  let s := s.rtRejoin d
  if s.dev = 5 && s.held.isEmpty then s.setDev s.devBack else s

/-- The window positions of the source blocks that a held die missed take zeros (02 R75); block `r` is the rejoin block. -/
def State.zeroMissed (s : State) (n r : Nat) : State :=
  let b0 := SMap.get (dflt 0) s.concealed n
  let w := SMap.get (dflt []) s.written n
  let s := (upTo (r - 1 - b0)).foldl (fun (s : State) i =>
    ((upTo s.nSlots).filter fun t => !w.contains ((b0 + i) * 2048 + t)).foldl (fun s t =>
      s.winBlock n t (b0 + i) ((upTo 16).map fun _ => 0)) s) s
  { s with concealed := SMap.set (dflt 0) s.concealed n (max b0 (r - 1)), written := SMap.set (dflt []) s.written n (w.filter fun x => decide (r - 1 ≤ x / 2048)) }

/-- The sources of a die's pairs fade in: in the block just delivered, or in the one that comes (02 R75). -/
def State.fadeSources (s : State) (n r : Nat) : State :=
  let mine := s.sources.filter fun t => match s.srcPairOf t with | some q => q / 6 == n | none => false
  mine.foldl (fun s t =>
    let x := s.srcInOf t
    s.setSrcIn t (if s.delivered = some (r - 1) then
      { x with block := if x.block.all (· == 0) then x.block else ((upTo 16).zip x.block).map fun p => rnd (p.2 * (p.1 + 1 : Nat)) 4 }
    else { x with fadeIn := true })) s

/-- DIE_REJOIN (02 R75): at a block boundary, once the exit condition is met. Renders that the HOLD cut off are given up; flip points of
the HOLD are skipped flips; the first decision uses p = NOW - 0x0100; the die renders from the next block on. -/
def execDieRejoin (d : Fin 6) (s : State) : Host.Outcome State Fault Refusal :=
  let n := d.val
  let x := s.die (n + 2)
  let r := x.tide / 16
  if !nsMem s.held (n + 2) || !x.exitMet || x.tide % 16 != 0 then .next s
  else
    let s := s.leaveHold (n + 2)
    let s := (upTo 25).foldl (fun s k => s.modCl n k fun c => { c with work := [], busy := false, quarter := 0, words := [] }) s
    let s := s.flipsMissed n (x.tide + 1) (flipsBetween x.holdFrom (x.tide + 1))
    let s := if s.live then
        let p := s.fld (gaugeReg (n + 2)) 0 16 - 0x100
        let s := ((s.zeroMissed n r).decide_ n p false).modDie (n + 2) fun x => { x with lacking := 1 }
        (s.fadeSources n r).pairsBegin n r
      else s
    .next s.settle

/-- The egress slots of a hub that rejoins at the start of block `x.tide / 16`: one keeps its words where its next playout is of a block
written before the HOLD, and the others are free. The last played sample of every output is 0, and the first present block fades in
(02 R77, 04 R141, R144). -/
def State.slotsRejoin (s : State) (h : Nat) : State :=
  let x := s.die h
  let r := x.tide / 16
  let s := (upTo 4).foldl (fun s q =>
    let blk := r - 1 - (r + 3 - q) % 4
    if blk + 2 ≤ x.holdFrom / 16 then s else s.slotFree h q) s
  (s.needed h).foldl (fun s o => s.setOutPlay h o ⟨0, true⟩) { s with outPlay := s.outPlay.filter fun p => p.1 / 16384 != h }

/-- HUB_REJOIN (02 R77): at a block boundary; a cluster writes to it from its next render on. -/
def execHubRejoin (h : Fin 2) (s : State) : Host.Outcome State Fault Refusal :=
  let h := h.val
  let x := s.die h
  if !nsMem s.held h || !x.exitMet || x.tide % 16 != 0 then .next s
  else
    let s := s.leaveHold h
    let s := (upTo 6).foldl (fun s n => s.modDie (n + 2) fun d => if h = 0 then { d with hub0 := true } else { d with hub1 := true }) s
    let s := (s.cls.map (·.1)).foldl (fun s i => s.modCl (i / 25) (i % 25) fun c => { c with hubs := c.hubs.filter (· != h) }) s
    let s := (s.slotsRejoin h).ptpHubBack h
    .next (if s.dieActs s.active then s else s.moveRoles h).settle

/-- HOLD_TIMEOUT (02 R76): a HOLD longer than 50 ms resets the die. -/
def execHoldTimeout (d : Fin 8) (s : State) : Host.Outcome State Fault Refusal := .next (if nsMem s.held d.val then s.dieReset d.val else s)

/-- SUPPLY_RESET_CROSSING (02 R76): the die resets. -/
def execSupplyResetCrossing (d : Fin 8) (s : State) : Host.Outcome State Fault Refusal :=
  .next ((s.modDie d.val fun x => { x with up := false }).dieReset d.val)

/-- SUPPLY_UP (18 R504): the core supply is up; a die fenced meanwhile stays fenced until the device is reset (02 R76). -/
def execSupplyUp (d : Fin 8) (s : State) : Host.Outcome State Fault Refusal := .next (s.modDie d.val fun x => { x with up := true })

end Sys2Proof.Machine
end

