-- ==== Sys2Proof/Machine/Writes.lean ====
section
/-! DEFINITION. Commands whose writes can reach the registers of other units, and the write of a register itself
(00 R10, R11; 01 R31-R35). -/

namespace Sys2Proof.Machine
open Sys2Proof

/-- REGISTER_WRITE (00 R11, 01 R31, R32): an 8-byte write transaction to the word at an address, after self-alias replacement. -/
def execRegisterWrite (b : BusAttr) (a : BitVec 44) (v : Word) (s : State) : Host.Outcome State Fault Refusal :=
  .next (s.attempt fun s =>
    let (r, s) := s.busWrite (busAttrOf b) kWrite (selfAlias b.master.toNat (a.toNat / 8 * 8)) (natLE 8 v.toNat) none
    { s.settle with resp := .bus (r == .ok) [] })

/-- CHECK_COMPLETE (03 R112). -/
def execCheckComplete (d : Fin 6) (k : Fin 25) (s : State) : Host.Outcome State Fault Refusal :=
  .next (s.checkDone d.val (s.clOf d k)).settle

/-- QUARTER_HANDOVER (03 R102). -/
def execQuarterHandover (d : Fin 6) (k : Fin 25) (s : State) : Host.Outcome State Fault Refusal :=
  .next (s.handover d.val (s.clOf d k)).settle

/-- COMMIT: a write of FIRCMD with COMMIT = 1 (04 R122). -/
def execCommit (d : Fin 6) (k : Fin 25) (slot : BitVec 6) (len : BitVec 11) (s : State) :
    Host.Outcome State Fault Refusal :=
  .next (s.firCommit d.val (s.clOf d k) slot.toNat len.toNat).settle

/-- A moving channel moves one burst, using one request unless it is unpaced (11 R350). A burst of class T4 waits while its die
withholds T4 credits (02 R71). -/
def State.burst (s : State) (e c : Nat) : State :=
  let a := chanBase e c
  let x := s.chan e c
  let paced := s.chReqsel e c != 0
  if s.chActs e c && s.chEn e c && x.active && !x.finished && x.record.isNone && reqselOk (engDie e) (s.chReqsel e c) &&
      (!paced || 0 < s.chPend e c) && !(chClass (s.chReqsel e c) == 4 && s.t4Withheld (engDie e)) then
    let s := if paced then s.setFld (a + 0x110) 8 8 (s.chPend e c - 1) else s
    let s := s.moveBurst e c (s.descAt (a + 0x40))
    (s.setChState e c (if paced && s.chPend e c == 0 && !(s.chan e c).finished then 2 else 1)).settle
  else s

/-- DMA_BURST (11 R350). -/
def execDmaBurst (e : Fin 14) (ch : Fin 64) (s : State) : Host.Outcome State Fault Refusal :=
  .next (s.attempt fun s => s.burst e ch)

/-- A surviving pair: its die is not fenced and not both of its cores are retired. -/
def State.pairLives (s : State) (q : Nat) : Bool :=
  !nsMem s.fenced (q / 6 + 2) && !((s.pairOf (q / 6) (q % 6)).retA && (s.pairOf (q / 6) (q % 6)).retB)

/-- A pair that a lost die's source may move to: a surviving one with the most spare budget in the last block counted, and within the
limit (15 R453, 02 R57). -/
def State.moveFits (s : State) (q : Nat) : Bool :=
  let spent (r : Nat) : Nat := (s.pairOf (r / 6) (r % 6)).spent
  s.pairLives q && decide (spent q ≤ s.strmLimit) && (upTo 36).all fun r => !s.pairLives r || decide (spent q ≤ spent r)

/-- SOURCE_MOVE (15 R453): a lost die's source goes to a surviving pair, or fits nowhere. What its programs will take is the runtime's
to know, and the command says whether it fits (assumption 33). -/
def execSourceMove (slot : BitVec 11) (pair : Option (Fin 36)) (s : State) : Host.Outcome State Fault Refusal :=
  let t := slot.toNat
  match s.srcPairOf t with
  | some q =>
    if t < s.nSlots ∧ nsMem s.fenced (q / 6 + 2) then
      match pair with
      | some p =>
        if !s.moveFits p.val then .next s
        else
          let s := { s with srcPair := SMap.set (dflt 0) s.srcPair t (p.val + 1) }
          let x := SMap.get (dflt SrcIn.reset) s.srcIn t
          .next ({ s with srcIn := SMap.set (dflt SrcIn.reset) s.srcIn t { x with fadeIn := true } })
      | none => .next ({ s with srcPair := SMap.set (dflt 0) s.srcPair t 37 }.trouble 49 3)
    else .next s
  | none => .next s

/-- The attributes and the address of a reissued request. -/
def Transaction.to : Transaction → Attr × Nat
  | .read b a | .write b a _ _ _ | .atomic b a _ _ _ _ => (busAttrOf b, selfAlias b.master.toNat a.toNat)

/-- A reissued request as the surviving hub performs it (15 R451): what it had accepted as a forwarded copy is not performed again, and a
reissued atomic then gets the old value that its copy carries. -/
def State.reissue (s : State) (t : Transaction) : State :=
  let done (r : BusRes) (bs : List Byte) (s : State) : State := { s.settle with resp := .bus (r == .ok) bs }
  let (b, a) := Transaction.to t
  match t with
  | .read _ _ => let ((r, bs), s) := s.busRead b kRead a 64; done r bs s
  | .write _ _ n data performed =>
    if performed || n.val = 0 then done .ok [] s
    else let (r, s) := s.busWrite b kWrite a (natLE n.val data.toNat) none; done r [] s
  | .atomic _ _ op wide v old =>
    let n := if wide then 8 else 4
    match old with
    | some w => done .ok (natLE n w.toNat) s
    | none =>
      match s.busRead b kAtomic a n with
      | ((.ok, bs), s) =>
        match amoNew op (8 * n) (leNat bs) (v.toNat % 2 ^ (8 * n)) with
        | some w => let (r, s) := s.busWrite b kAtomic a (natLE n w) none; done r bs s
        | none => done .ok bs s
      | ((r, _), s) => done r [] s

/-- REISSUE (15 R451): a request that the lost hub had outstanding, served by the surviving hub: one to a DRAM address homed at the fenced
hub. A request to any other target of it gets an error response. -/
def execReissue (t : Transaction) (s : State) : Host.Outcome State Fault Refusal :=
  let a := (Transaction.to t).2
  if s.inDram a && nsMem s.fenced (s.shape.home a) then .next (s.attempt fun s => s.reissue t) else .next { s with resp := .bus false [] }

end Sys2Proof.Machine
end

