-- ==== Sys2Proof/Machine/Dispatch.lean ====
section
/-! DEFINITION. One arm per command: its meaning, called by its full name. -/

namespace Sys2Proof.Machine
open Sys2Proof

/-- The effect of a command on everything but the queue. -/
def exec (i : Instr) (s : State) : Host.Outcome State Fault Refusal :=
  match i with
  | .linkBlockSend l up data => Sys2Proof.Machine.execLinkBlockSend l up data s
  | .linkBlockReceive l up seq data crc => Sys2Proof.Machine.execLinkBlockReceive l up seq data crc s
  | .linkBlockAcknowledge l up seq => Sys2Proof.Machine.execLinkBlockAcknowledge l up seq s
  | .linkReplay l up seq => Sys2Proof.Machine.execLinkReplay l up seq s
  | .linkDown l => Sys2Proof.Machine.execLinkDown l s
  | .tideGeneratorTick ptpPos => Sys2Proof.Machine.execTideGeneratorTick ptpPos s
  | .tickMessage d h pos => Sys2Proof.Machine.execTickMessage d h pos s
  | .localTideTick d gauge => Sys2Proof.Machine.execLocalTideTick d gauge s
  | .acquireTimeout => Sys2Proof.Machine.execAcquireTimeout s
  | .lockQualified => Sys2Proof.Machine.execLockQualified s
  | .holdoverEntry => Sys2Proof.Machine.execHoldoverEntry s
  | .quarterHandover d k => Sys2Proof.Machine.execQuarterHandover d k s
  | .renderComplete d k => Sys2Proof.Machine.execRenderComplete d k s
  | .renderHardDeadline d k => Sys2Proof.Machine.execRenderHardDeadline d k s
  | .broadcastWrite d slot blk samples => Sys2Proof.Machine.execBroadcastWrite d slot blk samples s
  | .supplyHoldEntry d => Sys2Proof.Machine.execSupplyHoldEntry d s
  | .holdNotice d => Sys2Proof.Machine.execHoldNotice d s
  | .supplyHoldExitRise d => Sys2Proof.Machine.execSupplyHoldExitRise d s
  | .holdExitCondition d => Sys2Proof.Machine.execHoldExitCondition d s
  | .dieRejoin d => Sys2Proof.Machine.execDieRejoin d s
  | .holdTimeout d => Sys2Proof.Machine.execHoldTimeout d s
  | .supplyResetCrossing d => Sys2Proof.Machine.execSupplyResetCrossing d s
  | .supplyUp d => Sys2Proof.Machine.execSupplyUp d s
  | .hubRejoin h => Sys2Proof.Machine.execHubRejoin h s
  | .mark d k withCancel => Sys2Proof.Machine.execMark d k withCancel s
  | .cancel d k => Sys2Proof.Machine.execCancel d k s
  | .checkComplete d k => Sys2Proof.Machine.execCheckComplete d k s
  | .lstickyClear d k w => Sys2Proof.Machine.execLstickyClear d k w s
  | .commit d k slot len => Sys2Proof.Machine.execCommit d k slot len s
  | .priorityBusChange d bus psrc active duck effBlock => Sys2Proof.Machine.execPriorityBusChange d bus psrc active duck effBlock s
  | .egressWordWrite h blk out w data => Sys2Proof.Machine.execEgressWordWrite h blk out w data s
  | .completionWordWrite h blk cl => Sys2Proof.Machine.execCompletionWordWrite h blk cl s
  | .egressLatch h blk => Sys2Proof.Machine.execEgressLatch h blk s
  | .playoutBlock h blk uncorr => Sys2Proof.Machine.execPlayoutBlock h blk uncorr s
  | .sceneFrameTake dom => Sys2Proof.Machine.execSceneFrameTake dom s
  | .lawShareExpiry d k => Sys2Proof.Machine.execLawShareExpiry d k s
  | .compareSubmit d p coreB slot crc errf out => Sys2Proof.Machine.execCompareSubmit d p coreB slot crc errf out s
  | .compareResolve d p slot => Sys2Proof.Machine.execCompareResolve d p slot s
  | .compareDeadline d p => Sys2Proof.Machine.execCompareDeadline d p s
  | .add c d a b => Sys2Proof.Machine.execAdd c d a b s
  | .sub c d a b => Sys2Proof.Machine.execSub c d a b s
  | .addo c d a b => Sys2Proof.Machine.execAddo c d a b s
  | .subo c d a b => Sys2Proof.Machine.execSubo c d a b s
  | .and c d a b => Sys2Proof.Machine.execAnd c d a b s
  | .or c d a b => Sys2Proof.Machine.execOr c d a b s
  | .xor c d a b => Sys2Proof.Machine.execXor c d a b s
  | .andn c d a b => Sys2Proof.Machine.execAndn c d a b s
  | .sll c d a b => Sys2Proof.Machine.execSll c d a b s
  | .srl c d a b => Sys2Proof.Machine.execSrl c d a b s
  | .sra c d a b => Sys2Proof.Machine.execSra c d a b s
  | .ror c d a b => Sys2Proof.Machine.execRor c d a b s
  | .slt c d a b => Sys2Proof.Machine.execSlt c d a b s
  | .sltu c d a b => Sys2Proof.Machine.execSltu c d a b s
  | .seq c d a b => Sys2Proof.Machine.execSeq c d a b s
  | .min c d a b => Sys2Proof.Machine.execMin c d a b s
  | .max c d a b => Sys2Proof.Machine.execMax c d a b s
  | .minu c d a b => Sys2Proof.Machine.execMinu c d a b s
  | .maxu c d a b => Sys2Proof.Machine.execMaxu c d a b s
  | .clz c d a => Sys2Proof.Machine.execClz c d a s
  | .popc c d a => Sys2Proof.Machine.execPopc c d a s
  | .sats c d a b => Sys2Proof.Machine.execSats c d a b s
  | .cmovnz c d a b => Sys2Proof.Machine.execCmovnz c d a b s
  | .cmovz c d a b => Sys2Proof.Machine.execCmovz c d a b s
  | .slli c d a sh => Sys2Proof.Machine.execSlli c d a sh s
  | .srli c d a sh => Sys2Proof.Machine.execSrli c d a sh s
  | .srai c d a sh => Sys2Proof.Machine.execSrai c d a sh s
  | .rori c d a sh => Sys2Proof.Machine.execRori c d a sh s
  | .extu c d a pos len1 => Sys2Proof.Machine.execExtu c d a pos len1 s
  | .exts c d a pos len1 => Sys2Proof.Machine.execExts c d a pos len1 s
  | .ins c d a pos len1 => Sys2Proof.Machine.execIns c d a pos len1 s
  | .addi c d a imm => Sys2Proof.Machine.execAddi c d a imm s
  | .addio c d a imm => Sys2Proof.Machine.execAddio c d a imm s
  | .andi c d a imm => Sys2Proof.Machine.execAndi c d a imm s
  | .ori c d a imm => Sys2Proof.Machine.execOri c d a imm s
  | .xori c d a imm => Sys2Proof.Machine.execXori c d a imm s
  | .slti c d a imm => Sys2Proof.Machine.execSlti c d a imm s
  | .sltiu c d a imm => Sys2Proof.Machine.execSltiu c d a imm s
  | .movi c d h imm => Sys2Proof.Machine.execMovi c d h imm s
  | .movk c d h imm => Sys2Proof.Machine.execMovk c d h imm s
  | .lb c t m => Sys2Proof.Machine.execLb c t m s
  | .lbu c t m => Sys2Proof.Machine.execLbu c t m s
  | .lh c t m => Sys2Proof.Machine.execLh c t m s
  | .lhu c t m => Sys2Proof.Machine.execLhu c t m s
  | .lw c t m => Sys2Proof.Machine.execLw c t m s
  | .lwu c t m => Sys2Proof.Machine.execLwu c t m s
  | .ld c t m => Sys2Proof.Machine.execLd c t m s
  | .ldt c t m => Sys2Proof.Machine.execLdt c t m s
  | .sb c t m => Sys2Proof.Machine.execSb c t m s
  | .sh c t m => Sys2Proof.Machine.execSh c t m s
  | .sw c t m => Sys2Proof.Machine.execSw c t m s
  | .sd c t m => Sys2Proof.Machine.execSd c t m s
  | .stt c t m => Sys2Proof.Machine.execStt c t m s
  | .stts c t m => Sys2Proof.Machine.execStts c t m s
  | .clc c t ab imm => Sys2Proof.Machine.execClc c t ab imm s
  | .csc c t ab imm => Sys2Proof.Machine.execCsc c t ab imm s
  | .amoswap c d ab b wide => Sys2Proof.Machine.execAmoswap c d ab b wide s
  | .amoadd c d ab b wide => Sys2Proof.Machine.execAmoadd c d ab b wide s
  | .amoand c d ab b wide => Sys2Proof.Machine.execAmoand c d ab b wide s
  | .amoor c d ab b wide => Sys2Proof.Machine.execAmoor c d ab b wide s
  | .cas c d ab b wide => Sys2Proof.Machine.execCas c d ab b wide s
  | .amomax c d ab b wide => Sys2Proof.Machine.execAmomax c d ab b wide s
  | .amomin c d ab b wide => Sys2Proof.Machine.execAmomin c d ab b wide s
  | .ldm c ab w bank mask => Sys2Proof.Machine.execLdm c ab w bank mask s
  | .stm c ab w bank mask => Sys2Proof.Machine.execStm c ab w bank mask s
  | .cmove c ad aa => Sys2Proof.Machine.execCmove c ad aa s
  | .cinc c ad aa b => Sys2Proof.Machine.execCinc c ad aa b s
  | .csetc c ad aa b => Sys2Proof.Machine.execCsetc c ad aa b s
  | .csetb c ad aa b => Sys2Proof.Machine.execCsetb c ad aa b s
  | .csetbx c ad aa b => Sys2Proof.Machine.execCsetbx c ad aa b s
  | .candr c ad aa b => Sys2Proof.Machine.execCandr c ad aa b s
  | .cclrt c ad aa => Sys2Proof.Machine.execCclrt c ad aa s
  | .cseal c ad aa ab => Sys2Proof.Machine.execCseal c ad aa ab s
  | .cunseal c ad aa ab => Sys2Proof.Machine.execCunseal c ad aa ab s
  | .cdom c ad aa b => Sys2Proof.Machine.execCdom c ad aa b s
  | .cgetb c d aa => Sys2Proof.Machine.execCgetb c d aa s
  | .cgetl c d aa => Sys2Proof.Machine.execCgetl c d aa s
  | .cgetc c d aa => Sys2Proof.Machine.execCgetc c d aa s
  | .cgetr c d aa => Sys2Proof.Machine.execCgetr c d aa s
  | .cgeto c d aa => Sys2Proof.Machine.execCgeto c d aa s
  | .cgetd c d aa => Sys2Proof.Machine.execCgetd c d aa s
  | .cgett c d aa => Sys2Proof.Machine.execCgett c d aa s
  | .csub c d aa ab => Sys2Proof.Machine.execCsub c d aa ab s
  | .cgetoff c d aa => Sys2Proof.Machine.execCgetoff c d aa s
  | .cinci c ad aa imm => Sys2Proof.Machine.execCinci c ad aa imm s
  | .cpcc c p imm => Sys2Proof.Machine.execCpcc c p imm s
  | .ccall c p q => Sys2Proof.Machine.execCcall c p q s
  | .ccopy c p q n => Sys2Proof.Machine.execCcopy c p q n s
  | .beq c a b an imm => Sys2Proof.Machine.execBeq c a b an imm s
  | .bne c a b an imm => Sys2Proof.Machine.execBne c a b an imm s
  | .blt c a b an imm => Sys2Proof.Machine.execBlt c a b an imm s
  | .bge c a b an imm => Sys2Proof.Machine.execBge c a b an imm s
  | .bltu c a b an imm => Sys2Proof.Machine.execBltu c a b an imm s
  | .bgeu c a b an imm => Sys2Proof.Machine.execBgeu c a b an imm s
  | .beqz c a an imm => Sys2Proof.Machine.execBeqz c a an imm s
  | .bnez c a an imm => Sys2Proof.Machine.execBnez c a an imm s
  | .bltz c a an imm => Sys2Proof.Machine.execBltz c a an imm s
  | .bgez c a an imm => Sys2Proof.Machine.execBgez c a an imm s
  | .bgtz c a an imm => Sys2Proof.Machine.execBgtz c a an imm s
  | .blez c a an imm => Sys2Proof.Machine.execBlez c a an imm s
  | .j c an imm => Sys2Proof.Machine.execJ c an imm s
  | .jal c an imm => Sys2Proof.Machine.execJal c an imm s
  | .callw c an imm => Sys2Proof.Machine.execCallw c an imm s
  | .jr c ar an => Sys2Proof.Machine.execJr c ar an s
  | .jalr c ar an => Sys2Proof.Machine.execJalr c ar an s
  | .callwr c ar an => Sys2Proof.Machine.execCallwr c ar an s
  | .retw c an => Sys2Proof.Machine.execRetw c an s
  | .mul c d a b => Sys2Proof.Machine.execMul c d a b s
  | .mulh c d a b => Sys2Proof.Machine.execMulh c d a b s
  | .mulhu c d a b => Sys2Proof.Machine.execMulhu c d a b s
  | .mulo c d a b => Sys2Proof.Machine.execMulo c d a b s
  | .mac c k a b m => Sys2Proof.Machine.execMac c k a b m s
  | .msu c k a b m => Sys2Proof.Machine.execMsu c k a b m s
  | .macr c k a b m => Sys2Proof.Machine.execMacr c k a b m s
  | .clrac c k r => Sys2Proof.Machine.execClrac c k r s
  | .mvac c d k sh rm sat => Sys2Proof.Machine.execMvac c d k sh rm sat s
  | .macb c k aa ab n m => Sys2Proof.Machine.execMacb c k aa ab n m s
  | .div c d a b => Sys2Proof.Machine.execDiv c d a b s
  | .divu c d a b => Sys2Proof.Machine.execDivu c d a b s
  | .rem c d a b => Sys2Proof.Machine.execRem c d a b s
  | .remu c d a b => Sys2Proof.Machine.execRemu c d a b s
  | .sqrt c d a => Sys2Proof.Machine.execSqrt c d a s
  | .rcp c d a => Sys2Proof.Machine.execRcp c d a s
  | .norm c d k => Sys2Proof.Machine.execNorm c d k s
  | .longOpComplete c => Sys2Proof.Machine.execLongOpComplete c s
  | .impreciseLongException c => Sys2Proof.Machine.execImpreciseLongException c s
  | .mfs c r num => Sys2Proof.Machine.execMfs c r num s
  | .mts c r num => Sys2Proof.Machine.execMts c r num s
  | .cmfs c r num => Sys2Proof.Machine.execCmfs c r num s
  | .cmts c r num => Sys2Proof.Machine.execCmts c r num s
  | .nop c => Sys2Proof.Machine.execNop c s
  | .fence c => Sys2Proof.Machine.execFence c s
  | .fenceComplete c => Sys2Proof.Machine.execFenceComplete c s
  | .waitl c => Sys2Proof.Machine.execWaitl c s
  | .pflush c => Sys2Proof.Machine.execPflush c s
  | .iflusha c => Sys2Proof.Machine.execIflusha c s
  | .dflusha c => Sys2Proof.Machine.execDflusha c s
  | .dinva c => Sys2Proof.Machine.execDinva c s
  | .retx c => Sys2Proof.Machine.execRetx c s
  | .retf c => Sys2Proof.Machine.execRetf c s
  | .trap c imm => Sys2Proof.Machine.execTrap c imm s
  | .brk c => Sys2Proof.Machine.execBrk c s
  | .wspill c => Sys2Proof.Machine.execWspill c s
  | .wfill c => Sys2Proof.Machine.execWfill c s
  | .binv c => Sys2Proof.Machine.execBinv c s
  | .wfi c => Sys2Proof.Machine.execWfi c s
  | .dflush c aa b => Sys2Proof.Machine.execDflush c aa b s
  | .dinv c aa b => Sys2Proof.Machine.execDinv c aa b s
  | .iflush c aa b => Sys2Proof.Machine.execIflush c aa b s
  | .illegalInstruction c word => Sys2Proof.Machine.execIllegalInstruction c word s
  | .frameDrainComplete c => Sys2Proof.Machine.execFrameDrainComplete c s
  | .normalInterruptEntry c => Sys2Proof.Machine.execNormalInterruptEntry c s
  | .fastInterruptEntry c => Sys2Proof.Machine.execFastInterruptEntry c s
  | .blockWalk w dom va => Sys2Proof.Machine.execBlockWalk w dom va s
  | .dirtyUpdate w dom copy => Sys2Proof.Machine.execDirtyUpdate w dom copy s
  | .gvinfoClear d g => Sys2Proof.Machine.execGvinfoClear d g s
  | .xbinv d doms => Sys2Proof.Machine.execXbinv d doms s
  | .registerWrite b a v => Sys2Proof.Machine.execRegisterWrite b a v s
  | .dramRead b a home partner => Sys2Proof.Machine.execDramRead b a home partner s
  | .dramWrite b a mask data => Sys2Proof.Machine.execDramWrite b a mask data s
  | .patrolScrubWord h m own partner => Sys2Proof.Machine.execPatrolScrubWord h m own partner s
  | .channelFail h m => Sys2Proof.Machine.execChannelFail h m s
  | .initSweepChunk => Sys2Proof.Machine.execInitSweepChunk s
  | .produce dom q v => Sys2Proof.Machine.execProduce dom q v s
  | .consume dom q v => Sys2Proof.Machine.execConsume dom q v s
  | .arm dom q v => Sys2Proof.Machine.execArm dom q v s
  | .doorbellReservedOp dom q v => Sys2Proof.Machine.execDoorbellReservedOp dom q v s
  | .deferredNoticePost dom q => Sys2Proof.Machine.execDeferredNoticePost dom q s
  | .enable h dom q => Sys2Proof.Machine.execEnable h dom q s
  | .disable h dom q => Sys2Proof.Machine.execDisable h dom q s
  | .linkEntryMove dom q => Sys2Proof.Machine.execLinkEntryMove dom q s
  | .channelEnable e ch w => Sys2Proof.Machine.execChannelEnable e ch w s
  | .channelDisable e ch => Sys2Proof.Machine.execChannelDisable e ch s
  | .start e ch => Sys2Proof.Machine.execStart e ch s
  | .req e ch => Sys2Proof.Machine.execReq e ch s
  | .dmaShadowFill e ch => Sys2Proof.Machine.execDmaShadowFill e ch s
  | .dmaShadowToActive e ch => Sys2Proof.Machine.execDmaShadowToActive e ch s
  | .dmaRequest e ch => Sys2Proof.Machine.execDmaRequest e ch s
  | .dmaBurst e ch => Sys2Proof.Machine.execDmaBurst e ch s
  | .dmaDescriptorComplete e ch => Sys2Proof.Machine.execDmaDescriptorComplete e ch s
  | .cqwaitRelease e ch => Sys2Proof.Machine.execCqwaitRelease e ch s
  | .frameReceive p f => Sys2Proof.Machine.execFrameReceive p f s
  | .audioPacketReceive p k => Sys2Proof.Machine.execAudioPacketReceive p k s
  | .forwardedPacket h p k => Sys2Proof.Machine.execForwardedPacket h p k s
  | .ingressStreamEnable h n => Sys2Proof.Machine.execIngressStreamEnable h n s
  | .egressStreamEnable h e => Sys2Proof.Machine.execEgressStreamEnable h e s
  | .egressPacketSend p e q => Sys2Proof.Machine.execEgressPacketSend p e q s
  | .egressPacketDrop p e q => Sys2Proof.Machine.execEgressPacketDrop p e q s
  | .portLinkDown p => Sys2Proof.Machine.execPortLinkDown p s
  | .ptpEventMessage p k => Sys2Proof.Machine.execPtpEventMessage p k s
  | .ptpAnnounceTimeout p other => Sys2Proof.Machine.execPtpAnnounceTimeout p other s
  | .ppsInputEdge h sec ns => Sys2Proof.Machine.execPpsInputEdge h sec ns s
  | .cxlLinkTrain h width speed protocols mld => Sys2Proof.Machine.execCxlLinkTrain h width speed protocols mld s
  | .getLdInfo => Sys2Proof.Machine.execGetLdInfo s
  | .getLdAllocations => Sys2Proof.Machine.execGetLdAllocations s
  | .setLdAllocations first range1 range2 => Sys2Proof.Machine.execSetLdAllocations first range1 range2 s
  | .getQosControl => Sys2Proof.Machine.execGetQosControl s
  | .setQosControl v => Sys2Proof.Machine.execSetQosControl v s
  | .getQosStatus => Sys2Proof.Machine.execGetQosStatus s
  | .getQosAllocatedBw => Sys2Proof.Machine.execGetQosAllocatedBw s
  | .setQosAllocatedBw first v => Sys2Proof.Machine.execSetQosAllocatedBw first v s
  | .getQosBwLimit => Sys2Proof.Machine.execGetQosBwLimit s
  | .setQosBwLimit first v => Sys2Proof.Machine.execSetQosBwLimit first v s
  | .unsupportedOpcode ld op => Sys2Proof.Machine.execUnsupportedOpcode ld op s
  | .hdmDecoderCommit k n dec => Sys2Proof.Machine.execHdmDecoderCommit k n dec s
  | .hdmDecoderUncommit k n => Sys2Proof.Machine.execHdmDecoderUncommit k n s
  | .memRd h k hpa => Sys2Proof.Machine.execMemRd h k hpa s
  | .memRdData h k hpa => Sys2Proof.Machine.execMemRdData h k hpa s
  | .memSpecRd h k hpa => Sys2Proof.Machine.execMemSpecRd h k hpa s
  | .memInv h k hpa => Sys2Proof.Machine.execMemInv h k hpa s
  | .memInvNt h k hpa => Sys2Proof.Machine.execMemInvNt h k hpa s
  | .memWr h k hpa data poison => Sys2Proof.Machine.execMemWr h k hpa data poison s
  | .memWrPtl h k hpa mask data poison => Sys2Proof.Machine.execMemWrPtl h k hpa mask data poison s
  | .identifyMemoryDevice k => Sys2Proof.Machine.execIdentifyMemoryDevice k s
  | .getHealthInfo k => Sys2Proof.Machine.execGetHealthInfo k s
  | .getEventRecords k log => Sys2Proof.Machine.execGetEventRecords k log s
  | .clearEventRecords k log all handles => Sys2Proof.Machine.execClearEventRecords k log all handles s
  | .getEventInterruptPolicy k => Sys2Proof.Machine.execGetEventInterruptPolicy k s
  | .setEventInterruptPolicy k pol => Sys2Proof.Machine.execSetEventInterruptPolicy k pol s
  | .getPoisonList k => Sys2Proof.Machine.execGetPoisonList k s
  | .getDeviceInfo k => Sys2Proof.Machine.execGetDeviceInfo k s
  | .dictionaryRead ld index sub off => Sys2Proof.Machine.execDictionaryRead ld index sub off s
  | .dictionaryWrite ld index sub last off data => Sys2Proof.Machine.execDictionaryWrite ld index sub last off data s
  | .imageLoad ld off last data => Sys2Proof.Machine.execImageLoad ld off last data s
  | .attest ld nonce off => Sys2Proof.Machine.execAttest ld nonce off s
  | .cxlHotReset h => Sys2Proof.Machine.execCxlHotReset h s
  | .functionLevelReset k => Sys2Proof.Machine.execFunctionLevelReset k s
  | .cdatTableAccess k handle => Sys2Proof.Machine.execCdatTableAccess k handle s
  | .doeDiscovery k ix => Sys2Proof.Machine.execDoeDiscovery k ix s
  | .globalPersistentFlush k phase => Sys2Proof.Machine.execGlobalPersistentFlush k phase s
  | .ngpRead p k => Sys2Proof.Machine.execNgpRead p k s
  | .ngpWrite p k => Sys2Proof.Machine.execNgpWrite p k s
  | .ngpImage p k => Sys2Proof.Machine.execNgpImage p k s
  | .ngpInfo p k => Sys2Proof.Machine.execNgpInfo p k s
  | .sdoUpload frame => Sys2Proof.Machine.execSdoUpload frame s
  | .sdoDownload frame => Sys2Proof.Machine.execSdoDownload frame s
  | .sdoSegment frame => Sys2Proof.Machine.execSdoSegment frame s
  | .sdoInvalidCommand frame => Sys2Proof.Machine.execSdoInvalidCommand frame s
  | .nmtCommand frame => Sys2Proof.Machine.execNmtCommand frame s
  | .heartbeat => Sys2Proof.Machine.execHeartbeat s
  | .initFrame frame => Sys2Proof.Machine.execInitFrame frame s
  | .dataFrame frame => Sys2Proof.Machine.execDataFrame frame s
  | .ackFrame frame => Sys2Proof.Machine.execAckFrame frame s
  | .endFrame frame => Sys2Proof.Machine.execEndFrame frame s
  | .abortFrame frame => Sys2Proof.Machine.execAbortFrame frame s
  | .transferTimeout p => Sys2Proof.Machine.execTransferTimeout p s
  | .command p v => Sys2Proof.Machine.execCommand p v s
  | .runEntry => Sys2Proof.Machine.execRunEntry s
  | .rate p v => Sys2Proof.Machine.execRate p v s
  | .batch p dom v => Sys2Proof.Machine.execBatch p dom v s
  | .nonce => Sys2Proof.Machine.execNonce s
  | .auth key sig => Sys2Proof.Machine.execAuth key sig s
  | .close v => Sys2Proof.Machine.execClose v s
  | .sessionTimeout => Sys2Proof.Machine.execSessionTimeout s
  | .authLockoutExpiry => Sys2Proof.Machine.execAuthLockoutExpiry s
  | .trust p hashes => Sys2Proof.Machine.execTrust p hashes s
  | .factoryok p v => Sys2Proof.Machine.execFactoryok p v s
  | .trouble p g v => Sys2Proof.Machine.execTrouble p g v s
  | .program p dom n r => Sys2Proof.Machine.execProgram p dom n r s
  | .stage p off last data => Sys2Proof.Machine.execStage p off last data s
  | .lcadvance p v => Sys2Proof.Machine.execLcadvance p v s
  | .ownerkey p n v => Sys2Proof.Machine.execOwnerkey p n v s
  | .revoke p v => Sys2Proof.Machine.execRevoke p v s
  | .svnfloor p v => Sys2Proof.Machine.execSvnfloor p v s
  | .updcmdStart p => Sys2Proof.Machine.execUpdcmdStart p s
  | .updcmdStop p => Sys2Proof.Machine.execUpdcmdStop p s
  | .hubRoleSwap => Sys2Proof.Machine.execHubRoleSwap s
  | .updateUnitComplete => Sys2Proof.Machine.execUpdateUnitComplete s
  | .clusterFault d k f => Sys2Proof.Machine.execClusterFault d k f s
  | .eclipseLoadComplete d => Sys2Proof.Machine.execEclipseLoadComplete d s
  | .eclipse d k => Sys2Proof.Machine.execEclipse d k s
  | .release d => Sys2Proof.Machine.execRelease d s
  | .plannedEclipseTakeEffect d => Sys2Proof.Machine.execPlannedEclipseTakeEffect d s
  | .releaseTakeEffect d => Sys2Proof.Machine.execReleaseTakeEffect d s
  | .auditCrc d crc => Sys2Proof.Machine.execAuditCrc d crc s
  | .auditRerunComplete d agrees => Sys2Proof.Machine.execAuditRerunComplete d agrees s
  | .handshakeWatchdogExpiry u => Sys2Proof.Machine.execHandshakeWatchdogExpiry u s
  | .hubFence h => Sys2Proof.Machine.execHubFence h s
  | .hubPathLoss h => Sys2Proof.Machine.execHubPathLoss h s
  | .reissue t => Sys2Proof.Machine.execReissue t s
  | .dieFence d => Sys2Proof.Machine.execDieFence d s
  | .sourceMove slot pair => Sys2Proof.Machine.execSourceMove slot pair s
  | .mirrorArrayLoss d a => Sys2Proof.Machine.execMirrorArrayLoss d a s
  | .troubleSet => Sys2Proof.Machine.execTroubleSet s
  | .trbitsClear g v => Sys2Proof.Machine.execTrbitsClear g v s
  | .powerGood st => Sys2Proof.Machine.execPowerGood st s
  | .porstReset us => Sys2Proof.Machine.execPorstReset us s
  | .bootComplete r => Sys2Proof.Machine.execBootComplete r s
  | .imageVerifyComplete => Sys2Proof.Machine.execImageVerifyComplete s
  | .configEntry => Sys2Proof.Machine.execConfigEntry s
  | .thermalTrip d temp => Sys2Proof.Machine.execThermalTrip d temp s
  | .otherSupplyOutOfRange x => Sys2Proof.Machine.execOtherSupplyOutOfRange x s
  | .snap periodic => Sys2Proof.Machine.execSnap periodic s
  | .snapshotComplete => Sys2Proof.Machine.execSnapshotComplete s
  | .sampleCountdownExpiry c => Sys2Proof.Machine.execSampleCountdownExpiry c s
  | .seed c v => Sys2Proof.Machine.execSeed c v s
  | .tapReset => Sys2Proof.Machine.execTapReset s
  | .extest bits => Sys2Proof.Machine.execExtest bits s
  | .samplePreload bits => Sys2Proof.Machine.execSamplePreload bits s
  | .idcode => Sys2Proof.Machine.execIdcode s
  | .clamp => Sys2Proof.Machine.execClamp s
  | .highz => Sys2Proof.Machine.execHighz s
  | .dbgctl v => Sys2Proof.Machine.execDbgctl v s
  | .dbgacc a write data => Sys2Proof.Machine.execDbgacc a write data s
  | .debugAccessTimeout => Sys2Proof.Machine.execDebugAccessTimeout s
  | .dbgstat => Sys2Proof.Machine.execDbgstat s
  | .chal => Sys2Proof.Machine.execChal s
  | .unlock key sig => Sys2Proof.Machine.execUnlock key sig s
  | .bypass => Sys2Proof.Machine.execBypass s
  | .supplyExitThresholdFall d => Sys2Proof.Machine.execSupplyExitThresholdFall d s
  | .hubHoldNotice h => Sys2Proof.Machine.execHubHoldNotice h s
  | .portLinkUp p speed10 fec => Sys2Proof.Machine.execPortLinkUp p speed10 fec s
  | .cxlLinkDown h => Sys2Proof.Machine.execCxlLinkDown h s
  | .configurationRequest h k write reg v => Sys2Proof.Machine.execConfigurationRequest h k write reg v s
  | .nonceExpiry => Sys2Proof.Machine.execNonceExpiry s
  | .unlockLockoutExpiry => Sys2Proof.Machine.execUnlockLockoutExpiry s
  | .canBusError h tec rec => Sys2Proof.Machine.execCanBusError h tec rec s
  | .busOffRecovery h => Sys2Proof.Machine.execBusOffRecovery h s
  | .homeTakeoverComplete => Sys2Proof.Machine.execHomeTakeoverComplete s
  | .phyOrCommandParityFault h m clears => Sys2Proof.Machine.execPhyOrCommandParityFault h m clears s

end Sys2Proof.Machine
end

