-- ==== Sys2Proof/Machine/Step.lean ====
section
/-! DEFINITION. One step takes the command at the front of the queue and runs it with the queue's rest; with an empty
queue the block idles (assumption 13). -/

namespace Sys2Proof.Machine
open Sys2Proof

/-- One step of the block. -/
def step (s : State) : Host.Outcome State Fault Refusal :=
  match s.pending with
  | [] => .next s
  | c :: rest => exec c { s with pending := rest }

/-- A command put at the front of the queue; `s` unchanged where the word spells none (spec/opcode_table.json gives no row
any bits, so none does; assumption 14). -/
def State.withFetchWord (s : State) (nbits w : Nat) : State :=
  match decodeTableWord nbits w with
  | some c => { s with pending := c :: s.pending }
  | none => s

end Sys2Proof.Machine
end

