-- ==== Sys2Proof/Safety.lean ====
section
/-! DEFINITION. What the claims speak of: the invariant that every step keeps, what a core instruction leaves unchanged, and
the results that chapter 07's tables give each instruction, written apart from the meanings. -/

namespace Sys2Proof.Machine
open Sys2Proof

/-! ### The invariant -/

/-- Memory, its tags, its poisoned words and the register and counter stores are in their canonical forms, and the device state,
like the state that HOLD returns to, is one of the six of 14 Table 14-4. -/
def State.Inv (s : State) : Prop :=
  Memory.wf s.mem = true ∧ nsWf s.tags = true ∧ nsWf s.poison = true ∧ SMap.wf regReset s.regs = true ∧
    SMap.wf regReset s.ctrs = true ∧ s.dev ≤ 5 ∧ s.devBack ≤ 5

/-- A step that ends safely: the machine goes on. -/
def State.StepsOn (s : State) : Prop := ∃ t, step s = .next t

/-! ### Frames -/

/-- Every byte of memory, every tag and every poisoned word is as before. -/
def SameMemory (s t : State) : Prop :=
  (∀ a, memRead t.mem a = memRead s.mem a) ∧ t.tags = s.tags ∧ t.poison = s.poison

/-- Every byte of memory outside [a, a + n) is as before. -/
def SameMemoryOutside (s t : State) (a n : Nat) : Prop :=
  ∀ b, b < a ∨ a + n ≤ b → memRead t.mem b = memRead s.mem b

/-- Every core but `c` is as before. -/
def SameOtherCores (c : Nat) (s t : State) : Prop := ∀ e, e ≠ c → t.core e = s.core e

/-- Every core is as before. -/
def SameCores (s t : State) : Prop := t.cores = s.cores

/-- Every memory-mapped register but those at the listed addresses is as before. -/
def SameRegsBut (as : List Nat) (s t : State) : Prop := ∀ a, a ∉ as → t.rg a = s.rg a

/-- Nothing but the last answer and the free-value counter changed. -/
def OnlyAnswered (s t : State) : Prop := t = { s with resp := t.resp, fresh := t.fresh }

/-- A mailbox command of logical device `k` ended with a return code and payload: beside the answer, nothing but `k`'s vector 0,
the free-value counter and the meters of CXL.io payload changed (13 R403, R406, 17 R486). -/
def Mailed (k code : Nat) (bs : List Byte) (s t : State) : Prop :=
  t.resp = .mailbox code bs ∧ { t with resp := s.resp, lds := s.lds, fresh := s.fresh, ctrs := s.ctrs } = s ∧ (∀ j, j ≠ k → t.ld j = s.ld j) ∧
    t.ld k = { s.ld k with msixPend := (t.ld k).msixPend, msixSent := (t.ld k).msixSent, msixMsg := (t.ld k).msixMsg } ∧ (k = 15 → t.ld k = s.ld k)

/-- A write of `n` bytes at `a` lands in memory: its target takes it, and none of its words is poisoned (01 R17, 09 R304, 10 R321). -/
def State.Lands (s : State) (b : Attr) (a n : Nat) : Prop :=
  (s.reaches b kWrite a).1 = .ok ∧ isRegPlace (s.loc a) = false ∧ (∀ h off, s.loc a ≠ .egress h off) ∧
    (s.inDram a = true → s.dramDown a = false) ∧ ∀ w ∈ wordsOf a n, w ∉ s.poison

/-- The target gate of a transaction, and everything on its way, lets it through (01 R32, 09 R304). -/
def State.Admits (s : State) (b : Attr) (kind a : Nat) : Prop := (s.reaches b kind a).1 = .ok

/-- Core `c` has identity translation for domain `dom` (09 R287). -/
def State.Direct (s : State) (c dom : Nat) : Prop := dom = 0 ∧ getBits (s.dtb (coreDie c) 0) 63 1 = 0

/-- The physical address that core `c` gives a virtual one under identity translation (01 R31, 09 R287). -/
def directAddr (c va : Nat) : Nat := selfAlias (coreMid c) va

/-- Two ranges of bytes do not overlap. -/
def Apart (a n b m : Nat) : Prop := a + n ≤ b ∨ b + m ≤ a

/-! ### Core instructions -/

/-- The device as core `c` starts an instruction: what ends a wait of the core has come. -/
def State.begun (s : State) (c : Nat) : State :=
  { s with stalled := false }.modCore c fun x => { x with waiting := false, cut := false }

/-- Core `c` issues an instruction now, no imprecise event is taken before it, and its fetch succeeds and meets no die in HOLD: `s1` is
the device after the fetch and `ic` says where the instruction came from (06 R207, R214, 08 R280, 02 R73). -/
def State.Fetches (s : State) (c ic : Nat) (s1 : State) : Prop :=
  s.issues c = true ∧ ((s.core c).imprecise = [] ∨ (s.core c).delay ≠ none) ∧
    (s.begun c).fetch c = ((none, ic), s1) ∧ s1.stalled = false

/-- What an instruction of core `c` fetched from `ic` leaves when its own work succeeded in `r`, with the device then in `st`: it retires
with `f`, and what its register writes started is done. Where an access met a die in HOLD the core waits and nothing has changed
(02 R73). -/
def State.completed (s : State) (c ic : Nat) (r : Run) (st : State) (f : Flow) : State :=
  let t := (st.retire c ((s.begun c).core c) f ic r.dc r.src r.waited).settle
  if t.stalled then s else t

/-- What it leaves when it raises an exception before any access, with the device in `s1`: the entry, and for a program of the runtime
its return or its fault (06 R199, 05 R161, R162). -/
def State.raised (s s1 : State) (c ic cause eval : Nat) : State :=
  let x := (s.begun c).core c
  let t := (State.returns c x cause eval (s1.raiseAt c x cause eval false ic 0 0 false)).settle
  if t.stalled then s else t

/-- No write stands in a shadow and no long operation is in flight. -/
def CoreS.Quiet (x : CoreS) : Prop := x.shadows = [] ∧ x.longq = []

/-- The own work of an instruction of core `c` is done: no register write waits to be performed, no access met a die in HOLD, and the core
is quiet. -/
def State.Ready (s : State) (c : Nat) : Prop := s.posted = [] ∧ s.stalled = false ∧ (s.core c).Quiet

/-- Core `x` can take an exception to level `l` at an instruction boundary: it is quiet, its frame buffer and its save area are free for
the entry, and it is at no delay slot (06 R209-R211). -/
def CoreS.CanEnter (x : CoreS) (l : Nat) : Prop :=
  x.Quiet ∧ x.frame = none ∧ x.fb = false ∧ x.delay = none ∧ (if l = 2 then x.mxsaLatch else x.xsaLatch).valid = true

/-- A D register by its physical number. -/
def CoreS.dAt (x : CoreS) (p : Nat) : Word := SMap.get (dflt 0) x.d p

/-- An A register by its physical number. -/
def CoreS.aAt (x : CoreS) (p : Nat) : Cap := SMap.get aReset x.a p

/-- PCC after an instruction that is no branch: the next word, or the target of the branch whose delay slot it is (06 R198). -/
def CoreS.nextPcc (x : CoreS) : Cap := match x.delay with | some d => d.cont | none => x.pcc.adv 4

/-- PSTAT after it: only the window move of that branch changes it (06 R194). -/
def CoreS.nextPstat (x : CoreS) : Word := match x.delay with | some d => (x.winMove d.move).sysReg 0 | none => x.sysReg 0

/-- Control moves on by one instruction. -/
def MovesOn (x y : CoreS) : Prop := y.pcc = x.nextPcc ∧ y.delay = none ∧ y.sysReg 0 = x.nextPstat

/-- The system registers other than PSTAT (0) and the step counter (1) and the capability system registers are as before. -/
def SameSys (x y : CoreS) : Prop := (∀ n, n ≠ 0 → n ≠ 1 → y.sysReg n = x.sysReg n) ∧ y.csys = x.csys

/-- D registers as before, A registers as before, accumulators as before. -/
def SameD (x y : CoreS) : Prop := ∀ p, y.dAt p = x.dAt p
def SameA (x y : CoreS) : Prop := ∀ p, y.aAt p = x.aAt p
def SameAcc (x y : CoreS) : Prop := y.acc = x.acc ∧ y.accView = x.accView

/-- An instruction of core `c` wrote D[d] at once and nothing else. -/
def WroteD (c : Nat) (d : BitVec 5) (v : Word) (s t : State) : Prop :=
  (t.core c).dAt ((s.core c).physD d.toNat) = v ∧
  (∀ p, p ≠ (s.core c).physD d.toNat → (t.core c).dAt p = (s.core c).dAt p) ∧
  SameA (s.core c) (t.core c) ∧ SameAcc (s.core c) (t.core c) ∧ SameSys (s.core c) (t.core c) ∧
  MovesOn (s.core c) (t.core c) ∧ (t.core c).shadows = [] ∧ SameMemory s t ∧ SameOtherCores c s t

/-- An instruction of core `c` left a write of D[d] in a shadow of `lat` instructions and changed nothing else. -/
def PostedD (c : Nat) (d : BitVec 5) (v : Word) (lat : Nat) (s t : State) : Prop :=
  (t.core c).shadows = [⟨.d ((s.core c).physD d.toNat), v.setWidth 128, false, lat⟩] ∧
  SameD (s.core c) (t.core c) ∧ SameA (s.core c) (t.core c) ∧ SameAcc (s.core c) (t.core c) ∧
  SameSys (s.core c) (t.core c) ∧ MovesOn (s.core c) (t.core c)

/-- An instruction of core `c` wrote A[a] at once and nothing else. -/
def WroteA (c : Nat) (a : BitVec 4) (v : Cap) (s t : State) : Prop :=
  (t.core c).aAt ((s.core c).physA a.toNat) = v ∧
  (∀ p, p ≠ (s.core c).physA a.toNat → (t.core c).aAt p = (s.core c).aAt p) ∧
  SameD (s.core c) (t.core c) ∧ SameAcc (s.core c) (t.core c) ∧ SameSys (s.core c) (t.core c) ∧
  MovesOn (s.core c) (t.core c) ∧ (t.core c).shadows = [] ∧ SameMemory s t ∧ SameOtherCores c s t

/-- An instruction of core `c` left a write of A[a] in a shadow of `lat` instructions and changed nothing else. -/
def PostedA (c : Nat) (a : BitVec 4) (v : Cap) (lat : Nat) (s t : State) : Prop :=
  (t.core c).shadows = [⟨.a ((s.core c).physA a.toNat), v.bits, v.tag, lat⟩] ∧
  SameD (s.core c) (t.core c) ∧ SameA (s.core c) (t.core c) ∧ SameAcc (s.core c) (t.core c) ∧
  SameSys (s.core c) (t.core c) ∧ MovesOn (s.core c) (t.core c)

/-- An instruction of core `c` changed no register, no memory and no other core: control moves on. -/
def OnlyMovedOn (c : Nat) (s t : State) : Prop :=
  SameD (s.core c) (t.core c) ∧ SameA (s.core c) (t.core c) ∧ SameAcc (s.core c) (t.core c) ∧
  SameSys (s.core c) (t.core c) ∧ MovesOn (s.core c) (t.core c) ∧ SameMemory s t ∧ SameOtherCores c s t

/-- Every byte of memory and every poisoned word is as before, and no tag has come: a fetch on the wrong path may find a word of the tag
region lost (06 R201, 08 R277). -/
def KeptBytes (s t : State) : Prop :=
  (∀ a, memRead t.mem a = memRead s.mem a) ∧ t.poison = s.poison ∧ ∀ g, nsMem t.tags g = true → nsMem s.tags g = true

/-- A branch of core `c`: the word after it is next, as a delay slot, and `d` says where control goes after that. -/
def Branched (c : Nat) (d : Delay) (s t : State) : Prop :=
  (t.core c).pcc = (s.core c).pcc.adv 4 ∧ (t.core c).delay = some d ∧ (t.core c).sysReg 0 = (s.core c).sysReg 0 ∧
  SameD (s.core c) (t.core c) ∧ SameAcc (s.core c) (t.core c) ∧ SameSys (s.core c) (t.core c) ∧ KeptBytes s t ∧
  SameOtherCores c s t

/-- An exception or interrupt entry of core `c` to level `l` at an instruction boundary: the resume point, PSTAT, the cause and EVAL are
saved, LVL is `l` and IE 0, A0 is the save area, the frame is in the buffer and PCC at the vector (06 R208, R221, Table 6-9). -/
def Entered (c l cause eval : Nat) (s t : State) : Prop :=
  let b := if l = 2 then 0x200 else 0x100
  let x := s.core c
  let y := t.core c
  y.capSys b = x.pcc ∧ y.sysReg (b + 1) = x.sysReg 0 ∧ y.sysReg (b + 2) = BitVec.ofNat 64 cause ∧
  y.sysReg (b + 3) = BitVec.ofNat 64 eval ∧ y.pcc = x.capSys (b + 6) ∧ y.lvl = l ∧ y.ie = false ∧ y.aAt 0 = x.capSys (b + 5) ∧
  (∀ p, p ≠ 0 → y.aAt p = x.aAt p) ∧ y.frame.isSome = true ∧ y.delay = none ∧ SameD x y ∧ SameAcc x y ∧ SameMemory s t

/-- An instruction of core `c` left writes in shadows and changed no other register. -/
def PostedAll (c : Nat) (ws : List Shadow) (s t : State) : Prop :=
  (t.core c).shadows = ws ∧ SameD (s.core c) (t.core c) ∧ SameA (s.core c) (t.core c) ∧ SameAcc (s.core c) (t.core c) ∧
  SameSys (s.core c) (t.core c) ∧ MovesOn (s.core c) (t.core c) ∧ SameMemory s t ∧ SameOtherCores c s t

/-- One or zero. -/
def truth (b : Bool) : Word := if b then 1 else 0

/-- The D result of the instructions that write D[d] at once, by 07 Tables 7-3, 7-4 and 7-7: core, destination, value. -/
def dResult (x : CoreS) : Instr → Option (Fin 230 × BitVec 5 × Word)
  | .add c d a b => some (c, d, x.rd a + x.rd b)
  | .sub c d a b => some (c, d, x.rd a - x.rd b)
  | .and c d a b => some (c, d, x.rd a &&& x.rd b)
  | .or c d a b => some (c, d, x.rd a ||| x.rd b)
  | .xor c d a b => some (c, d, x.rd a ^^^ x.rd b)
  | .andn c d a b => some (c, d, x.rd a &&& ~~~(x.rd b))
  | .sll c d a b => some (c, d, x.rd a <<< ((x.rd b).toNat % 64))
  | .srl c d a b => some (c, d, x.rd a >>> ((x.rd b).toNat % 64))
  | .sra c d a b => some (c, d, BitVec.ofInt 64 ((x.rd a).toInt / (2 : Int) ^ ((x.rd b).toNat % 64)))
  | .ror c d a b =>
    let n := (x.rd b).toNat % 64
    some (c, d, (x.rd a >>> n) ||| (x.rd a <<< (64 - n)))
  | .slt c d a b => some (c, d, truth (BitVec.slt (x.rd a) (x.rd b)))
  | .sltu c d a b => some (c, d, truth (BitVec.ult (x.rd a) (x.rd b)))
  | .seq c d a b => some (c, d, truth (decide (x.rd a = x.rd b)))
  | .min c d a b => some (c, d, BitVec.ofInt 64 (min (x.rd a).toInt (x.rd b).toInt))
  | .max c d a b => some (c, d, BitVec.ofInt 64 (max (x.rd a).toInt (x.rd b).toInt))
  | .minu c d a b => some (c, d, BitVec.ofNat 64 (min (x.rd a).toNat (x.rd b).toNat))
  | .maxu c d a b => some (c, d, BitVec.ofNat 64 (max (x.rd a).toNat (x.rd b).toNat))
  | .clz c d a => some (c, d, BitVec.ofNat 64 (if x.rd a = 0 then 64 else 63 - Nat.log2 (x.rd a).toNat))
  | .popc c d a => some (c, d, BitVec.ofNat 64 ((List.range 64).countP fun i => (x.rd a).getLsbD i))
  | .sats c d a b =>
    let n := (x.rd b).toNat % 64
    some (c, d, BitVec.ofInt 64 (max (-(2 : Int) ^ n) (min ((2 : Int) ^ n - 1) (x.rd a).toInt)))
  | .cmovnz c d a b => some (c, d, if x.rd b ≠ 0 then x.rd a else x.rd d)
  | .cmovz c d a b => some (c, d, if x.rd b = 0 then x.rd a else x.rd d)
  | .slli c d a sh => some (c, d, x.rd a <<< sh.toNat)
  | .srli c d a sh => some (c, d, x.rd a >>> sh.toNat)
  | .srai c d a sh => some (c, d, BitVec.ofInt 64 ((x.rd a).toInt / (2 : Int) ^ sh.toNat))
  | .rori c d a sh => some (c, d, (x.rd a >>> sh.toNat) ||| (x.rd a <<< (64 - sh.toNat)))
  | .addi c d a imm => some (c, d, x.rd a + imm.signExtend 64)
  | .andi c d a imm => some (c, d, x.rd a &&& imm.setWidth 64)
  | .ori c d a imm => some (c, d, x.rd a ||| imm.setWidth 64)
  | .xori c d a imm => some (c, d, x.rd a ^^^ imm.setWidth 64)
  | .slti c d a imm => some (c, d, truth (BitVec.slt (x.rd a) (imm.signExtend 64)))
  | .sltiu c d a imm => some (c, d, truth (BitVec.ult (x.rd a) (imm.signExtend 64)))
  | .movi c d h imm => some (c, d, BitVec.ofNat 64 (imm.toNat * 2 ^ (16 * h.toNat)))
  | .movk c d h imm =>
    let m : Word := BitVec.ofNat 64 (0xFFFF * 2 ^ (16 * h.toNat))
    some (c, d, (x.rd d &&& ~~~m) ||| BitVec.ofNat 64 (imm.toNat * 2 ^ (16 * h.toNat)))
  | .cgetb c d a => some (c, d, BitVec.ofNat 64 (x.ra a).base)
  | .cgetl c d a => some (c, d, BitVec.ofNat 64 (x.ra a).len)
  | .cgetc c d a => some (c, d, BitVec.ofNat 64 (x.ra a).cur)
  | .cgetr c d a => some (c, d, BitVec.ofNat 64 (x.ra a).rights)
  | .cgeto c d a => some (c, d, BitVec.ofNat 64 (x.ra a).otype)
  | .cgetd c d a => some (c, d, BitVec.ofNat 64 (x.ra a).dom)
  | .cgett c d a => some (c, d, truth (x.ra a).tag)
  | .csub c d a b => some (c, d, BitVec.ofNat 64 (x.ra a).cur - BitVec.ofNat 64 (x.ra b).cur)
  | .cgetoff c d a => some (c, d, BitVec.ofNat 64 (x.ra a).cur - BitVec.ofNat 64 (x.ra a).base)
  -- those that overflow or pass bit 63 on some operands write only where they do not
  | .addo c d a b =>
    let r := (x.rd a).toInt + (x.rd b).toInt
    if -(2 : Int) ^ 63 ≤ r ∧ r < (2 : Int) ^ 63 then some (c, d, BitVec.ofInt 64 r) else none
  | .subo c d a b =>
    let r := (x.rd a).toInt - (x.rd b).toInt
    if -(2 : Int) ^ 63 ≤ r ∧ r < (2 : Int) ^ 63 then some (c, d, BitVec.ofInt 64 r) else none
  | .addio c d a imm =>
    let r := (x.rd a).toInt + imm.toInt
    if -(2 : Int) ^ 63 ≤ r ∧ r < (2 : Int) ^ 63 then some (c, d, BitVec.ofInt 64 r) else none
  | .extu c d a pos len1 =>
    if pos.toNat + len1.toNat < 64 then some (c, d, (x.rd a >>> pos.toNat) &&& BitVec.ofNat 64 (2 ^ (len1.toNat + 1) - 1)) else none
  | .exts c d a pos len1 =>
    if pos.toNat + len1.toNat < 64 then
      some (c, d, ((x.rd a) <<< (63 - pos.toNat - len1.toNat)).sshiftRight (63 - len1.toNat)) else none
  | .ins c d a pos len1 =>
    if pos.toNat + len1.toNat < 64 then
      let m : Word := BitVec.ofNat 64 (2 ^ (len1.toNat + 1) - 1)
      some (c, d, (x.rd d &&& ~~~(m <<< pos.toNat)) ||| ((x.rd a &&& m) <<< pos.toNat)) else none
  | _ => none

/-- The D result of a multiplication, which its successor does not see yet (07 R246): core, destination, value. -/
def mulResult (x : CoreS) : Instr → Option (Fin 230 × BitVec 5 × Word)
  | .mul c d a b => some (c, d, BitVec.ofInt 64 ((x.rd a).toInt * (x.rd b).toInt))
  | .mulh c d a b => some (c, d, BitVec.ofInt 64 ((x.rd a).toInt * (x.rd b).toInt / (2 : Int) ^ 64))
  | .mulhu c d a b => some (c, d, BitVec.ofNat 64 ((x.rd a).toNat * (x.rd b).toNat / 2 ^ 64))
  | .mulo c d a b =>
    let r := (x.rd a).toInt * (x.rd b).toInt
    if -(2 : Int) ^ 63 ≤ r ∧ r < (2 : Int) ^ 63 then some (c, d, BitVec.ofInt 64 r) else none
  | .mvac c d k sh rm sat =>
    let v : Int := (x.accSeen k.toNat).toInt
    let r : Int := match rm with
      | .floor => v / (2 : Int) ^ sh.toNat
      | .rnd => rnd v sh.toNat
      | .even => rndEven v sh.toNat
    let w : Nat := if sat = 1 then 63 else if sat = 2 then 31 else 23
    some (c, d, BitVec.ofInt 64 (if sat = 0 then r else max (-(2 : Int) ^ w) (min ((2 : Int) ^ w - 1) r)))
  | _ => none

/-- The A result of the capability instructions that write A[ad] at once, where their checks pass (07 Table 7-7, R242). -/
def aResult (x : CoreS) : Instr → Option (Fin 230 × BitVec 4 × Cap)
  | .cmove c ad a => some (c, ad, x.ra a)
  | .cclrt c ad a => some (c, ad, ⟨(x.ra a).bits, false⟩)
  | .cinc c ad a b =>
    if (x.ra a).tag && (x.ra a).sealed then none else some (c, ad, (x.ra a).setCur ((x.ra a).cur + (x.rd b).toNat))
  | .csetc c ad a b => if (x.ra a).tag && (x.ra a).sealed then none else some (c, ad, (x.ra a).setCur (x.rd b).toNat)
  | .cinci c ad a imm => if (x.ra a).tag && (x.ra a).sealed then none else some (c, ad, (x.ra a).adv imm.toInt)
  | .candr c ad a b =>
    if (x.ra a).tag && !(x.ra a).sealed then some (c, ad, (x.ra a).setRights ((x.ra a).rights &&& (x.rd b).toNat)) else none
  | .cdom c ad a b =>
    if x.lvl = 2 && (x.ra a).tag && !(x.ra a).sealed then some (c, ad, (x.ra a).setDom ((x.rd b).toNat % 16)) else none
  | .cpcc c p imm => some (c, p, x.pcc.adv (imm.toInt * 4))
  | .cseal c ad a b =>
    if (x.ra a).tag && !(x.ra a).sealed && (x.ra b).tag && !(x.ra b).sealed && (x.ra b).has 7 &&
        ((x.ra b).outside (x.ra b).cur 1).isNone &&
        ((1 ≤ (x.ra b).cur && (x.ra b).cur ≤ 47) || (x.ra b).cur == 63) then
      some (c, ad, (x.ra a).setOtype (x.ra b).cur) else none
  | .cunseal c ad a b =>
    if (x.ra a).tag && (x.ra a).sealed && (x.ra a).otype != 63 && (x.ra b).tag && !(x.ra b).sealed && (x.ra b).has 7 &&
        ((x.ra b).outside (x.ra b).cur 1).isNone && (x.ra b).cur == (x.ra a).otype then
      some (c, ad, (x.ra a).setOtype 0) else none
  | _ => none

/-- The new C[k] of the accumulator group (07 Table 7-9). -/
def accResult (x : CoreS) : Instr → Option (Fin 230 × BitVec 2 × BitVec 80)
  | .mac c k a b m => some (c, k, x.accNow k.toNat + BitVec.ofInt 80 (product m (x.rd a).toNat (x.rd b).toNat))
  | .msu c k a b m => some (c, k, x.accNow k.toNat - BitVec.ofInt 80 (product m (x.rd a).toNat (x.rd b).toNat))
  | .macr c k a b m => some (c, k, BitVec.ofInt 80 (product m (x.rd a).toNat (x.rd b).toNat))
  | .clrac c k r => some (c, k, if r = 0 then 0 else BitVec.ofNat 80 (2 ^ (r.toNat - 1)))
  | _ => none

/-- The conditional branches: core, annul bit, displacement in words, and whether the condition of 07 Table 7-8 holds. -/
def branchOf (x : CoreS) : Instr → Option (Fin 230 × Bool × Int × Bool)
  | .beq c a b an imm => some (c, an, imm.toInt, decide (x.rd a = x.rd b))
  | .bne c a b an imm => some (c, an, imm.toInt, decide (x.rd a ≠ x.rd b))
  | .blt c a b an imm => some (c, an, imm.toInt, BitVec.slt (x.rd a) (x.rd b))
  | .bge c a b an imm => some (c, an, imm.toInt, BitVec.sle (x.rd b) (x.rd a))
  | .bltu c a b an imm => some (c, an, imm.toInt, BitVec.ult (x.rd a) (x.rd b))
  | .bgeu c a b an imm => some (c, an, imm.toInt, BitVec.ule (x.rd b) (x.rd a))
  | .beqz c a an imm => some (c, an, imm.toInt, decide (x.rd a = 0))
  | .bnez c a an imm => some (c, an, imm.toInt, decide (x.rd a ≠ 0))
  | .bltz c a an imm => some (c, an, imm.toInt, (x.rd a).msb)
  | .bgez c a an imm => some (c, an, imm.toInt, !(x.rd a).msb)
  | .bgtz c a an imm => some (c, an, imm.toInt, !(x.rd a).msb && decide (x.rd a ≠ 0))
  | .blez c a an imm => some (c, an, imm.toInt, (x.rd a).msb || decide (x.rd a = 0))
  | _ => none

/-- Loads into D: core, destination, memory operand, container, bytes read, and the value their bytes give (07 Table 7-5). -/
def loadOf : Instr → Option (Fin 230 × BitVec 5 × MemOp × Nat × Nat × (List Byte → Word))
  | .lb c t m => some (c, t, m, 1, 1, fun bs => (BitVec.ofNat 8 (leNat bs)).signExtend 64)
  | .lbu c t m => some (c, t, m, 1, 1, fun bs => BitVec.ofNat 64 (leNat bs))
  | .lh c t m => some (c, t, m, 2, 2, fun bs => (BitVec.ofNat 16 (leNat bs)).signExtend 64)
  | .lhu c t m => some (c, t, m, 2, 2, fun bs => BitVec.ofNat 64 (leNat bs))
  | .lw c t m => some (c, t, m, 4, 4, fun bs => (BitVec.ofNat 32 (leNat bs)).signExtend 64)
  | .lwu c t m => some (c, t, m, 4, 4, fun bs => BitVec.ofNat 64 (leNat bs))
  | .ld c t m => some (c, t, m, 8, 8, fun bs => BitVec.ofNat 64 (leNat bs))
  | .ldt c t m => some (c, t, m, 4, 3, fun bs => (BitVec.ofNat 24 (leNat bs)).signExtend 64)
  | _ => none

/-- Stores from D: core, memory operand, container, and the bytes stored (07 Table 7-5, R235, R236). -/
def storeOf (x : CoreS) : Instr → Option (Fin 230 × MemOp × Nat × List Byte)
  | .sb c t m => some (c, m, 1, natLE 1 (x.rd t).toNat)
  | .sh c t m => some (c, m, 2, natLE 2 (x.rd t).toNat)
  | .sw c t m => some (c, m, 4, natLE 4 (x.rd t).toNat)
  | .sd c t m => some (c, m, 8, natLE 8 (x.rd t).toNat)
  | .stt c t m => some (c, m, 4, natLE 3 (x.rd t).toNat)
  | .stts c t m =>
    some (c, m, 4, natLE 3 (BitVec.ofInt 24 (max (-(2 : Int) ^ 23) (min ((2 : Int) ^ 23 - 1) (x.rd t).toInt))).toNat)
  | _ => none

/-- Atomics: core, destination, address register, width in bytes, and the new memory value from the old one, if any
(07 Table 7-6). -/
def atomicOf (x : CoreS) : Instr → Option (Fin 230 × BitVec 5 × BitVec 4 × Nat × (Nat → Option Nat))
  | .amoswap c d ab b w => some (c, d, ab, if w then 8 else 4, fun _ => some (x.rd b).toNat)
  | .amoadd c d ab b w => some (c, d, ab, if w then 8 else 4, fun o => some (o + (x.rd b).toNat))
  | .amoand c d ab b w => some (c, d, ab, if w then 8 else 4, fun o => some (o &&& (x.rd b).toNat))
  | .amoor c d ab b w => some (c, d, ab, if w then 8 else 4, fun o => some (o ||| (x.rd b).toNat))
  | .cas c d ab b w =>
    let n := if w then 64 else 32
    some (c, d, ab, if w then 8 else 4, fun o => if o = (x.rd d).toNat % 2 ^ n then some (x.rd b).toNat else none)
  | .amomax c d ab b w =>
    let n := if w then 64 else 32
    some (c, d, ab, if w then 8 else 4, fun o => some (BitVec.ofInt n (max (BitVec.ofNat n o).toInt (BitVec.ofNat n (x.rd b).toNat).toInt)).toNat)
  | .amomin c d ab b w =>
    let n := if w then 64 else 32
    some (c, d, ab, if w then 8 else 4, fun o => some (BitVec.ofInt n (min (BitVec.ofNat n o).toInt (BitVec.ofNat n (x.rd b).toNat).toInt)).toNat)
  | _ => none

/-- Long operations: core, destination, result, event and worst case in slots (07 Table 7-10, 06 R184, R187). -/
def longResult (x : CoreS) : Instr → Option (Fin 230 × BitVec 5 × Word × Option Nat × Nat)
  | .div c d a b =>
    some (c, d, if x.rd b = 0 then BitVec.allOnes 64 else BitVec.sdiv (x.rd a) (x.rd b),
      if x.rd b = 0 then some 0x0E else if x.rd a = BitVec.intMin 64 ∧ x.rd b = BitVec.allOnes 64 then some 0x0F else none, 68)
  | .divu c d a b =>
    some (c, d, if x.rd b = 0 then BitVec.allOnes 64 else x.rd a / x.rd b, if x.rd b = 0 then some 0x0E else none, 68)
  | .rem c d a b =>
    some (c, d, if x.rd b = 0 then x.rd a else BitVec.srem (x.rd a) (x.rd b),
      if x.rd b = 0 then some 0x0E else if x.rd a = BitVec.intMin 64 ∧ x.rd b = BitVec.allOnes 64 then some 0x0F else none, 68)
  | .remu c d a b => some (c, d, if x.rd b = 0 then x.rd a else x.rd a % x.rd b, if x.rd b = 0 then some 0x0E else none, 68)
  | .sqrt c d a => some (c, d, BitVec.ofNat 64 (Nat.sqrt (x.rd a).toNat), none, 36)
  | .rcp c d a =>
    some (c, d, if x.rd a = 0 then BitVec.intMax 64 else BitVec.sdiv (BitVec.ofNat 64 (2 ^ 62)) (x.rd a),
      if x.rd a = 0 then some 0x0E else none, 20)
  | .norm c d k =>
    let v := x.accSeen k.toNat
    some (c, d, BitVec.ofNat 64 ((79 : Nat) - (if (if v.msb then ~~~v else v) = 0 then 0 else Nat.log2 (if v.msb then ~~~v else v).toNat + 1)), none, 4)
  | _ => none

/-- Instructions that run at S and M only, with their own words (07 Tables 7-7 and 7-11). -/
def supervisorOnly : Instr → Option (Fin 230 × Nat)
  | .dflusha c => some (c, encX 0x05 0)
  | .dinva c => some (c, encX 0x06 0)
  | .retx c => some (c, encX 0x07 0)
  | .retf c => some (c, encX 0x08 0)
  | .wspill c => some (c, encX 0x0B 0)
  | .wfill c => some (c, encX 0x0C 0)
  | .binv c => some (c, encX 0x0D 0)
  | .wfi c => some (c, encX 0x0E 0)
  | _ => none

end Sys2Proof.Machine
end

