-- ==== Sys2Proof/Certificates/Slice0/Obligations.lean ====
section
/-! DEFINITION. The statements for the provers. Each docstring says which rules of spec/ it formalises. -/

open Sys2Proof Sys2Proof.Machine

/-! ### The queue and the whole machine -/

/-- A step takes the command at the front of the queue and runs it on the rest. -/
def Obligations.StepRunsTheFrontCommand : Prop :=
  ∀ (c : Instr) (rest : List Instr) (s : State),
    step { s with pending := c :: rest } = exec c { s with pending := rest } ∧
    step { s with pending := [] } = .next { s with pending := [] }

/-- The invariant holds at reset. -/
def Obligations.ResetMeetsTheInvariant : Prop := State.reset.Inv

/-- Every step keeps the invariant: memory, tags, poison, registers and counters stay in canonical form, and the device state
stays one of the six. -/
def Obligations.EveryStepKeepsTheInvariant : Prop := ∀ s t : State, s.Inv → step s = .next t → t.Inv

/-- Every command ends in a next state, whatever the state: the spec gives none of them an effect that stops the device. -/
def Obligations.EveryCommandHasANextState : Prop := ∀ (i : Instr) (s : State), ∃ t, exec i s = .next t

/-- A memory access leaves every byte outside it as it was, and reads back what was written. -/
def Obligations.MemoryReadsBackWhatWasWritten : Prop :=
  ∀ (m : SMap Byte) (a b : Nat) (bs : List Byte),
    (Memory.wf m = true → Memory.wf (memWriteN m a bs) = true) ∧
    memRead (memWriteN m a bs) b = if a ≤ b ∧ b < a + bs.length then (bs[b - a]?).getD 0 else memRead m b

/-! ### Iakisal: arithmetic, capabilities, multiply and accumulate -/

/-- Every instruction that writes a D register at once writes the value its table gives, and nothing else changes but PCC and
the step counter (06 R181, R189, 07 R230-R232, R241). -/
def Obligations.DInstructionsWriteTheirTableResult : Prop :=
  ∀ (i : Instr) (s s1 : State) (c : Fin 230) (ic : Nat) (d : BitVec 5) (v : Word),
    s.Fetches c.val ic s1 → (s1.core c.val).Quiet → dResult (s1.core c.val) i = some (c, d, v) →
    ∃ t, exec i s = .next t ∧ WroteD c.val d v s1 t

/-- ADDO, SUBO, ADDIO and MULO raise 0x0F with EVAL 0 on signed overflow, and write nothing first. -/
def Sys2Proof.Claims.OverflowIsTakenPrecisely : Prop :=
  ∀ (s s1 : State) (c : Fin 230) (ic : Nat) (d a b : BitVec 5) (imm : BitVec 16),
    s.Fetches c.val ic s1 →
    let x := s1.core c.val
    let out (r : Int) : Prop := r < -(2 : Int) ^ 63 ∨ (2 : Int) ^ 63 ≤ r
    let trapped := Host.Outcome.next (φ := Fault) (ρ := Refusal) (s.raised s1 c.val ic 0x0F 0)
    (out ((x.rd a).toInt + (x.rd b).toInt) → exec (.addo c d a b) s = trapped) ∧
    (out ((x.rd a).toInt - (x.rd b).toInt) → exec (.subo c d a b) s = trapped) ∧
    (out ((x.rd a).toInt + imm.toInt) → exec (.addio c d a imm) s = trapped) ∧
    (out ((x.rd a).toInt * (x.rd b).toInt) → exec (.mulo c d a b) s = trapped)

/-- A multiplication and MVAC leave the result in a shadow of one instruction. -/
def Sys2Proof.Claims.MultiplyResultsHaveExposedLatencyOne : Prop :=
  ∀ (i : Instr) (s s1 : State) (c : Fin 230) (ic : Nat) (d : BitVec 5) (v : Word),
    s.Fetches c.val ic s1 → (s1.core c.val).Quiet → mulResult (s1.core c.val) i = some (c, d, v) →
    ∃ t, exec i s = .next t ∧ PostedD c.val d v 1 s1 t ∧ SameMemory s1 t ∧ SameOtherCores c.val s1 t

/-- A write in a shadow takes effect when its last instruction retires and not before; a write at once stands over an older
one of the same register. -/
def Sys2Proof.Claims.ShadowedWritesAppearOnTime : Prop :=
  ∀ (x : CoreS) (p : Nat) (v : Word) (n : Nat),
    let w : Shadow := ⟨.d p, v.setWidth 128, false, n⟩
    let y := ({ x with shadows := [w] } : CoreS).tick
    (1 < n → y.shadows = [{ w with left := n - 1 }] ∧ ∀ q, y.dAt q = x.dAt q) ∧
    (n ≤ 1 → y.shadows = [] ∧ ∀ q, y.dAt q = if q = p then v else x.dAt q) ∧
    (∀ (d : BitVec 5) (u : Word), x.physD d.toNat = p →
      let z := ({ x with shadows := [w] } : CoreS).wd d u 0
      z.shadows = [] ∧ ∀ q, z.dAt q = if q = p then u else x.dAt q)

/-- MAC, MSU, MACR and CLRAC write C[k] modulo 2^80 for the accumulator group at once, and for MVAC and NORM after two
instructions. -/
def Obligations.AccumulatorInstructionsWriteTheirSum : Prop :=
  ∀ (i : Instr) (s s1 : State) (c : Fin 230) (ic : Nat) (k : BitVec 2) (v : BitVec 80),
    s.Fetches c.val ic s1 → (s1.core c.val).Quiet → accResult (s1.core c.val) i = some (c, k, v) →
    ∃ t, exec i s = .next t ∧ (t.core c.val).accNow k.toNat = v ∧
      (∀ j, j ≠ k.toNat → (t.core c.val).accNow j = (s1.core c.val).accNow j) ∧
      (t.core c.val).accView = (s1.core c.val).accView ∧
      (t.core c.val).shadows = [⟨.accView k.toNat, v.setWidth 128, false, 2⟩] ∧
      SameD (s1.core c.val) (t.core c.val) ∧ SameA (s1.core c.val) (t.core c.val) ∧
      SameSys (s1.core c.val) (t.core c.val) ∧ MovesOn (s1.core c.val) (t.core c.val) ∧ SameMemory s1 t ∧
      SameOtherCores c.val s1 t

/-- The capability instructions that write A[ad] at once give the capability of their table where their checks pass. -/
def Sys2Proof.Claims.CapabilityInstructionsWriteTheirTableResult : Prop :=
  ∀ (i : Instr) (s s1 : State) (c : Fin 230) (ic : Nat) (a : BitVec 4) (v : Cap),
    s.Fetches c.val ic s1 → (s1.core c.val).Quiet → aResult (s1.core c.val) i = some (c, a, v) →
    ∃ t, exec i s = .next t ∧ WroteA c.val a v s1 t

/-- CSETB narrows a tagged, unsealed capability to the encoded length from its cursor, and CSETBX does so where the length is
exact; no byte outside the parent's bounds comes within the child's. -/
def Sys2Proof.Claims.SetBoundsNarrowsACapability : Prop :=
  ∀ (s s1 : State) (c : Fin 230) (ic : Nat) (ad aa : BitVec 4) (b : BitVec 5) (e m : Nat),
    s.Fetches c.val ic s1 → (s1.core c.val).Quiet →
    let k := (s1.core c.val).ra aa
    let l := ((s1.core c.val).rd b).toNat
    k.tag = true → k.sealed = false → encodeLen l = (e, m) → e ≤ 28 → k.base ≤ k.cur → k.cur + m * 2 ^ e ≤ k.top →
    let child := Cap.make k.cur k.cur m e k.rights k.dom k.otype true
    (∃ t, exec (.csetb c ad aa b) s = .next t ∧ PostedA c.val ad child 1 s1 t ∧ SameMemory s1 t) ∧
    (m * 2 ^ e = l → ∃ t, exec (.csetbx c ad aa b) s = .next t ∧ PostedA c.val ad child 1 s1 t ∧ SameMemory s1 t) ∧
    l ≤ m * 2 ^ e

/-- CCALL enters through a sealed pair: A13 takes the sealed return point, A12 the unsealed data capability, PCC the unsealed
entry point. -/
def Obligations.CrossDomainCallEntersTheGate : Prop :=
  ∀ (s s1 : State) (c : Fin 230) (ic : Nat) (p q : BitVec 4),
    s.Fetches c.val ic s1 → (s1.core c.val).Quiet → (s1.core c.val).delay = none → (s1.core c.val).frame = none →
    s1.posted = [] →
    let x := s1.core c.val
    let kp := x.ra p
    let kq := x.ra q
    kp.tag = true → kq.tag = true → kp.otype = 63 → kq.otype = 63 → kp.dom = kq.dom → kp.has 2 = true → kq.has 2 = false →
    kp.cur % 4 = 0 → kp.outside kp.cur 4 = none →
    ∃ t, exec (.ccall c p q) s = .next t ∧ (t.core c.val).pcc = kp.setOtype 0 ∧ (t.core c.val).delay = none ∧
      (t.core c.val).aAt (x.physA 13) = (x.pcc.adv 4).setOtype 63 ∧ (t.core c.val).aAt (x.physA 12) = kq.setOtype 0 ∧
      (∀ r, r ≠ x.physA 13 → r ≠ x.physA 12 → (t.core c.val).aAt r = x.aAt r) ∧
      (kp.dom ≠ x.pcc.dom → (t.core c.val).dir = [] ∧ (t.core c.val).targets = [] ∧ (t.core c.val).ras = []) ∧
      SameD x (t.core c.val) ∧ SameSys x (t.core c.val) ∧ (t.core c.val).sysReg 0 = x.sysReg 0 ∧ SameMemory s1 t

/-! ### Iakisal: loads, stores and atomics -/

/-- A load whose line is held in the data cache, sound in the bytes it reads, gives the extension of those bytes, in a shadow of two
instructions. -/
def Sys2Proof.Claims.LoadsReadTheCachedBytes : Prop :=
  ∀ (i : Instr) (s s1 s2 : State) (c : Fin 230) (ic a cs n : Nat) (d : BitVec 5) (m : MemOp) (f : List Byte → Word) (l : DLine),
    s.Fetches c.val ic s1 → loadOf i = some (c, d, m, cs, n, f) → (s1.core c.val).fencing = false →
    let x := s1.core c.val
    let k := x.ra (memBase m)
    k.access rLD (x.ea m cs) n cs = none →
    s1.translate (16 + c.val) k.dom x.lvl (x.ea m cs) .read = (.ok a false, s2) →
    (s2.core c.val).Quiet → s2.posted = [] → s2.stalled = false → (s2.core c.val).line a = some l → l.sound a n false = true →
    (s2.core c.val).frame = none →
    ∃ t, exec i s = .next t ∧ PostedD c.val d (f (l.bytes a n)) 2 s2 t ∧ SameMemory s2 t ∧ SameOtherCores c.val s2 t

/-- A line fill of memory takes the 64 bytes of memory at the line's address, clean. -/
def Sys2Proof.Claims.FillsCopyMemory : Prop :=
  ∀ (s s' : State) (c dom priv a : Nat) (w : Bool),
    isRegPlace (s.loc (a / 64 * 64)) = false → s.fill c dom priv a w = (none, s') →
    ∃ l, (s'.core c).line a = some l ∧ l.data = BitVec.ofNat 512 (leNat (memReadN s.mem (a / 64 * 64) 64)) ∧ l.dirty = false

/-- A load that misses fills its line and reads it there. -/
def Sys2Proof.Claims.LoadsThatMissFillTheirLine : Prop :=
  ∀ (i : Instr) (s s1 s2 s3 : State) (c : Fin 230) (ic a cs n : Nat) (d : BitVec 5) (m : MemOp) (f : List Byte → Word) (l : DLine),
    s.Fetches c.val ic s1 → loadOf i = some (c, d, m, cs, n, f) → (s1.core c.val).fencing = false →
    let x := s1.core c.val
    let k := x.ra (memBase m)
    k.access rLD (x.ea m cs) n cs = none →
    s1.translate (16 + c.val) k.dom x.lvl (x.ea m cs) .read = (.ok a false, s2) →
    (s2.core c.val).line a = none → s2.fill c.val k.dom (s2.core c.val).lvl a false = (none, s3) →
    (s3.core c.val).Quiet → s3.posted = [] → s3.stalled = false → (s3.core c.val).line a = some l → (s3.core c.val).frame = none →
    ∃ t, exec i s = .next t ∧ PostedD c.val d (f (l.bytes a n)) 2 s3 t ∧ SameMemory s3 t

/-- A store to a writable cached line, sound in the words it covers in part, changes the bytes of that line and no memory; the line becomes dirty, and the tags of
the granules it touches go, but for CSC, which writes its own. -/
def Sys2Proof.Claims.StoresWriteTheCachedLine : Prop :=
  ∀ (i : Instr) (s s1 s2 : State) (c : Fin 230) (ic a cs : Nat) (m : MemOp) (bs : List Byte) (l : DLine),
    s.Fetches c.val ic s1 → storeOf (s1.core c.val) i = some (c, m, cs, bs) → (s1.core c.val).fencing = false →
    (s1.core c.val).frame = none →
    let x := s1.core c.val
    let k := x.ra (memBase m)
    k.access rST (x.ea m cs) bs.length cs = none →
    s1.translate (16 + c.val) k.dom x.lvl (x.ea m cs) .write = (.ok a false, s2) →
    (s2.core c.val).Quiet → s2.posted = [] → s2.stalled = false → (s2.core c.val).line a = some l → l.wperm = true →
    l.sound a bs.length true = true →
    ∃ t, exec i s = .next t ∧
      (t.core c.val).line a = some (l.put a bs none k.dom (s2.core c.val).lvl) ∧
      (∀ b, b / 64 ≠ a / 64 → (t.core c.val).line b = (s2.core c.val).line b) ∧
      OnlyMovedOn c.val s2 t

/-- A store to device-typed memory or to a register goes to its place: memory outside the bytes stored is as before. -/
def Sys2Proof.Claims.DeviceStoresReachOnlyTheirBytes : Prop :=
  ∀ (i : Instr) (s s1 s2 s3 : State) (c : Fin 230) (ic a cs : Nat) (m : MemOp) (bs : List Byte),
    s.Fetches c.val ic s1 → storeOf (s1.core c.val) i = some (c, m, cs, bs) → (s1.core c.val).fencing = false →
    (s1.core c.val).frame = none →
    let x := s1.core c.val
    let k := x.ra (memBase m)
    k.access rST (x.ea m cs) bs.length cs = none →
    s1.translate (16 + c.val) k.dom x.lvl (x.ea m cs) .write = (.ok a true, s2) →
    s2.busWrite (coreAttr c.val k.dom (s2.core c.val).lvl) kWrite a bs none = (.ok, s3) →
    isRegPlace (s2.loc a) = false → (∀ w ∈ wordsOf a bs.length, w ∉ s2.poison) → s3.posted = [] → s3.stalled = false →
    ∃ t, exec i s = .next t ∧ SameMemoryOutside s2 t a bs.length

/-- CLC loads 16 bytes and their tag from a sound cached line, the tag only with the LC right; CSC stores a capability into one, with its
tag where the memory behind it holds tags (08 R270). -/
def Obligations.CapabilityLoadsAndStoresCarryTheTag : Prop :=
  ∀ (s s1 s2 : State) (c : Fin 230) (ic a : Nat) (r ab : BitVec 4) (imm : BitVec 17) (l : DLine),
    s.Fetches c.val ic s1 → (s1.core c.val).fencing = false → (s1.core c.val).frame = none →
    let x := s1.core c.val
    let k := x.ra ab
    let v := x.ra r
    let e := unsigned 44 ((k.cur : Int) + imm.toInt * 16)
    (s2.core c.val).Quiet → s2.posted = [] → s2.stalled = false → (s2.core c.val).frame = none →
    (s2.core c.val).line a = some l →
    (k.access rLD e 16 16 = none → l.sound a 16 false = true → s1.translate (16 + c.val) k.dom x.lvl e .read = (.ok a false, s2) →
      ∃ t, exec (.clc c r ab imm) s = .next t ∧
        PostedA c.val r ⟨BitVec.ofNat 128 (leNat (l.bytes a 16)), bitOf l.tags.toNat (a % 64 / 16) && k.has 3⟩ 2 s2 t ∧
        SameMemory s2 t) ∧
    (k.access (rST + (if v.tag then rSC + (if v.has 6 then 0 else rSL) else 0)) e 16 16 = none →
      s1.translate (16 + c.val) k.dom x.lvl e .write = (.ok a false, s2) → l.wperm = true → l.sound a 16 true = true →
      ∃ t, exec (.csc c r ab imm) s = .next t ∧
        (t.core c.val).line a = some (l.put a v.bytes (s2.keepTag a (some v.tag)) k.dom (s2.core c.val).lvl) ∧ OnlyMovedOn c.val s2 t)

/-- An atomic on memory reads the old value into D[d] and writes the new one at its target in one step; bytes outside it are
as before. -/
def Obligations.AtomicsReadAndWriteInOneStep : Prop :=
  ∀ (i : Instr) (s s1 s2 s3 : State) (c : Fin 230) (ic a n : Nat) (d : BitVec 5) (ab : BitVec 4) (f : Nat → Option Nat) (dev : Bool),
    s.Fetches c.val ic s1 → atomicOf (s1.core c.val) i = some (c, d, ab, n, f) → (s1.core c.val).fencing = false →
    (s1.core c.val).frame = none →
    let x := s1.core c.val
    let k := x.ra ab
    k.access (rLD + rST) k.cur n n = none →
    s1.translate (16 + c.val) k.dom x.lvl k.cur .both = (.ok a dev, s2) → (s2.core c.val).line a = none →
    s2.reaches (coreAttr c.val k.dom x.lvl) kAtomic a = (.ok, s3) → isRegPlace (s3.loc a) = false → s3.uncorr a n = false →
    (∀ h off, s3.loc a ≠ .egress h off) → s3.dramDown a = false → (∀ w ∈ wordsOf a n, w ∉ s3.poison) →
    (s3.core c.val).Quiet → s3.posted = [] → s3.stalled = false →
    ∃ t, exec i s = .next t ∧
      PostedD c.val d (BitVec.ofInt 64 (signed (8 * n) (leNat (memReadN s3.mem a n)))) 2 s3 t ∧
      memReadN t.mem a n = (match f (leNat (memReadN s3.mem a n)) with
        | some v => natLE n v
        | none => memReadN s3.mem a n) ∧
      SameMemoryOutside s3 t a n ∧ SameOtherCores c.val s3 t

/-- LDM, STM, CCOPY, MACB, WSPILL and WFILL complete when every access of theirs succeeds and no interrupt can abandon them: registers
are written only then, with the latency of their rule, and their steps are those of 07 Table 7-12. LDM leaves the registers of its mask,
and the base with W, in shadows; STM, WSPILL and WFILL write theirs at once, WSPILL and WFILL OLD too; MACB adds its sum to C[k]. -/
def Obligations.MultiAccessInstructionsCompleteAtTheEnd : Prop :=
  ∀ (s s1 : State) (c : Fin 230) (ic : Nat) (r : Run),
    s.Fetches c.val ic s1 → s1.fastDue c.val = false → s1.normalDue c.val = none →
    let x := s1.core c.val
    let r0 : Run := ⟨s1, c.val, 0, 0, false⟩
    let ends (st : State) (n : Nat) : Host.Outcome State Fault Refusal := .next (s.completed c.val ic r st (.seq n))
    let rc := r.st.core c.val
    let keeps (t : State) : Prop := SameAcc rc (t.core c.val) ∧ MovesOn rc (t.core c.val) ∧ SameMemory r.st t ∧ SameOtherCores c.val r.st t
    let oneA (n : Nat) (v : Cap) (t : State) : Prop :=
      (t.core c.val).aAt (rc.physA n) = v ∧ ∀ p, p ≠ rc.physA n → (t.core c.val).aAt p = rc.aAt p
    (∀ (ab : BitVec 4) (w : Bool) (bank : Bank) (mask : BitVec 16) (vs : List (Nat × List Byte × Bool)),
      let k := x.ra ab
      let z := bankSize bank
      let rs := maskRegs mask
      mask ≠ 0 → ¬(bank = .address ∧ bitOf mask.toNat ab.toNat = true) → k.access rLD k.cur (rs.length * z) z = none →
      ldmGo k z rs k.cur [] r0 = .ok vs r → r.c = c.val →
      exec (.ldm c ab w bank mask) s = ends
        ((r.st.modCore c.val fun y => vs.foldl (fun y v =>
            if bank = .address then y.wa (BitVec.ofNat 4 v.1) ⟨BitVec.ofNat 128 (leNat v.2.1), v.2.2 && k.has 3⟩ 2
            else y.wd (bankD bank v.1) (BitVec.ofNat 64 (leNat v.2.1)) 2) y).modCore c.val fun y =>
          if w then y.wa ab (k.adv (rs.length * z)) 2 else y)
        (if bank = .address then 1 + 2 * rs.length else 1 + rs.length) ∧
      (r.st.Ready c.val → ∃ t, exec (.ldm c ab w bank mask) s = .next t ∧ PostedAll c.val
        ((vs.map fun v =>
            if bank = .address then
              ⟨.a (rc.physA (v.1 % 16)), BitVec.ofNat 128 (leNat v.2.1), v.2.2 && k.has 3, 2⟩
            else ⟨.d (rc.physD (if bank = .window then 16 + v.1 else v.1)), BitVec.ofNat 128 (leNat v.2.1 % 2 ^ 64), false, 2⟩) ++
          if w then [⟨.a (rc.physA ab.toNat), (k.adv (rs.length * z)).bits, (k.adv (rs.length * z)).tag, 2⟩] else []) r.st t)) ∧
    (∀ (ab : BitVec 4) (w : Bool) (bank : Bank) (mask : BitVec 16),
      let k := x.ra ab
      let z := bankSize bank
      let rs := maskRegs mask
      let e := if w then unsigned 44 ((k.cur : Int) - (rs.length * z : Nat)) else k.cur
      let need := if bank = .address then rs.foldl (fun n i => n ||| capStoreRights (x.ra (BitVec.ofNat 4 i))) rST else rST
      mask ≠ 0 → k.access need e (rs.length * z) z = none → stmGo k x bank rs e r0 = .ok () r → r.c = c.val →
      exec (.stm c ab w bank mask) s = ends (r.st.modCore c.val fun y => if w then y.wa ab ((y.ra ab).setCur e) 0 else y)
        (if bank = .address then 1 + 2 * rs.length else 1 + rs.length) ∧
      (r.st.Ready c.val → ∃ t, exec (.stm c ab w bank mask) s = .next t ∧ keeps t ∧ SameD rc (t.core c.val) ∧
        SameSys rc (t.core c.val) ∧ (w = true → oneA ab.toNat ((rc.ra ab).setCur e) t) ∧
        (w = false → SameA rc (t.core c.val)))) ∧
    (∀ (p q : BitVec 4) (n : BitVec 5),
      let g := if (x.rd n).toNat % 256 = 0 then 256 else (x.rd n).toNat % 256
      (x.ra q).access rLD (x.ra q).cur (16 * g) 16 = none → (x.ra p).access rST (x.ra p).cur (16 * g) 16 = none →
      ccopyGo (x.ra p) (x.ra q) ((x.ra q).has 3 && (x.ra p).has 4) g 0 r0 = .ok () r → r.c = c.val →
      exec (.ccopy c p q n) s = ends r.st (3 + 2 * g) ∧
      (r.st.Ready c.val → ∃ t, exec (.ccopy c p q n) s = .next t ∧ OnlyMovedOn c.val r.st t)) ∧
    (∀ (k : BitVec 2) (aa ab : BitVec 4) (n : BitVec 5) (m : MulMode) (sum : Int),
      let g := if (x.rd n).toNat % 256 = 0 then 256 else (x.rd n).toNat % 256
      (x.ra aa).access rLD (x.ra aa).cur (4 * g) 4 = none → (x.ra ab).access rLD (x.ra ab).cur (4 * g) 4 = none →
      macbGo (x.ra aa) (x.ra ab) m g 0 0 r0 = .ok sum r → r.c = c.val →
      exec (.macb c k aa ab n m) s = ends (r.st.modCore c.val fun y =>
        y.wacc k.toNat (y.accNow k.toNat + BitVec.ofInt 80 sum)) (3 + g) ∧
      (r.st.Ready c.val → ∃ t, exec (.macb c k aa ab n m) s = .next t ∧
        (t.core c.val).accNow k.toNat = rc.accNow k.toNat + BitVec.ofInt 80 sum ∧
        (∀ j, j ≠ k.toNat → (t.core c.val).accNow j = rc.accNow j) ∧ (t.core c.val).accView = rc.accView ∧
        (t.core c.val).shadows = [⟨.accView k.toNat, (rc.accNow k.toNat + BitVec.ofInt 80 sum).setWidth 128, false, 2⟩] ∧
        SameD rc (t.core c.val) ∧ SameA rc (t.core c.val) ∧ SameSys rc (t.core c.val) ∧ MovesOn rc (t.core c.val) ∧
        SameMemory r.st t)) ∧
    (x.delay = none → 1 ≤ x.lvl → x.frame = none → (x.ra 14).access rST (x.ra 14).cur 128 8 = none →
      wspillGo (x.ra 14) ((windowRegs x.old).map x.dAt) (x.ra 14).cur r0 = .ok () r → r.c = c.val →
      exec (.wspill c) s = ends (r.st.modCore c.val fun y =>
        (y.wa 14 ((x.ra 14).adv 128) 0).putSys 3 (BitVec.ofNat 64 ((x.old + 1) % 12))) 17 ∧
      (r.st.Ready c.val → ∃ t, exec (.wspill c) s = .next t ∧ keeps t ∧ SameD rc (t.core c.val) ∧
        (t.core c.val).sysReg 3 = BitVec.ofNat 64 ((x.old + 1) % 12) ∧ oneA 14 ((x.ra 14).adv 128) t)) ∧
    (∀ vs : List Word,
      let k := (x.ra 14).adv (-128)
      let w := (x.old + 11) % 12
      x.delay = none → 1 ≤ x.lvl → x.frame = none → k.access rLD k.cur 128 8 = none →
      wfillGo k 16 k.cur [] r0 = .ok vs r → r.c = c.val →
      exec (.wfill c) s = ends (r.st.modCore c.val fun y =>
        ((((windowRegs w).zip vs).foldl (fun y p => y.post (.d p.1) (p.2.setWidth 128) false 0) y).wa 14 k 0).putSys 3
          (BitVec.ofNat 64 w)) 17 ∧
      (r.st.Ready c.val → ∃ t, exec (.wfill c) s = .next t ∧ keeps t ∧ (t.core c.val).sysReg 3 = BitVec.ofNat 64 w ∧ oneA 14 k t ∧
        (∀ i, i < 16 → (t.core c.val).dAt (16 + 16 * w + i) = vs.getD i 0) ∧
        ∀ p, (∀ i, i < 16 → p ≠ 16 + 16 * w + i) → (t.core c.val).dAt p = rc.dAt p))

/-! ### Iakisal: branches, windows, the long unit -/

/-- A conditional branch that is taken goes to its target after its delay slot; one that is not taken runs the slot, or skips
it when it annuls. -/
def Sys2Proof.Claims.ConditionalBranchesFollowTheirCondition : Prop :=
  ∀ (i : Instr) (s s1 : State) (c : Fin 230) (ic : Nat) (an : Bool) (disp : Int) (taken : Bool),
    s.Fetches c.val ic s1 → (s1.core c.val).Quiet → (s1.core c.val).delay = none →
    branchOf (s1.core c.val) i = some (c, an, disp, taken) →
    let x := s1.core c.val
    let target := unsigned 44 ((x.pcc.cur : Int) + 4 * disp)
    (taken = true → x.pcc.outside target 4 = none →
      ∃ t, exec i s = .next t ∧ Branched c.val ⟨x.pcc.setCur target, .none⟩ s1 t ∧ SameA x (t.core c.val)) ∧
    (taken = true → ∀ e, x.pcc.outside target 4 = some e →
      exec i s = .next (s.raised s1 c.val ic 0x02 target)) ∧
    (taken = false → an = false →
      ∃ t, exec i s = .next t ∧ Branched c.val ⟨x.pcc.adv 8, .none⟩ s1 t ∧ SameA x (t.core c.val)) ∧
    (taken = false → an = true →
      ∃ t, exec i s = .next t ∧ (t.core c.val).pcc = x.pcc.adv 8 ∧ (t.core c.val).delay = none ∧ SameD x (t.core c.val) ∧
        SameA x (t.core c.val) ∧ SameAcc x (t.core c.val) ∧ SameSys x (t.core c.val) ∧ KeptBytes s1 t)

/-- J, JAL, JR and JALR go to their target after the delay slot; JAL and JALR write A13 with the address past the slot. -/
def Sys2Proof.Claims.JumpsGoToTheirTargetAndLink : Prop :=
  ∀ (s s1 : State) (c : Fin 230) (ic : Nat) (an : Bool) (imm : BitVec 23) (ar : BitVec 4),
    s.Fetches c.val ic s1 → (s1.core c.val).Quiet → (s1.core c.val).delay = none →
    let x := s1.core c.val
    let target := unsigned 44 ((x.pcc.cur : Int) + 4 * imm.toInt)
    let k := x.ra ar
    let linked (t : State) : Prop :=
      (t.core c.val).aAt (x.physA 13) = x.pcc.adv 8 ∧ ∀ p, p ≠ x.physA 13 → (t.core c.val).aAt p = x.aAt p
    (x.pcc.outside target 4 = none →
      (∃ t, exec (.j c an imm) s = .next t ∧ Branched c.val ⟨x.pcc.setCur target, .none⟩ s1 t ∧ SameA x (t.core c.val)) ∧
      (∃ t, exec (.jal c an imm) s = .next t ∧ Branched c.val ⟨x.pcc.setCur target, .none⟩ s1 t ∧ linked t)) ∧
    (k.tag = true → k.sealed = false → k.has 2 = true → k.cur % 4 = 0 → k.outside k.cur 4 = none →
      (∃ t, exec (.jr c ar an) s = .next t ∧ Branched c.val ⟨k, .none⟩ s1 t ∧ SameA x (t.core c.val)) ∧
      (∃ t, exec (.jalr c ar an) s = .next t ∧ Branched c.val ⟨k, .none⟩ s1 t ∧ linked t))

/-- CALLW and CALLWR link and move to the next window after the delay slot; with eleven windows resident they take the window overflow
0x0C instead, and after a write of OLD that left twelve the next of them moves to some window and leaves the link or an untagged value
in A13 (06 R225). RETW goes back to the window before, and takes the underflow 0x0D where none is resident. -/
def Sys2Proof.Claims.WindowCallsAndReturnsMoveTheWindow : Prop :=
  ∀ (s s1 : State) (c : Fin 230) (ic : Nat) (an : Bool) (imm : BitVec 23) (ar : BitVec 4),
    s.Fetches c.val ic s1 → (s1.core c.val).Quiet → (s1.core c.val).delay = none →
    let x := s1.core c.val
    let target := unsigned 44 ((x.pcc.cur : Int) + 4 * imm.toInt)
    let k := x.ra ar
    let r := x.ra 13
    let jumps (k : Cap) : Prop := k.tag = true ∧ k.sealed = false ∧ k.has 2 = true ∧ k.cur % 4 = 0 ∧ k.outside k.cur 4 = none
    let linked (t : State) : Prop := (t.core c.val).aAt (x.physA 13) = x.pcc.adv 8
    let resident := (x.cwp + 12 - x.old % 12) % 12 + 1
    -- the free result of a CALLW after a bad write of OLD
    let free (k : Cap) (t : State) : Prop := ∃ w < 12, Branched c.val ⟨k, .to w⟩ s1 t ∧ (t.core c.val).badOld = false ∧
      (linked t ∨ ((t.core c.val).aAt (x.physA 13)).tag = false)
    (resident ≠ 11 → x.pcc.outside target 4 = none → x.badOld = false →
      ∃ t, exec (.callw c an imm) s = .next t ∧ Branched c.val ⟨x.pcc.setCur target, .call⟩ s1 t ∧ linked t) ∧
    (resident ≠ 11 → jumps k → x.badOld = false →
      ∃ t, exec (.callwr c ar an) s = .next t ∧ Branched c.val ⟨k, .call⟩ s1 t ∧ linked t) ∧
    (resident = 11 →
      exec (.callw c an imm) s = .next (s.raised s1 c.val ic 0x0C (x.sysReg 3).toNat) ∧
      exec (.callwr c ar an) s = .next (s.raised s1 c.val ic 0x0C (x.sysReg 3).toNat)) ∧
    (resident ≠ 11 → x.badOld = true →
      (x.pcc.outside target 4 = none → ∃ t, exec (.callw c an imm) s = .next t ∧ free (x.pcc.setCur target) t) ∧
      (jumps k → ∃ t, exec (.callwr c ar an) s = .next t ∧ free k t)) ∧
    (x.cwp ≠ x.old → jumps r →
      ∃ t, exec (.retw c an) s = .next t ∧ Branched c.val ⟨r, .ret⟩ s1 t ∧ SameA x (t.core c.val)) ∧
    (x.cwp = x.old → exec (.retw c an) s = .next (s.raised s1 c.val ic 0x0D (x.sysReg 3).toNat))

/-- The window move of a branch happens after its delay slot. -/
def Sys2Proof.Claims.TheDelaySlotMovesTheWindow : Prop :=
  ∀ (s s1 : State) (c : Fin 230) (ic : Nat) (k : Cap) (m : WinMove),
    s.Fetches c.val ic s1 → (s1.core c.val).Quiet → (s1.core c.val).delay = some ⟨k, m⟩ → (s1.core c.val).cwp < 12 →
    ∃ t, exec (.nop c) s = .next t ∧ (t.core c.val).pcc = k ∧ (t.core c.val).delay = none ∧
      (t.core c.val).cwp = (match m with
        | .none => (s1.core c.val).cwp
        | .call => ((s1.core c.val).cwp + 1) % 12
        | .ret => ((s1.core c.val).cwp + 11) % 12
        | .to w => w % 12) ∧
      SameD (s1.core c.val) (t.core c.val) ∧ SameA (s1.core c.val) (t.core c.val) ∧ SameMemory s1 t

/-- A long operation issued with PRE = 0 and room in the long unit joins its queue with its result and its event, and writes
nothing yet; with PRE = 1 and no enabled event it writes its result before the next instruction. The instruction came from the
instruction cache or a vector buffer: a fetch that waits takes steps of the long unit too. -/
def Sys2Proof.Claims.LongOperationsQueueOrCompletePrecisely : Prop :=
  ∀ (i : Instr) (s s1 : State) (c : Fin 230) (ic : Nat) (d : BitVec 5) (v : Word) (ev : Option Nat) (n : Nat),
    s.Fetches c.val ic s1 → longResult (s1.core c.val) i = some (c, d, v, ev, n) → (s1.core c.val).shadows = [] →
    let x := s1.core c.val
    (ic ≠ 1 → x.pre = false → x.longq = [] →
      ∃ t, exec i s = .next t ∧
        (t.core c.val).longq = [⟨x.physD d.toNat, v, ev, x.pcc.cur, n - 1, 0⟩] ∧ OnlyMovedOn c.val s1 t) ∧
    (ic ≠ 1 → x.pre = false → ∀ o, x.longq = [o] → 2 ≤ o.left →
      ∃ t, exec i s = .next t ∧
        (t.core c.val).longq = [{ o with left := o.left - 1, older := o.older - 1 }, ⟨x.physD d.toNat, v, ev, x.pcc.cur, n - 1, 0⟩] ∧
        OnlyMovedOn c.val s1 t) ∧
    (x.pre = true → x.longq = [] → (ev = some 0x0E → x.dze = false) → (ev = some 0x0F → x.ove = false) →
      ∃ t, exec i s = .next t ∧ WroteD c.val d v s1 t ∧ (t.core c.val).longq = [])

/-- LONG_OP_COMPLETE writes the destination of the oldest operation, and its enabled event becomes pending; a pending
event is taken as an imprecise exception whose EVAL is the operation's address. -/
def Sys2Proof.Claims.TheOldestLongOperationCompletes : Prop :=
  ∀ (s : State) (c : Fin 230) (o : LongOp) (os : List LongOp) (e cur : Nat) (es : List (Nat × Nat)),
    let x := s.core c.val
    (s.coreActs c.val = true → x.longq = o :: os →
      ∃ t, exec (.longOpComplete c) s = .next t ∧ (t.core c.val).longq = os ∧
        (∀ p, (t.core c.val).dAt p = if p = o.dest then o.value else x.dAt p) ∧
        (t.core c.val).imprecise = (match o.event with
          | some k => if (if k = 0x0E then x.dze else x.ove) then x.imprecise ++ [(k, o.cursor)] else x.imprecise
          | none => x.imprecise) ∧
        SameA x (t.core c.val) ∧ SameAcc x (t.core c.val) ∧ t.mem = s.mem ∧ SameOtherCores c.val s t) ∧
    (s.issues c.val = true → x.imprecise = (e, cur) :: es → x.delay = none →
      let t := ({ s with stalled := false }.tookImprecise c.val).settle
      exec (.impreciseLongException c) s = .next (if t.stalled then s else t) ∧
      (x.CanEnter (excLevel e x.lvl) → s.posted = [] → (x.lvl = 0 → s.inProgram c.val = false) → e < 256 →
        ∃ t, exec (.impreciseLongException c) s = .next t ∧ Entered c.val (excLevel e x.lvl) (e + 0x200) cur s t ∧
          (t.core c.val).imprecise = es))

/-! ### Iakisal: system registers, exceptions, interrupts -/

/-- MFS, MTS, CMFS and CMTS move a system register with the latencies of 07 R251, where its kind and level allow it. -/
def Sys2Proof.Claims.SystemRegistersMoveByTheirKindAndLevel : Prop :=
  ∀ (s s1 : State) (c : Fin 230) (ic : Nat) (r : BitVec 5) (num : BitVec 12),
    s.Fetches c.val ic s1 → (s1.core c.val).Quiet → (s1.core c.val).frame = none → s1.posted = [] →
    let x := s1.core c.val
    let n := num.toNat
    let others (t : State) : Prop := SameD x (t.core c.val) ∧ SameA x (t.core c.val) ∧ SameSys x (t.core c.val) ∧
      MovesOn x (t.core c.val) ∧ SameMemory s1 t
    (sysKind n = 1 → sysReadAt n ≤ x.lvl →
      ∃ t, exec (.mfs c r num) s = .next t ∧ PostedD c.val r (s1.sysRead c.val n) 1 s1 t ∧ SameMemory s1 t) ∧
    (sysKind n = 1 → sysWriteAt n < 3 → sysWriteAt n ≤ x.lvl →
      ∃ t, exec (.mts c r num) s = .next t ∧ others t ∧
        (t.core c.val).shadows = [⟨.sys n, BitVec.ofNat 64 (x.sysMaskOf n &&& kindMask (coreKind c.val) n) ++ x.rd r, false, 2⟩]) ∧
    (sysKind n = 2 → sysReadAt n ≤ x.lvl → r.toNat < 16 →
      ∃ t, exec (.cmfs c r num) s = .next t ∧ PostedA c.val (r.setWidth 4) (x.capSys n) 1 s1 t ∧ SameMemory s1 t) ∧
    (sysKind n = 2 → sysWriteAt n ≤ x.lvl → r.toNat < 16 → n = 0x100 ∨ n = 0x104 ∨ n = 0x108 ∨ n = 0x200 ∨ n = 0x204 →
      let k := x.ra (r.setWidth 4)
      ∃ t, exec (.cmts c r num) s = .next t ∧ others t ∧ (t.core c.val).shadows = [⟨.csys n, k.bits, k.tag, 2⟩]) ∧
    -- XSA and MXSA: the save area is latched
    (sysWriteAt n ≤ x.lvl → r.toNat < 16 → n = 0x105 ∨ n = 0x205 →
      ∀ (l : Latch) (s2 : State),
      let k := x.ra (r.setWidth 4)
      k.access (rLD + rST) k.cur 0 16 = none → k.cur + 256 ≤ k.top →
      s1.makeLatch c.val k (if n = 0x205 then 2 else 1) = (.ok l, s2) →
      exec (.cmts c r num) s = .next (s.completed c.val ic ⟨s1, c.val, 0, 0, false⟩ ((s2.modCore c.val fun y =>
        if n = 0x205 then { y with mxsaLatch := l } else { y with xsaLatch := l }).modCore c.val fun y =>
          y.post (.csys n) k.bits k.tag 2) (.seq 1)) ∧
      (s2.Ready c.val → ∃ t, exec (.cmts c r num) s = .next t ∧ PostedAll c.val [⟨.csys n, k.bits, k.tag, 2⟩] s2 t ∧
        (if n = 0x205 then (t.core c.val).mxsaLatch else (t.core c.val).xsaLatch) = l)) ∧
    -- SVEC, MVEC and FVEC: the vector buffers are loaded
    (sysWriteAt n ≤ x.lvl → r.toNat < 16 → n = 0x106 ∨ n = 0x206 ∨ n = 0x10A →
      let k := x.ra (r.setWidth 4)
      k.tag = true → k.sealed = false → k.has 2 = true → k.cur + (if n = 0x10A then 0x80 else 32) ≤ k.top →
      exec (.cmts c r num) s = .next (s.completed c.val ic ⟨s1, c.val, 0, 0, false⟩ ((s1.reload c.val n (some k)).modCore c.val
        fun y => y.post (.csys n) k.bits k.tag 2) (.seq 1)) ∧
      ((s1.reload c.val n (some k)).Ready c.val → ∃ t, exec (.cmts c r num) s = .next t ∧
        PostedAll c.val [⟨.csys n, k.bits, k.tag, 2⟩] (s1.reload c.val n (some k)) t ∧
        (n ≠ 0x10A → ∀ bs s3, State.fetchGo c.val k (max x.lvl 1) (fetchParts k.cur 32) s1 = (some bs, s3) →
          SMap.get (dflt 0) (t.core c.val).vbuf (if n = 0x106 then 0 else 1) = BitVec.ofNat 256 (leNat bs))))

/-- Below S the instructions of level S raise 0x0A with their word and do nothing else first; CDOM does so below M, and an
access to a system register below its level too. -/
def Sys2Proof.Claims.PrivilegeIsChecked : Prop :=
  ∀ (s s1 : State) (c : Fin 230) (ic : Nat),
    s.Fetches c.val ic s1 → (s1.core c.val).delay = none → (s1.core c.val).frame = none →
    let x := s1.core c.val
    (∀ i w, supervisorOnly i = some (c, w) → x.lvl = 0 → exec i s = .next (s.raised s1 c.val ic 0x0A w)) ∧
    (∀ ad aa b, x.lvl < 2 →
      exec (.cdom c ad aa b) s =
        .next (s.raised s1 c.val ic 0x0A (encC ad.toNat aa.toNat b.toNat 0x0A))) ∧
    (∀ (r : BitVec 5) (num : BitVec 12), sysKind num.toNat = 1 → x.lvl < sysReadAt num.toNat →
      exec (.mfs c r num) s = .next (s.raised s1 c.val ic 0x0A (encS r.toNat false false num.toNat))) ∧
    (∀ (r : BitVec 5) (num : BitVec 12), sysKind num.toNat = 1 → sysWriteAt num.toNat < 3 → x.lvl < sysWriteAt num.toNat →
      exec (.mts c r num) s = .next (s.raised s1 c.val ic 0x0A (encS r.toNat true false num.toNat)))

/-- NOP only moves on. FENCE, once the frame buffer is empty, holds the next data access. WAITL completes every long operation in order.
PFLUSH clears the predictor. IFLUSHA empties the instruction cache and reloads the vector buffers. At S and M, DINVA empties the data
cache, DFLUSHA writes back and drops every line, BINV clears BT0-BT7 and translates both save areas again, and WFI waits while no source
is asserted (07 Table 7-11, R253, 06 R186, R200). -/
def Sys2Proof.Claims.OperandlessInstructionsDoTheirTableEffect : Prop :=
  ∀ (s s1 : State) (c : Fin 230) (ic : Nat),
    s.Fetches c.val ic s1 → (s1.core c.val).shadows = [] → (s1.core c.val).frame = none → s1.posted = [] →
    let x := s1.core c.val
    let r0 : Run := ⟨s1, c.val, 0, 0, false⟩
    let lines := x.dcache.map (·.1)
    let uI := (s1.modCore c.val fun y => { y with icache := [] }).reload c.val 0 none
    let uF := lines.foldl (fun u a => u.evict c.val a) { s1 with fresh := s1.fresh + x.dirtyOf lines }
    -- everything of a core but its caches, its latches and what the instruction names
    let keeps (t : State) : Prop := SameD x (t.core c.val) ∧ SameA x (t.core c.val) ∧ SameAcc x (t.core c.val) ∧
      MovesOn x (t.core c.val) ∧ SameMemory s1 t ∧ SameOtherCores c.val s1 t
    -- WAITL, with any long operations in flight
    (∃ t, exec (.waitl c) s = .next t ∧ (t.core c.val).longq = [] ∧
      (∀ p, (t.core c.val).dAt p = x.longq.foldl (fun v o => if o.dest = p then o.value else v) (x.dAt p)) ∧
      (t.core c.val).imprecise = x.imprecise ++ x.longq.filterMap (fun o => match o.event with
        | some k => if (if k = 0x0E then x.dze else x.ove) then some (k, o.cursor) else none
        | none => none) ∧
      SameA x (t.core c.val) ∧ SameAcc x (t.core c.val) ∧ SameSys x (t.core c.val) ∧ MovesOn x (t.core c.val) ∧ SameMemory s1 t ∧
      SameOtherCores c.val s1 t) ∧
    (x.longq = [] →
      (∃ t, exec (.nop c) s = .next t ∧ OnlyMovedOn c.val s1 t) ∧
      (∃ t, exec (.fence c) s = .next t ∧ OnlyMovedOn c.val s1 t ∧ (t.core c.val).fencing = true) ∧
      (∃ t, exec (.pflush c) s = .next t ∧ OnlyMovedOn c.val s1 t ∧ (t.core c.val).dir = [] ∧ (t.core c.val).gh = 0 ∧
        (t.core c.val).targets = [] ∧ (t.core c.val).ras = []) ∧
      -- IFLUSHA: where no vector is tagged there is none to load
      ((x.capSys 0x106).tag = false → (x.capSys 0x206).tag = false → (x.capSys 0x10A).tag = false →
        ∃ t, exec (.iflusha c) s = .next t ∧ OnlyMovedOn c.val s1 t ∧ (t.core c.val).icache = [] ∧ (t.core c.val).vbuf = x.vbuf) ∧
      exec (.iflusha c) s = .next (s.completed c.val ic r0 uI (.seq 258)) ∧
      (uI.Ready c.val → ∃ t, exec (.iflusha c) s = .next t ∧ OnlyMovedOn c.val uI t ∧ (t.core c.val).icache = [] ∧
        (t.core c.val).vbuf = (uI.core c.val).vbuf) ∧
      (1 ≤ x.lvl →
        (∃ t, exec (.dinva c) s = .next t ∧ OnlyMovedOn c.val s1 t ∧ (t.core c.val).dcache = []) ∧
        -- DFLUSHA: clean lines only leave; dirty ones are written back on their way out, as `State.evict` does
        ((∀ p ∈ x.dcache, p.2.dirty = false) →
          ∃ t, exec (.dflusha c) s = .next t ∧ OnlyMovedOn c.val s1 t ∧ ∀ a ∈ lines, (t.core c.val).line a = none) ∧
        (∃ w, (x.dirtyOf lines = 0 → w = 0) ∧ exec (.dflusha c) s = .next (s.completed c.val ic r0 uF (.seq (258 + w)))) ∧
        (uF.Ready c.val → ∃ t, exec (.dflusha c) s = .next t ∧ OnlyMovedOn c.val uF t ∧ ∀ a ∈ lines, (t.core c.val).line a = none) ∧
        -- BINV: an untagged save area keeps its latch, and one under identity translation is latched at its own address
        (let lies (k : Cap) : Prop := k.tag = true → s1.Direct c.val k.dom ∧ identityDevice (directAddr c.val k.cur) = false ∧
            k.cur % 4096 + 256 ≤ 4096
          let latch (k : Cap) (old : Latch) : Latch :=
            if k.tag then ⟨true, directAddr c.val k.cur, 256, directAddr c.val k.cur⟩ else old
          lies (x.capSys 0x105) → lies (x.capSys 0x205) →
          ∃ t, exec (.binv c) s = .next t ∧ keeps t ∧ (∀ i, i < 16 → (t.core c.val).sysReg (0x180 + i) = 0) ∧
            (∀ n, n ≠ 0 → n ≠ 1 → n < 0x180 ∨ 0x190 ≤ n → (t.core c.val).sysReg n = x.sysReg n) ∧ (t.core c.val).csys = x.csys ∧
            (t.core c.val).xsaLatch = latch (x.capSys 0x105) x.xsaLatch ∧
            (t.core c.val).mxsaLatch = latch (x.capSys 0x205) x.mxsaLatch) ∧
        (∃ t, exec (.wfi c) s = .next t ∧ OnlyMovedOn c.val s1 t ∧ (t.core c.val).waiting = decide (s1.asserted c.val = 0))))

/-- FENCE_COMPLETE ends a FENCE once the frame buffer is empty, and changes nothing else (07 R253). -/
def Sys2Proof.Claims.FenceCompletesAfterTheDrain : Prop :=
  ∀ (s : State) (c : Fin 230),
    (s.core c.val).fencing = true → (s.core c.val).frame = none →
    ∃ t, exec (.fenceComplete c) s = .next t ∧ t.core c.val = { s.core c.val with fencing := false } ∧
      SameOtherCores c.val s t ∧ { t with cores := s.cores } = s

/-- DFLUSH writes back the dirty lines of its range and drops them, DINV drops the lines it covers whole and flushes the others, IFLUSH
drops the range from the instruction cache and reloads the vector buffers; the whole range is translated first, a line at a time. Under
identity translation and with no dirty line to write back, nothing else changes (07 R254, 06 R205). -/
def Sys2Proof.Claims.CacheRangeInstructionsActOnEachLine : Prop :=
  ∀ (s s1 : State) (c : Fin 230) (ic : Nat) (aa : BitVec 4) (b : BitVec 5) (r : Run) (ps : List (Nat × Nat)),
    s.Fetches c.val ic s1 →
    let x := s1.core c.val
    let k := x.ra aa
    let n := (x.rd b).toNat
    let ls := rangeLines k.cur n
    let r0 : Run := ⟨s1, c.val, 0, 0, false⟩
    -- the lines of the range have left the data cache, and control moved on
    let dropped (t : State) : Prop := (∀ p ∈ ps, (t.core c.val).line p.2 = none) ∧ SameD x (t.core c.val) ∧ SameA x (t.core c.val) ∧
      SameAcc x (t.core c.val) ∧ MovesOn x (t.core c.val)
    let whole (va : Nat) : Prop := k.cur ≤ va / 64 * 64 ∧ va / 64 * 64 + 64 ≤ k.cur + n
    let at_ (va : Nat) : Nat := directAddr c.val (va % 2 ^ 44)
    let clean (va : Nat) : Prop := ∀ l, x.line (at_ va) = some l → l.dirty = false
    k.tag = true → k.sealed = false → n ≤ 4096 →
    (s1.Direct c.val k.dom → x.Quiet → s1.posted = [] →
      (k.rights &&& rLD = rLD → k.outside k.cur n = none → (∀ va ∈ ls, clean va) →
        ∃ t, exec (.dflush c aa b) s = .next t ∧ OnlyMovedOn c.val s1 t ∧ ∀ va ∈ ls, (t.core c.val).line (at_ va) = none) ∧
      (k.rights &&& rST = rST → k.outside k.cur n = none → (∀ va ∈ ls, ¬whole va → clean va) →
        ∃ t, exec (.dinv c aa b) s = .next t ∧ OnlyMovedOn c.val s1 t ∧ ∀ va ∈ ls, (t.core c.val).line (at_ va) = none) ∧
      ((x.capSys 0x106).tag = false → (x.capSys 0x206).tag = false → (x.capSys 0x10A).tag = false →
        ∃ t, exec (.iflush c aa b) s = .next t ∧ OnlyMovedOn c.val s1 t ∧ ∀ va ∈ ls, at_ va / 64 * 64 ∉ (t.core c.val).icache)) ∧
    (k.rights &&& rLD = rLD → k.outside k.cur n = none → linesGo k .read ls r0 = .ok ps r →
      let m := x.dirtyOf (ps.map (·.2))
      ∃ w, (m = 0 → w = 0) ∧ exec (.dflush c aa b) s = .next (s.completed c.val ic r
        (ps.foldl (fun u p => u.evict c.val p.2) { r.st with fresh := r.st.fresh + m }) (.seq (2 + ps.length + w))) ∧
      (State.Ready (ps.foldl (fun u p => u.evict c.val p.2) { r.st with fresh := r.st.fresh + m }) c.val →
        ∃ t, exec (.dflush c aa b) s = .next t ∧ dropped t)) ∧
    (k.rights &&& rST = rST → k.outside k.cur n = none → linesGo k .write ls r0 = .ok ps r →
      let m := x.dirtyOf ((ps.filter fun p => ¬whole p.1).map (·.2))
      ∃ w, (m = 0 → w = 0) ∧ exec (.dinv c aa b) s = .next (s.completed c.val ic r
        (ps.foldl (fun u p => if whole p.1 then u.modCore c.val fun y => y.dropLine p.2 else u.evict c.val p.2)
          { r.st with fresh := r.st.fresh + m }) (.seq (2 + ps.length + w))) ∧
      (State.Ready (ps.foldl (fun u p => if whole p.1 then u.modCore c.val fun y => y.dropLine p.2 else u.evict c.val p.2)
          { r.st with fresh := r.st.fresh + m }) c.val →
        ∃ t, exec (.dinv c aa b) s = .next t ∧ dropped t)) ∧
    (linesGo k .any ls r0 = .ok ps r →
      exec (.iflush c aa b) s = .next (s.completed c.val ic r ((r.st.modCore c.val fun y =>
        { y with icache := ps.foldl (fun l p => nsDel l (p.2 / 64 * 64)) y.icache }).reload c.val 0 none) (.seq (2 + ps.length))) ∧
      (((r.st.modCore c.val fun y => { y with icache := ps.foldl (fun l p => nsDel l (p.2 / 64 * 64)) y.icache }).reload
          c.val 0 none).Ready c.val →
        ∃ t, exec (.iflush c aa b) s = .next t ∧ SameD x (t.core c.val) ∧ SameA x (t.core c.val) ∧ SameAcc x (t.core c.val) ∧
          MovesOn x (t.core c.val) ∧
          (t.core c.val).icache = ps.foldl (fun l p => nsDel l (p.2 / 64 * 64)) (r.st.core c.val).icache))

/-- A dirty line that leaves the cache with right parity and no uncorrectable word is written to its 64 bytes of memory and to no other byte. -/
def Sys2Proof.Claims.WriteBackStoresTheLine : Prop :=
  ∀ (s s' : State) (c a : Nat) (l : DLine),
    (s.core c).line a = some l → l.dirty = true → l.parity = false → (∀ p ∈ l.upset, p.2 < 2) →
    (s.coreEv c 1 6 1 (s.core c).pcc.cur).busWrite (coreAttr c l.dom l.priv) kWriteBack (a / 64 * 64) (natLE 64 l.data.toNat) none
      = (.ok, s') →
    isRegPlace (s.loc (a / 64 * 64)) = false → (∀ h off, s.loc (a / 64 * 64) ≠ .egress h off) →
    s.dramDown (a / 64 * 64) = false →
    memReadN (s.evict c a).mem (a / 64 * 64) 64 = natLE 64 l.data.toNat ∧
    SameMemoryOutside s (s.evict c a) (a / 64 * 64) 64 ∧ ((s.evict c a).core c).line a = none

/-- TRAP raises 0x10 with its immediate, BREAK 0x11 with its address, an illegal word 0x09 with the word; outside a delay slot, with the
save area valid, that is an entry at the level of 06 Table 6-5, but for TRAP 0x7F01 at U and a fault of a program, which end the program. -/
def Sys2Proof.Claims.TrapsRaiseTheirCause : Prop :=
  ∀ (s s1 : State) (c : Fin 230) (ic : Nat) (imm : BitVec 16) (word : BitVec 32),
    s.Fetches c.val ic s1 →
    let x := s1.core c.val
    (x.delay = none → exec (.trap c imm) s = .next (s.raised s1 c.val ic 0x10 imm.toNat)) ∧
    exec (.brk c) s = .next (s.raised s1 c.val ic 0x11 x.pcc.cur) ∧
    (decodeCore c word = none → exec (.illegalInstruction c word) s = .next (s.raised s1 c.val ic 0x09 word.toNat)) ∧
    (s1.posted = [] → ∀ l,
      (l = (if x.lvl = 0 then 1 else 2) → x.CanEnter l → (x.lvl = 0 → imm.toNat ≠ 0x7F01) →
        ∃ t, exec (.trap c imm) s = .next t ∧ Entered c.val l 0x10 imm.toNat s1 t) ∧
      (l = (if x.lvl = 2 then 2 else 1) → x.CanEnter l →
        ∃ t, exec (.brk c) s = .next t ∧ Entered c.val l 0x11 x.pcc.cur s1 t) ∧
      (l = (if x.lvl = 2 then 2 else 1) → x.CanEnter l → decodeCore c word = none → (x.lvl = 0 → s1.inProgram c.val = false) →
        ∃ t, exec (.illegalInstruction c word) s = .next t ∧ Entered c.val l 0x09 word.toNat s1 t))

/-- Taking an exception to level t saves PCC in EPCC, PSTAT in ESTAT, the cause with BD in ECAUSE, EVAL and ETGT, sets LVL to t
and IE to 0, gives A0 the save area, moves PCC to the vector, and puts the frame in the buffer; memory is as before. -/
def Sys2Proof.Claims.ExceptionEntrySavesAndVectors : Prop :=
  ∀ (s : State) (c t : Nat) (resume etgt : Cap) (code eval : Nat) (bd : Bool),
    let x := s.core c
    let b := if t = 2 then 0x200 else 0x100
    t = 1 ∨ t = 2 → x.shadows = [] → x.longq = [] → x.frame = none → x.fb = false → (if t = 2 then x.mxsaLatch else x.xsaLatch).valid = true →
    code ≠ 0x0C → code ≠ 0x0D → code < 2 ^ 11 →
    let s' := s.except c t resume etgt code eval false bd
    let y := s'.core c
    y.capSys b = resume ∧ y.capSys (b + 4) = etgt ∧ y.sysReg (b + 1) = x.sysReg 0 ∧
      y.sysReg (b + 2) = BitVec.ofNat 64 (code + (if bd then 256 else 0)) ∧ y.sysReg (b + 3) = BitVec.ofNat 64 eval ∧
      y.pcc = x.capSys (b + 6) ∧ y.lvl = t ∧ y.ie = false ∧ y.cwp = x.cwp ∧ y.aAt 0 = x.capSys (b + 5) ∧
      (∀ p, p ≠ 0 → y.aAt p = x.aAt p) ∧ SameD x y ∧ SameAcc x y ∧ y.delay = none ∧ y.frame.isSome = true ∧
      s'.mem = s.mem ∧ s'.tags = s.tags

/-- A second exception while the frame cannot be kept is a double fault: it goes to M with cause 0x12, sets DFBUSY,
clears FB and gives A0 the fixed monitor area; with DFBUSY already 1 the core halts. -/
def Sys2Proof.Claims.DoubleFaultsGoToTheMonitor : Prop :=
  ∀ (s : State) (c t : Nat) (resume etgt : Cap) (code eval : Nat) (win bd : Bool),
    let x := s.core c
    let s' := s.except c t resume etgt code eval win bd
    x.shadows = [] → x.frame = none →
    win = true ∨ x.fb = true ∨ (if t = 2 then x.mxsaLatch else x.xsaLatch).valid = false →
    (getBits (x.sysReg 0x207) 0 1 = 1 → (s'.core c).halted = true ∧ (s'.core c).running = false ∧ s'.mem = s.mem) ∧
    (getBits (x.sysReg 0x207) 0 1 = 0 →
      (s'.core c).lvl = 2 ∧ (s'.core c).fb = false ∧ (s'.core c).ie = false ∧ (s'.core c).pcc = x.capSys 0x206 ∧
      (s'.core c).capSys 0x200 = resume ∧ (s'.core c).sysReg 0x201 = x.sysReg 0 ∧
      getBits ((s'.core c).sysReg 0x202) 0 8 = 0x12 ∧ (s'.core c).aAt 0 = monitorCap c ∧ getBits ((s'.core c).sysReg 0x207) 0 1 = 1)

/-- RETX restores PSTAT from ESTAT (with FB cleared at S) and goes to EPCC, or to ETGT after the slot at EPCC when BD is set;
RETF restores FESTAT with FB cleared and goes to FEPCC. -/
def Obligations.ReturnsRestoreWhatEntrySaved : Prop :=
  ∀ (s s1 : State) (c : Fin 230) (ic : Nat),
    s.Fetches c.val ic s1 → (s1.core c.val).Quiet → (s1.core c.val).delay = none → (s1.core c.val).frame = none →
    s1.posted = [] →
    let x := s1.core c.val
    (∀ b, (x.lvl = 1 ∧ b = 0x100) ∨ (x.lvl = 2 ∧ b = 0x200) →
      let k := x.capSys b
      let g := x.capSys (b + 4)
      let bd := getBits (x.sysReg (b + 2)) 8 1 = 1
      getBits (x.sysReg (b + 1)) 0 2 ≤ x.lvl → k.tag = true → k.sealed = false → k.has 2 = true → k.cur % 4 = 0 →
      (bd → g.tag = true ∧ g.sealed = false ∧ g.has 2 = true ∧ g.cur % 4 = 0) →
      ∃ t, exec (.retx c) s = .next t ∧ (t.core c.val).pcc = k ∧
        (t.core c.val).sysReg 0 = (if x.lvl = 1 then putBits (x.sysReg (b + 1)) 12 1 0 else x.sysReg (b + 1)) ∧
        (bd → (t.core c.val).delay = some ⟨g, .none⟩) ∧ (¬bd → (t.core c.val).delay = none) ∧
        SameD x (t.core c.val) ∧ SameA x (t.core c.val) ∧ SameAcc x (t.core c.val) ∧ SameSys x (t.core c.val) ∧ SameMemory s1 t) ∧
    (1 ≤ x.lvl → x.fb = true →
      ∃ t, exec (.retf c) s = .next t ∧ (t.core c.val).pcc = x.capSys 0x108 ∧ (t.core c.val).delay = none ∧
        (t.core c.val).sysReg 0 = putBits (x.sysReg 0x109) 12 1 0 ∧
        SameD x (t.core c.val) ∧ SameA x (t.core c.val) ∧ SameAcc x (t.core c.val) ∧ SameSys x (t.core c.val) ∧ SameMemory s1 t) ∧
    (1 ≤ x.lvl → x.fb = false → exec (.retf c) s = .next (s.raised s1 c.val ic 0x09 (encX 0x08 0)))

/-- A fast interrupt saves PCC in FEPCC and PSTAT in FESTAT, sets FB and raises U to S, and goes to FVEC for TIDE, whose
pending bit it clears, or to FVEC + 0x40 for LATTICE; a normal one enters its level with the lowest asserted source of
bits 8-12, where no fast one can be taken. -/
def Sys2Proof.Claims.InterruptsEnterByTheirSource : Prop :=
  ∀ (s : State) (c : Fin 230),
    let x := s.core c.val
    let a := s.asserted c.val
    s.interruptible c.val = true → x.shadows = [] → x.longq = [] → x.frame = none → s.posted = [] →
    (x.fe = true → x.lvl ≠ 2 → a % 4 ≠ 0 →
      ∃ t, exec (.fastInterruptEntry c) s = .next t ∧
        (t.core c.val).capSys 0x108 = x.pcc ∧ (t.core c.val).sysReg 0x109 = x.sysReg 0 ∧ (t.core c.val).fb = true ∧
        (t.core c.val).lvl = max x.lvl 1 ∧
        (t.core c.val).pcc = (if a % 2 = 1 then x.capSys 0x10A else (x.capSys 0x10A).adv 0x40) ∧
        (a % 2 = 1 → getBits ((t.core c.val).sysReg 8) 0 1 = 0) ∧
        SameD x (t.core c.val) ∧ SameA x (t.core c.val) ∧ SameAcc x (t.core c.val) ∧ t.mem = s.mem) ∧
    (x.ie = true → (x.fe = true → x.lvl ≠ 2 → a % 4 = 0) →
      ∀ b, 8 ≤ b → b < 13 → a.testBit b = true → (∀ j, 8 ≤ j → j < b → a.testBit j = false) →
      exec (.normalInterruptEntry c) s = .next (({ s with stalled := false }.abandon c.val).except c.val
        (max x.lvl 1) x.pcc Cap.null (b + 0x400) 0 false false) ∧
      (x.lvl ≤ 2 → (if x.lvl = 2 then x.mxsaLatch else x.xsaLatch).valid = true →
        ∃ t, exec (.normalInterruptEntry c) s = .next t ∧ Entered c.val (max x.lvl 1) (b + 0x400) 0 s t))

/-- FRAME_DRAIN_COMPLETE writes the ten granules of the frame to the save area at its latch and empties the buffer; no register and no
other byte of memory changes. Where the first write is denied, the core takes the double fault with the cause of the frame, at M. -/
def Sys2Proof.Claims.TheFrameDrainsToTheSaveArea : Prop :=
  ∀ (s : State) (c : Fin 230) (f : FrameBuf),
    (s.core c.val).frame = some f → s.coreActs c.val = true → s.posted = [] →
    let x := s.core c.val
    let b := coreAttr c.val f.dom f.level
    let g (o : Nat) : Nat := f.dest.at o
    (f.bytes.length = 160 → (∀ o ∈ frameGranules, g o % 16 = 0 ∧ s.Lands b (g o) 16 ∧ s.uncorr (g o) 16 = false) →
      (∀ o ∈ frameGranules, ∀ u ∈ frameGranules, o ≠ u → g o ≠ g u) →
      ∃ t, exec (.frameDrainComplete c) s = .next t ∧ (t.core c.val).frame = none ∧
        (∀ o ∈ frameGranules, memReadN t.mem (g o) 16 = (f.bytes.drop o).take 16) ∧
        (∀ a, (∀ o ∈ frameGranules, a < g o ∨ g o + 16 ≤ a) → memRead t.mem a = memRead s.mem a) ∧
        SameD x (t.core c.val) ∧ SameA x (t.core c.val) ∧ SameAcc x (t.core c.val) ∧ (t.core c.val).pcc = x.pcc ∧
        (∀ n, (t.core c.val).sysReg n = x.sysReg n) ∧ SameOtherCores c.val s t) ∧
    ((s.reaches b kWrite (g 0)).1 = .denied → getBits (x.sysReg 0x207) 0 1 = 0 → x.Quiet →
      ∃ t, exec (.frameDrainComplete c) s = .next t ∧ (t.core c.val).frame = none ∧ (t.core c.val).lvl = 2 ∧
        (t.core c.val).pcc = x.capSys 0x206 ∧ (t.core c.val).capSys 0x200 = x.pcc ∧
        getBits ((t.core c.val).sysReg 0x202) 0 8 = 0x12 ∧ (t.core c.val).sysReg 0x203 = BitVec.ofNat 64 (f.cause + 0x200) ∧
        (t.core c.val).aAt 0 = monitorCap c.val ∧ getBits ((t.core c.val).sysReg 0x207) 0 1 = 1)

/-- SEED loads the LFSR and starts an interval; the expiry of a countdown that stands at 0 tags the next instruction, or counts a dropped one while
a record is held, and starts the next interval. -/
def Sys2Proof.Claims.SamplingIntervalsFollowTheLfsr : Prop :=
  ∀ (s : State) (c : Fin 230) (v : BitVec 32),
    let b := sampBase c.val
    let step (n : Nat) : Nat := if n % 2 = 1 then (n / 2) ^^^ 0x80200003 else n / 2
    s.dieActs (coreDie c.val) = true →
    (v ≠ 0 → ∃ t, exec (.seed c v) s = .next t ∧ t.fld (b + 8) 0 32 = step v.toNat ∧
      (t.core c.val).countdown = 2 ^ (s.fld b 2 5 - 1) + step v.toNat % 2 ^ s.fld b 2 5 ∧ t.mem = s.mem ∧
      SameOtherCores c.val s t ∧ SameRegsBut [b + 8] s t) ∧
    (s.bit b 0 = true → (s.core c.val).countdown = 0 → ∃ t, exec (.sampleCountdownExpiry c) s = .next t ∧
      (s.bit (b + 0x10) 63 = false → (t.core c.val).tagged = true ∧ SameRegsBut [b + 8] s t) ∧
      (s.bit (b + 0x10) 63 = true → (t.core c.val).tagged = (s.core c.val).tagged ∧
        t.fld (b + 0x28) 0 32 = min (2 ^ 32 - 1) (s.fld (b + 0x28) 0 32 + 1)) ∧
      t.fld (b + 8) 0 32 = step (s.fld (b + 8) 0 32) ∧ t.mem = s.mem ∧ SameOtherCores c.val s t)

/-! ### Block tables -/

/-- A walk that finds exactly one valid entry for its address, its A bit set, places a copy of it: the lowest-numbered invalid copy, else
the round-robin one. The D update of a copy sets D in the entry it names and in the copy. XBINV discards the engines' copies of the named
domains, and GVINFO_CLEAR clears a gate's record. -/
def Obligations.WalksPlaceAndXbinvDiscardsCopies : Prop :=
  (∀ (s : State) (w : Walker) (dom : BitVec 4) (va : BitVec 44) (i : Nat),
    let r := walkerReq w
    let dtb := s.dtb (reqDie r) dom.toNat
    let n := getBits dtb 0 9
    let at_ (j : Nat) : Nat := getBits dtb 12 32 * 4096 + 16 * j
    let ent (j : Nat) : BitVec 128 := BitVec.ofNat 128 (leNat (memReadN s.mem (at_ j) 16))
    getBits dtb 63 1 = 1 → (∀ j, j < n → s.inDram (at_ j) = true ∧ s.inDram (at_ j + 15) = true) →
    (∀ j, j < n → j % 4 = 0 → s.Admits (walkAttr r dom.toNat) kWalkRead (at_ j) ∧ s.uncorr (at_ j) (16 * min 4 (n - j)) = false) →
    i < n → btV (ent i) = true → btHolds (ent i) va.toNat = true → btField (ent i) 1 1 = 1 →
    (∀ j, j < n → btV (ent j) = true → btMalformed (ent j) dom.toNat = false ∧ (j ≠ i → btHolds (ent j) va.toNat = false)) →
    s.copyPtr r dom.toNat < 8 →
    ∃ t, exec (.blockWalk w dom va) s = .next t ∧ t.mem = s.mem ∧
      ∃ j, j < 8 ∧ t.copyAt r dom.toNat j = btCopy (ent i) i ∧ (∀ k, k < 8 → k ≠ j → t.copyAt r dom.toNat k = s.copyAt r dom.toNat k) ∧
        (∀ k, k < 8 → btV (s.copyAt r dom.toNat k) = false → j ≤ k ∧ btV (s.copyAt r dom.toNat j) = false) ∧
        ((∀ k, k < 8 → btV (s.copyAt r dom.toNat k) = true) → j = s.copyPtr r dom.toNat)) ∧
  (∀ (s : State) (w : Walker) (dom : BitVec 4) (copy : Fin 8),
    let r := walkerReq w
    let e := s.copyAt r dom.toNat copy.val
    let d := btDom e
    let a := s.entryOf r d copy.val
    let held : BitVec 128 := BitVec.ofNat 128 (e.toNat % 2 ^ 96)
    s.copyAt r d copy.val = e → btV e = true → btField e 2 1 = 0 → (d = 0 → getBits (s.dtb (reqDie r) 0) 63 1 = 1) →
    s.inDram a = true → s.inDram (a + 15) = true → s.Admits (walkAttr r d) kWalkUpdate a → s.uncorr a 16 = false →
    s.dramDown a = false → BitVec.ofNat 128 (leNat (memReadN s.mem a 16)) = btClear held 2 →
    ∃ t, exec (.dirtyUpdate w dom copy) s = .next t ∧ t.copyAt r d copy.val = btSet e 2 ∧
      memReadN t.mem a 16 = natLE 16 (btSet held 2).toNat ∧ SameMemoryOutside s t a 16) ∧
  (∀ (s s2 : State) (w : Walker) (dom : BitVec 4) (va : BitVec 44) (i : Nat) (e : BitVec 128),
    let r := walkerReq w
    let d := reqDie r
    let s1 := { s with stalled := false }.count d (gateUnit d) 7 2 1 ⟨some (reqWalkMid r), some 1, some va.toNat⟩
    let dtb := s.dtb d dom.toNat
    getBits dtb 63 1 = 1 →
    State.walkScan r dom.toNat (getBits dtb 12 32 * 4096) va.toNat (getBits dtb 0 9) 0 none s1 = (.hit i e, s2) →
    btField e 1 1 = 1 → s2.stalled = false → exec (.blockWalk w dom va) s = .next (s2.placeCopy r dom.toNat (btCopy e i)) ∧
      ∃ t, exec (.blockWalk w dom va) s = .next t ∧ t.mem = s2.mem ∧ t.regs = s2.regs ∧
        (s2.copyPtr r dom.toNat < 8 → ∃ j, j < 8 ∧ t.copyAt r dom.toNat j = btCopy e i ∧
          ∀ k, k < 8 → k ≠ j → t.copyAt r dom.toNat k = s2.copyAt r dom.toNat k)) ∧
  (∀ (s : State) (w : Walker) (dom : BitVec 4) (copy : Fin 8) (s' : State),
    let r := walkerReq w
    let e := s.copyAt r dom.toNat copy.val
    btV e = true → btField e 2 1 = 0 → (btDom e = 0 → getBits (s.dtb (reqDie r) 0) 63 1 = 1) → s.copyAt r (btDom e) copy.val = e →
    { s with stalled := false }.dirty r (btDom e) copy.val = (.made, s') → s'.stalled = false →
    exec (.dirtyUpdate w dom copy) s = .next s' ∧
    ∃ t, exec (.dirtyUpdate w dom copy) s = .next t ∧ btField (t.copyAt r (btDom e) copy.val) 2 1 = 1 ∧ t.mem = s'.mem) ∧
  (∀ (s : State) (d : Fin 8) (doms : BitVec 16),
    s.dieActs d.val = true → ∃ t, exec (.xbinv d doms) s = .next t ∧ { t with walkCopies := s.walkCopies } = s ∧
      ∀ e, e ∈ t.walkCopies ↔ (e ∈ s.walkCopies ∧
        ¬(e.1 / 128 ∈ (if d.val < 2 then [d.val, 14 + d.val] else [2 * d.val - 2, 2 * d.val - 1]) ∧
          doms.toNat.testBit (e.1 / 8 % 16) = true))) ∧
  (∀ (s : State) (d : Fin 8) (g : Fin 100), (d.val < 2 → g.val < 24) → s.dieActs d.val = true →
    ∃ t, exec (.gvinfoClear d g) s = .next t ∧ t.bit (gateReg d.val g.val + 0x18) 63 = false ∧
      t.rg (gateReg d.val g.val + 0x20) = 0 ∧ SameRegsBut [gateReg d.val g.val + 0x18, gateReg d.val g.val + 0x20] s t ∧
      { t with regs := s.regs } = s)

/-! ### The tide -/

/-- Both generators take the next position at a tick, or the PTP-derived one where a step is due outside RUN, DEGRADED and
HOLD; a tick message waits at its die, and its flits are counted; nothing else changes. -/
def Sys2Proof.Claims.TheTideAdvancesByOnePosition : Prop :=
  (∀ (s : State) (p : BitVec 56), s.active < 2 →
    ∃ t, exec (.tideGeneratorTick p) s = .next t ∧ { t with gens := s.gens } = s ∧
      ∀ h, h < 2 → (t.gen h).pos =
        (if (s.gen s.active).stepDue = true ∧ s.live = false then p.toNat else ((s.gen s.active).pos + 1) % 2 ^ 56)) ∧
  (∀ (s : State) (d : Fin 8) (h : Fin 2) (p : BitVec 56), d.val ∉ s.fenced → s.dieActs h.val = true →
    ∃ t, exec (.tickMessage d h p) s = .next t ∧ { t with dies := s.dies, ctrs := s.ctrs } = s ∧ (s.ctrs = [] → t.ctrs = []) ∧
      (if h.val = 0 then (t.die d.val).msg0 else (t.die d.val).msg1) = some p.toNat ∧
      (∀ e, e ≠ d.val → t.die e = s.die e))

/-- A generator in ACQUIRE without valid time goes FREE at the timeout, where it ticks at the nominal rate, one with a phase error of at most 100 ns is LOCKED, and
one that is LOCKED enters HOLDOVER when time is lost, which in RUN, DEGRADED and HOLD sets UNLOCK with its trouble bit. -/
def Sys2Proof.Claims.GeneratorStatesFollowTheirEvents : Prop :=
  ∀ (s : State), s.active < 2 →
    let a := hubReg s.active 6
    let frame (t : State) : Prop := t.mem = s.mem ∧ t.cores = s.cores ∧ SameRegsBut [hubReg 0 6, hubReg 1 6] s t
    (s.fld a 0 2 = 1 → (s.gen s.active).valid = false →
      ∃ t, exec .acquireTimeout s = .next t ∧ t.fld a 0 2 = 0 ∧ (t.gen s.active).freqPpb = 0 ∧ frame t ∧ t.troubles = s.troubles) ∧
    (s.fld a 0 2 = 1 → (s.gen s.active).valid = true → (signed 16 (s.fld a 16 16)).natAbs ≤ 100 →
      ∃ t, exec .lockQualified s = .next t ∧ t.fld a 0 2 = 2 ∧ frame t ∧ t.troubles = s.troubles) ∧
    (s.fld a 0 2 = 2 → (s.gen s.active).valid = false →
      ∃ t, exec .holdoverEntry s = .next t ∧ t.fld a 0 2 = 3 ∧ frame t ∧
        (s.live = true → t.bit a 32 = true ∧ ∃ st, t.troubles = s.troubles ++ [⟨34 + 3 * s.active, 0, st⟩]) ∧
        (s.live = false → t.troubles = s.troubles))

/-- A die that is not fenced takes the position of the active hub's message where it is new, and clears both messages; a die in
HOLD takes the position and does no work, any other does its tick's work, which within a quarter of a block on an idle lattice die leaves
all but the position and the cores as it was. -/
def Sys2Proof.Claims.LocalTicksTakeTheActiveHubsPosition : Prop :=
  ∀ (s : State) (d : Fin 8) (gauge : BitVec 16) (pos : Nat),
    let x := s.die d.val
    d.val ∉ s.fenced →
    ((if s.active = 0 then x.msg0 else x.msg1) = some pos → (x.tideValid = true → pos ≠ x.tide) → s.tickPos d.val = some pos) ∧
    (s.tickPos d.val = some pos →
      let gap := x.tideValid && pos != (x.tide + 1) % 2 ^ 56
      let s1 := s.setDie d.val { x with tide := pos, tideValid := true, msg0 := none, msg1 := none }
      let s2 := s1.setRg (hubReg d.val 6 + 8) (BitVec.ofNat 64 (pos + 2 ^ 63))
      (d.val ∈ s.held → exec (.localTideTick d gauge) s = .next (if d.val < 2 then s2 else s1)) ∧
      -- within a quarter of a block outside RUN and DEGRADED a lattice die's tick changes the position and the cores' TIDE sources
      (d.val ∉ s.held → 2 ≤ d.val → gap = false → s.live = false → pos % 4 ≠ 0 → s.posted = [] →
        ∃ t, exec (.localTideTick d gauge) s = .next t ∧ (t.die d.val).tide = pos ∧ (t.die d.val).tideValid = true ∧
          (t.die d.val).msg0 = none ∧ (t.die d.val).msg1 = none ∧ (∀ e, e ≠ d.val → t.die e = s.die e) ∧
          { t with dies := s.dies, cores := s.cores } = s) ∧
      (d.val ∉ s.held → d.val < 2 →
        exec (.localTideTick d gauge) s = .next (s2.hubTick d.val pos gap gauge.toNat).settle) ∧
      (d.val ∉ s.held → 2 ≤ d.val →
        exec (.localTideTick d gauge) s = .next (s1.latticeTick (d.val - 2) pos x.tide gap gauge.toNat).settle))

/-! ### HOLD, supplies and power -/

/-- A die whose supply falls to the HOLD threshold rests: it is in HOLD, its trouble bit is set, and from RUN or DEGRADED the
device is in HOLD; memory and the cores keep their state. -/
def Sys2Proof.Claims.HoldEntryKeepsTheState : Prop :=
  ∀ (s : State) (d : Fin 8), d.val ∉ s.fenced → d.val ∉ s.held → (s.die d.val).up = true →
    ∃ t, exec (.supplyHoldEntry d) s = .next t ∧ d.val ∈ t.held ∧ t.mem = s.mem ∧ t.cores = s.cores ∧
      (s.dev = 3 ∨ s.dev = 4 → t.dev = 5 ∧ t.devBack = s.dev) ∧ (s.dev ≠ 3 → s.dev ≠ 4 → t.dev = s.dev) ∧
      (t.die d.val).exitMet = false ∧ (t.die d.val).holdFrom = (s.die d.val).tide ∧
      (2 ≤ d.val → ∃ st, t.troubles = s.troubles ++ [⟨16 + d.val, 3, st⟩]) ∧
      (d.val < 2 → ∃ st, t.troubles = s.troubles ++ [⟨36 + 3 * d.val, 1, st⟩])

/-- Above the exit threshold the count of 100 µs starts, below it the count stops, and at its end the exit condition is met; the
hubs' notice is recorded. Only the held die's record changes. -/
def Sys2Proof.Claims.TheHoldExitConditionIsCounted : Prop :=
  ∀ (s : State) (d : Fin 8) (n : Fin 6),
    let only (d : Nat) (t : State) : Prop := { t with dies := s.dies } = s ∧ ∀ e, e ≠ d → t.die e = s.die e
    (d.val ∈ s.held → (s.die d.val).exitMet = false →
      ∃ t, exec (.supplyHoldExitRise d) s = .next t ∧ only d.val t ∧ t.die d.val = { s.die d.val with exitCount := true }) ∧
    (d.val ∈ s.held →
      ∃ t, exec (.supplyExitThresholdFall d) s = .next t ∧ only d.val t ∧ t.die d.val = { s.die d.val with exitCount := false }) ∧
    (d.val ∈ s.held → (s.die d.val).exitCount = true →
      ∃ t, exec (.holdExitCondition d) s = .next t ∧ only d.val t ∧
        t.die d.val = { s.die d.val with exitCount := false, exitMet := true }) ∧
    (n.val + 2 ∈ s.held →
      ∃ t, exec (.holdNotice n) s = .next t ∧ only (n.val + 2) t ∧
        t.die (n.val + 2) = { s.die (n.val + 2) with noticed := true }) ∧
    (∃ t, exec (.supplyUp d) s = .next t ∧ only d.val t ∧ t.die d.val = { s.die d.val with up := true })

/-- A held hub's notice turns the dies' output stages to the other hub, which takes the roles of the held one. -/
def Sys2Proof.Claims.HubHoldMovesTheDuties : Prop :=
  ∀ (s : State) (h : Fin 2), h.val ∈ s.held → (s.die h.val).noticed = false → s.dieActs (1 - h.val) = true →
    ∃ t, exec (.hubHoldNotice h) s = .next t ∧
      (t.die h.val).noticed = true ∧ t.hostWait = true ∧ t.mem = s.mem ∧ t.cores = s.cores ∧ t.held = s.held ∧
      t.active = (if s.active = h.val then 1 - h.val else s.active) ∧
      (s.active = h.val → t.canActive = 1 - h.val ∧ t.session = false) ∧
      ∀ n, n < 6 → (if h.val = 0 then (t.die (n + 2)).hub0 else (t.die (n + 2)).hub1) = false

/-- At a block boundary with the exit condition met a lattice die leaves HOLD with no render work left over; a hub leaves HOLD, is
written to again, plays every output from 0, and frees each egress slot but those whose next playout is of a block that was written
before the HOLD. -/
def Sys2Proof.Claims.DiesRejoinAtABlockBoundary : Prop :=
  (∀ (s : State) (d : Fin 6), d.val + 2 ∈ s.held → (s.die (d.val + 2)).exitMet = true → (s.die (d.val + 2)).tide % 16 = 0 →
    ∃ u : State, exec (.dieRejoin d) s = .next u.settle ∧ d.val + 2 ∉ u.held ∧ (∀ k, k < 25 → (u.cl d.val k).busy = false) ∧
      (s.dev = 5 → s.held = [d.val + 2] → u.dev = s.devBack)) ∧
  (∀ (s : State) (h : Fin 2), h.val ∈ s.held → (s.die h.val).exitMet = true → (s.die h.val).tide % 16 = 0 →
    s.dieActs s.active = true → s.active ≠ h.val →
    let r := (s.die h.val).tide / 16
    ∃ u : State, exec (.hubRejoin h) s = .next u.settle ∧ h.val ∉ u.held ∧
      (∀ n, n < 6 → (if h.val = 0 then (u.die (n + 2)).hub0 else (u.die (n + 2)).hub1) = true) ∧
      (∀ o, (u.outPlayOf h.val o).p = 0 ∨ 16384 ≤ o) ∧
      (∀ q, q < 4 → (s.die h.val).holdFrom / 16 < r - 1 - (r + 3 - q) % 4 + 2 → 4 * h.val + q ∉ u.latched))

/-- A HOLD of more than 50 ms, a fall below the reset threshold and 140 °C reset a die: a lattice die is fenced, a hub is too,
and with the other hub fenced already the whole device starts again. -/
def Sys2Proof.Claims.ResettingADieFencesIt : Prop :=
  ∀ (s : State) (d : Fin 8) (temp : BitVec 32),
    let reset (u : State) : State :=
      if 2 ≤ d.val then u.dieFence (d.val - 2)
      else if d.val ∈ u.fenced then u
      else if 1 - d.val ∈ u.fenced then u.powerUp u.straps
      else u.hubFence d.val
    -- the die is fenced, and RUN has become DEGRADED; a device whose other hub was fenced starts again in BOOT
    let after (u t : State) : Prop :=
      (d.val ∉ u.fenced → (2 ≤ d.val ∨ 1 - d.val ∉ u.fenced) → d.val ∈ t.fenced ∧ d.val ∉ t.held ∧ (u.dev = 3 → t.dev = 4)) ∧
      (d.val ∉ u.fenced → d.val < 2 → 1 - d.val ∈ u.fenced → t.dev = 0 ∧ t.mem = [] ∧ t.cores = [] ∧ t.fenced = [])
    (d.val ∈ s.held → ∃ t, exec (.holdTimeout d) s = .next t ∧ after s t) ∧
    (∃ t, exec (.supplyResetCrossing d) s = .next t ∧ after s t) ∧
    (140 ≤ temp.toInt → ∃ t, exec (.thermalTrip d temp) s = .next t ∧ after s t) ∧
    (∀ (h : Fin 2) (m : Fin 8),
      (∃ t, exec (.otherSupplyOutOfRange (.vddq m)) s = .next t ∧ t.chanFailed (m.val / 4) (m.val % 4) = true ∧ t.mem = s.mem) ∧
      (∃ t, exec (.otherSupplyOutOfRange (.vddSd h)) s = .next t ∧ h.val ∈ t.sdDown ∧ t.mem = s.mem ∧
        2 * h.val ∉ t.up ∧ 2 * h.val + 1 ∉ t.up) ∧
      (∃ t, exec (.otherSupplyOutOfRange (.vddhSd h)) s = .next t ∧ h.val ∈ t.sdDown ∧ t.mem = s.mem ∧
        2 * h.val ∉ t.up ∧ 2 * h.val + 1 ∉ t.up) ∧
      (∃ t, exec (.otherSupplyOutOfRange .vddio) s = .next t ∧ t.dev = 0 ∧ t.mem = [] ∧ t.cores = []) ∧
      (d.val = h.val → ∃ t, exec (.otherSupplyOutOfRange (.vdda h)) s = .next t ∧ after s t)) ∧
    (d.val ∈ s.held → exec (.holdTimeout d) s = .next (reset s)) ∧
    (exec (.supplyResetCrossing d) s = .next (reset (s.modDie d.val fun x => { x with up := false }))) ∧
    (140 ≤ temp.toInt → exec (.thermalTrip d temp) s = .next (reset { s with thermtrip := true })) ∧
    (temp.toInt < 140 → exec (.thermalTrip d temp) s = .next s) ∧
    (∀ (h : Fin 2) (m : Fin 8),
      exec (.otherSupplyOutOfRange (.vddq m)) s = .next (s.chanFail (m.val / 4) (m.val % 4)) ∧
      exec (.otherSupplyOutOfRange (.vddSd h)) s = .next (s.serdesDown h.val) ∧
      exec (.otherSupplyOutOfRange (.vddhSd h)) s = .next (s.serdesDown h.val) ∧
      exec (.otherSupplyOutOfRange .vddio) s = .next (s.powerUp s.straps) ∧
      (d.val = h.val → exec (.otherSupplyOutOfRange (.vdda h)) s = .next (reset s)))

/-- Power good and a PORST_N pulse of at least 10 µs start the device in BOOT with every core, memory, queue, port and dictionary
value at reset and the straps latched; a shorter pulse does nothing. -/
def Sys2Proof.Claims.PowerGoodStartsFromReset : Prop :=
  ∀ (s : State) (st : Straps) (us : Nat),
    let fresh (st : Straps) (t : State) : Prop :=
      t.dev = 0 ∧ t.mem = [] ∧ t.tags = [] ∧ t.poison = [] ∧ t.cores = [] ∧ t.dies = [] ∧ t.gens = [] ∧ t.chans = [] ∧
      t.dict = [] ∧ t.lds = [] ∧ t.fenced = [] ∧ t.held = [] ∧ t.troubles = [] ∧ t.session = false ∧ t.ctrs = [] ∧
      t.straps = st ∧ t.pending = s.pending ∧
      t.resp = (if st.node = 0 then .none else .frame (0x700 + st.node.toNat) [0])
    (∃ t, exec (.powerGood st) s = .next t ∧ fresh st t) ∧
    (10 ≤ us → ∃ t, exec (.porstReset us) s = .next t ∧ fresh s.straps t) ∧
    (us < 10 → exec (.porstReset us) s = .next s)

/-- The boot ends in LOADING unless a unit that is no render cluster failed, and then stays in BOOT; either way the failed clusters and
comets are marked. With a verified image CONFIG is entered and the cores in service run from their entry points. -/
def Sys2Proof.Claims.BootLeadsToLoadingAndConfig : Prop :=
  (∀ (s : State) (r : BootResult), s.dev = 0 →
    let dies := (upTo 8).filter fun d => (r.failedDies.any fun x => x.val == d) || !(s.die d).up
    let marked (t : State) : Prop := ∀ i ∈ r.failedClusters,
      if i.val % 25 = 24 then i.val / 25 + 2 ∈ t.failedUnits else 24 * (i.val / 25) + i.val % 25 ∈ t.failedCl
    (s.bootStops dies r = true → ∃ t, exec (.bootComplete r) s = .next t ∧ t.dev = 0 ∧ marked t) ∧
    (s.bootStops dies r = false → ∃ t, exec (.bootComplete r) s = .next t ∧ t.dev = 1 ∧ marked t)) ∧
  (∀ (s : State) (r : RunImg), s.runImg = some r → s.dev = 1 → s.imgStat = 2 →
    ∃ u : State, exec .configEntry s = .next u.settle ∧ u.dev = 2 ∧
      ∀ c : Fin 230, coreDie c.val ∉ s.fenced → s.failedCl = [] →
        u.core c.val = CoreS.reset (r.entries.getD (coreKind c.val) 0) true)

/-! ### Test access -/

/-- The TAP instructions capture their registers and change nothing but the test access port; boundary scan takes effect in BOOT
and LOADING only, and later acts as BYPASS and sets EXTREF. -/
def Sys2Proof.Claims.TapInstructionsActOnThePortAlone : Prop :=
  ∀ (s : State) (v : Byte) (bits : List Bool),
    let off := { s.tap with mode := 0 }
    let only (t : State) : Prop := { t with tap := s.tap, resp := s.resp, fresh := s.fresh } = s
    let late : State := { s with tap := { off with extref := true }, resp := .tap 1 0 }
    exec .tapReset s = .next { s with tap := { s.tap with dbgctl := 0, mode := 0 } } ∧
    exec .idcode s = .next { s with tap := off, resp := .tap 32 0x0580855D } ∧
    exec .bypass s = .next { s with tap := off, resp := .tap 1 0 } ∧
    exec (.dbgctl v) s = .next { s with tap := { off with dbgctl := v.toNat % 64 }, resp := .tap 8 s.tap.dbgctl } ∧
    exec .dbgstat s = .next { s with tap := off, resp := .tap 8 (s.tap.err + 8 * b2n s.tap.busy +
      16 * b2n (decide (s.lifecycle = 1) && !s.tap.unlocked) + 32 * b2n s.tap.extref + 64 * b2n s.tap.unlocked) } ∧
    (∃ t w, exec (.samplePreload bits) s = .next t ∧ only t ∧ t.tap = { off with cells := bits } ∧
      t.resp = .tap bits.length w ∧ w < 2 ^ bits.length) ∧
    (∃ t w, exec .chal s = .next t ∧ only t ∧ t.tap = { off with chal := some w } ∧ t.resp = .tap 256 w) ∧
    (s.dev < 2 →
      (∃ t w, exec (.extest bits) s = .next t ∧ only t ∧ t.tap = { s.tap with cells := bits, mode := 1 } ∧
        t.resp = .tap bits.length w) ∧
      exec .clamp s = .next { s with tap := { s.tap with mode := 2 } } ∧
      exec .highz s = .next { s with tap := { s.tap with mode := 3 } }) ∧
    (2 ≤ s.dev → exec (.extest bits) s = .next late ∧ exec .clamp s = .next late ∧ exec .highz s = .next late)

/-- In SECURED a debug access is refused with ERR 3 until an unlock; otherwise it reaches its target as the debug master, and one
that nothing answers stays BUSY until the timeout ends it with ERR 5. -/
def Sys2Proof.Claims.DebugAccessesObeyTheLock : Prop :=
  ∀ (s : State) (a : BitVec 44) (w : Bool) (v : Word),
    let a8 := a.toNat / 8 * 8
    let cap (u : State) := { u with resp := .tap 109 (s.tap.addr + 2 ^ 44 * b2n s.tap.busy + 2 ^ 45 * s.tap.data.toNat) }
    let s0 : State := { s with tap := { s.tap with mode := 0 } }
    let b : Attr := ⟨mid (s.tap.dbgctl % 2) 1 3 0, bitsOf s.tap.dbgctl 1 4, 3, 3⟩
    (s.tap.busy = false → s.lifecycle = 1 → s.tap.unlocked = false →
      exec (.dbgacc a w v) s = .next (cap (s0.dbgDone a8 3 0))) ∧
    (s.tap.busy = true → exec (.dbgacc a w v) s = .next (cap s0)) ∧
    (s.tap.busy = false → (s.lifecycle ≠ 1 ∨ s.tap.unlocked = true) → s.dieActs (s.tap.dbgctl % 2) = false →
      exec (.dbgacc a w v) s = .next (cap { s0 with tap := { s0.tap with busy := true, addr := a8 } })) ∧
    (s.tap.busy = false → (s.lifecycle ≠ 1 ∨ s.tap.unlocked = true) → s.dieActs (s.tap.dbgctl % 2) = true →
      w = true → ∀ u, s0.busWrite b kWrite (selfAlias b.master a8) (natLE 8 v.toNat) none = (.ok, u) →
      exec (.dbgacc a w v) s = .next (cap (u.settle.dbgDone a8 0 0))) ∧
    (s.tap.busy = false → (s.lifecycle ≠ 1 ∨ s.tap.unlocked = true) → s.dieActs (s.tap.dbgctl % 2) = true →
      w = false → ∀ u bs, s0.busRead b kRead (selfAlias b.master a8) 8 = ((.ok, bs), u) →
      exec (.dbgacc a w v) s = .next (cap (u.settle.dbgDone a8 0 (BitVec.ofNat 64 (leNat bs)))) ∧
      ∃ t, exec (.dbgacc a w v) s = .next t ∧ t.tap.err = 0 ∧ t.tap.busy = false ∧ t.tap.data = BitVec.ofNat 64 (leNat bs)) ∧
    -- a write that lands in memory is there, and nowhere else
    (s.tap.busy = false → (s.lifecycle ≠ 1 ∨ s.tap.unlocked = true) → s.dieActs (s.tap.dbgctl % 2) = true → w = true →
      s.posted = [] → s0.Lands b (selfAlias b.master a8) 8 →
      ∃ t, exec (.dbgacc a w v) s = .next t ∧ t.tap.err = 0 ∧ t.tap.busy = false ∧
        memReadN t.mem (selfAlias b.master a8) 8 = natLE 8 v.toNat ∧ SameMemoryOutside s t (selfAlias b.master a8) 8) ∧
    (s.tap.busy = true → ∃ t, exec .debugAccessTimeout s = .next t ∧ t.tap.busy = false ∧ t.tap.err = 5 ∧
      { t with tap := s.tap } = s)

/-- In SECURED a valid signature over the latest challenge by a key of a qualifying slot unlocks debug access until reset and is
measured; a wrong one has further ones refused until the lockout ends. -/
def Sys2Proof.Claims.UnlockNeedsASignedChallenge : Prop :=
  ∀ (s : State) (key : BitVec 256) (sig : BitVec 512),
    let s0 : State := { s with tap := { s.tap with mode := 0 } }
    let kb := natLE 32 key.toNat
    let good := (s.keySlot (sha kb)).isSome = true ∧ ∃ n, s.tap.chal = some n ∧ Config.edValid key (natLE 32 n) sig = true
    s.lifecycle = 1 → s.tap.unlocked = false →
    (s.tap.wait = false → good →
      exec (.unlock key sig) s =
        .next ({ s0 with tap := { s0.tap with unlocked := true }, dbgUnlock := true }.measure 4 0 255 (sha kb))) ∧
    (s.tap.wait = false → ¬good → exec (.unlock key sig) s = .next { s0 with tap := { s0.tap with wait := true } }) ∧
    (s.tap.wait = true → exec (.unlock key sig) s = .next s0) ∧
    exec .unlockLockoutExpiry s = .next { s with tap := { s.tap with wait := false } }

/-! ### The lattice: tables, windows, rendering -/

/-- MARK takes an OPEN shadow half to CHECKING, CANCEL takes CHECKING or READY back to OPEN, and in one write CANCEL comes first;
the check's end makes the half READY, or OPEN with the entry and the code of the rejection recorded, where every word of the half that it
reads can be read. -/
def Sys2Proof.Claims.TheTableHandshakeMovesItsState : Prop :=
  ∀ (s : State) (d : Fin 6) (k : Fin 25),
    let w := s.workOf d.val k.val
    let r := s.clReg d.val w
    let st (u : State) : Nat := u.fld r 1 2
    let only (t : State) : Prop := { t with regs := s.regs } = s ∧ SameRegsBut [r] s t
    s.clActs d.val w = true → s.live = true →
    (st s = 0 → ∃ t, exec (.mark d k false) s = .next t ∧ st t = 1 ∧ only t) ∧
    (st s < 3 → ∃ t, exec (.mark d k true) s = .next t ∧ st t = 1 ∧ only t) ∧
    (st s = 3 → exec (.mark d k true) s = .next s ∧ exec (.cancel d k) s = .next s) ∧
    (st s = 1 ∨ st s = 2 → ∃ t, exec (.cancel d k) s = .next t ∧ st t = 0 ∧ only t) ∧
    (st s = 1 → s.posted = [] → s.halfBad (s.shadowBase d.val w) = [] → s.checkHalf (s.shadowBase d.val w) (s.validIdx (s.activeBase d.val w)) = none →
      ∃ t, exec (.checkComplete d k) s = .next t ∧ st t = 2 ∧ t.bit r 3 = false ∧ t.bit (r + 0x48) 2 = true ∧
        { t with regs := s.regs } = s ∧ SameRegsBut [r, r + 0x48] s t) ∧
    (st s = 1 → s.posted = [] → s.halfBad (s.shadowBase d.val w) = [] → ∀ i code, i < 2 ^ 16 → code < 8 →
      s.checkHalf (s.shadowBase d.val w) (s.validIdx (s.activeBase d.val w)) = some (i, code) →
      ∃ t, exec (.checkComplete d k) s = .next t ∧ st t = 0 ∧ t.bit r 3 = true ∧
        t.rg (r + 0x10) = BitVec.ofNat 64 (i + 2 ^ 16 * code) ∧ t.bit (r + 0x18) 3 = true ∧ t.bit (r + 0x48) 3 = true ∧
        t.mem = s.mem ∧ SameRegsBut [r, r + 0x10, r + 0x18, r + 0x48] s t)

/-- Writing 1 to a bit of LSTICKY clears it and no other, and the record of a cleared bit 0 or 1 returns to 0. -/
def Sys2Proof.Claims.LstickyIsClearedByWritingOne : Prop :=
  ∀ (s : State) (d : Fin 6) (k : Fin 25) (w : Word),
    let a := clRegBase (d.val + 2) k.val
    s.loc (a + 0x18) = .clRegs (d.val + 2) k.val 0x18 → s.dieActs (d.val + 2) = true →
    ∃ t, exec (.lstickyClear d k w) s = .next t ∧
      (∀ i, i < 7 → t.bit (a + 0x18) i = (s.bit (a + 0x18) i && !w.getLsbD i)) ∧
      (w.getLsbD 0 = true → t.rg (a + 0x20) = 0) ∧ (w.getLsbD 1 = true → t.rg (a + 0x28) = 0) ∧
      { t with regs := s.regs } = s ∧ SameRegsBut [a + 0x18, a + 0x20, a + 0x28] s t

/-- The sixteen samples that its pair passed for a source block arrive at their places of the die's source window, and no other byte of
memory changes; the block counts as written. -/
def Sys2Proof.Claims.BroadcastWritesFillTheWindow : Prop :=
  ∀ (s : State) (d : Fin 6) (slot : BitVec 11) (blk : BitVec 52) (samples : BitVec 384),
    let a := s.winAddr d.val slot.toNat (16 * blk.toNat)
    let writer := engAttr (mid (d.val + 2) 31 2 0) 1
    s.live = true → s.dieActs (d.val + 2) = true → slot.toNat < s.nSlots → SMap.get (dflt 0) s.concealed d.val ≤ blk.toNat →
    s.passedBlock slot.toNat blk.toNat = some (blockOf samples) →
    (∀ b, a ≤ b → b < a + 48 → (s.reaches writer kWrite b).1 = .ok) → (∀ w ∈ wordsOf a 48, w ∉ s.poison) →
    ∃ t, exec (.broadcastWrite d slot blk samples) s = .next t ∧
      (∀ i, i < 16 → t.winRead d.val slot.toNat (16 * blk.toNat + i) = (blockOf samples).getD i 0) ∧ SameMemoryOutside s t a 48 ∧
      blk.toNat * 2048 + slot.toNat ∈ SMap.get (dflt []) t.written d.val ∧ t.cores = s.cores ∧ t.regs = s.regs

/-- A quarter handed over leaves two words of each of the cluster's slots with the render; a render whose four quarters are handed over
ends, with LATE recorded where it was late past its grace, and the next one waiting begins; at the hard deadline a late render is
abandoned with MISSED. Memory changes in the egress buffers and the mirror alone, and in the egress buffers alone at a hand-over. No SRAM
word that holds two bit errors stands in the way, and no comet still loads for the cluster. -/
def Obligations.RendersEndCompleteOrMissed : Prop :=
  ∀ (s : State) (d : Fin 6) (k : Fin 25) (w : Work) (ws : List Work),
    let n := d.val
    let q := s.workOf n k.val
    let c := s.cl n q
    let shed := dieReg (n + 2) 7 + 0x10
    let egress (a : Nat) : Prop := ∃ h < 2, egBase h ≤ a ∧ a < egBase h + 0x300000
    let mirror (a : Nat) : Prop := dieBase (n + 2) + 0x10000000 ≤ a ∧ a < dieBase (n + 2) + 0x20000000
    let ended (t : State) : Prop := (t.cl n q).work = ws ∧ (t.cl n q).quarter = 0 ∧ (t.cl n q).late = false ∧
      (t.cl n q).busy = !ws.isEmpty ∧ t.cores = s.cores ∧
      ∀ a, ¬egress a → ¬mirror a → memRead t.mem a = memRead s.mem a
    q < 24 → c.work = w :: ws → s.clActs n q = true → s.live = true → c.busy = true → s.posted = [] →
    (∀ p ∈ s.upsets, p.2 < 2) → (s.comet n).loading ≠ some q →
    (c.quarter < 4 →
      ∃ t, exec (.quarterHandover d k) s = .next t ∧ (t.cl n q).quarter = c.quarter + 1 ∧
        (t.cl n q).words.length = c.words.length + 2 * s.nOut ∧ (t.cl n q).work = c.work ∧ (t.cl n q).busy = true ∧
        t.cores = s.cores ∧ ∀ a, ¬egress a → memRead t.mem a = memRead s.mem a) ∧
    (c.quarter = 4 →
      ∃ t, exec (.renderComplete d k) s = .next t ∧ ended t ∧
        (c.late = true → c.grace ≤ w.blk → t.bit shed 0 = true)) ∧
    (c.late = true →
      ∃ t, exec (.renderHardDeadline d k) s = .next t ∧ ended t ∧ t.bit shed 1 = true ∧
        t.bit (s.clReg n q + 0x18) 6 = true ∧ (t.die (n + 2)).lateSeen = true)

/-- A FIR commit with none pending sets PENDING with its slot and takes the staged taps as the incoming set; a priority bus change
waits for its effective block behind the earlier ones, where a priority domain is selected. -/
def Obligations.CommitsAndBusChangesWaitForTheirBlock : Prop :=
  (∀ (s : State) (d : Fin 6) (k : Fin 25) (slot : BitVec 6) (len : BitVec 11),
    let n := d.val
    let q := s.workOf n k.val
    let a := s.clReg n q + 0x1010
    s.clActs n q = true → s.bit a 0 = false → slot.toNat < s.nOut → s.posted = [] → (∀ p ∈ s.upsets, p.2 < 2) →
    ∃ u : State, exec (.commit d k slot len) s = .next (u.reqUpdate n) ∧ u.rg a = BitVec.ofNat 64 (1 + 2 * slot.toNat) ∧
      (u.slotS n q slot.toNat).coefNew = s.staged n q (len.toNat + 1) ∧
      (u.slotS n q slot.toNat).coef = (s.slotS n q slot.toNat).coef ∧ u.mem = s.mem ∧ SameRegsBut [a] s u) ∧
  (∀ (s : State) (d : Fin 6) (bus : Fin 8) (psrc : BitVec 11) (active : Bool) (duck : BitVec 17) (b : BitVec 52),
    d.val + 2 ∉ s.fenced → s.prioDom ≠ 0 →
    ∃ t, exec (.priorityBusChange d bus psrc active duck b) s = .next t ∧ { t with busPend := s.busPend } = s ∧
      SMap.get (dflt []) t.busPend d.val =
        SMap.get (dflt []) s.busPend d.val ++ [⟨bus.val, psrc.toNat, active, duck.toNat, b.toNat⟩] ∧
      ∀ e, e ≠ d.val → SMap.get (dflt []) t.busPend e = SMap.get (dflt []) s.busPend e)

/-! ### Egress -/

/-- A word for an open block slot that its gate lets pass is stored in its 8 bytes of the egress buffer and nowhere else; a late one
changes no memory and sets LATEWR with the hub's trouble bit; a latch closes its slot, and playing a block frees it and clears its
completion words. -/
def Obligations.EgressWordsLandUntilTheLatch : Prop :=
  ∀ (s : State) (h : Fin 2) (blk : BitVec 52),
    let q := blk.toNat % 4
    s.live = true → s.dieActs h.val = true →
    let stage (c : Nat) : Attr := engAttr (mid (c / 24 + 2) (s.unit (c / 24) (c % 24)) 2 2) 1
    let stored (a : Nat) (v : Word) (t : State) : Prop :=
      memReadN t.mem a 8 = natLE 8 v.toNat ∧ SameMemoryOutside s t a 8 ∧ t.cores = s.cores
    let refused (t : State) : Prop := t.mem = s.mem ∧ t.bit (dieBase h.val + 0x103F0000) 3 = true ∧
      ∃ st, t.troubles = s.troubles ++ [⟨34 + 3 * h.val, 1, st⟩]
    (∀ (out : BitVec 14) (w : Fin 8) (v : Word),
      let off := q * 0x90000 + 64 * out.toNat + 8 * w.val
      let a := egBase h.val + off
      s.outOk out.toNat = true → (s.reaches (stage (clusterOf out.toNat)) kWrite a).1 = .ok → a / 64 ∉ s.poison →
      (s.egressLate h.val off = false → ∃ t, exec (.egressWordWrite h blk out w v) s = .next t ∧ stored a v t) ∧
      (s.egressLate h.val off = true → ∃ t, exec (.egressWordWrite h blk out w v) s = .next t ∧ refused t)) ∧
    (∀ cl : Fin 144,
      let off := 0x240000 + q * 0x800 + 8 * cl.val
      let a := egBase h.val + off
      (s.reaches (stage cl.val) kWrite a).1 = .ok → a / 64 ∉ s.poison →
      (s.egressLate h.val off = false → ∃ t, exec (.completionWordWrite h blk cl) s = .next t ∧ stored a 1 t) ∧
      (s.egressLate h.val off = true → ∃ t, exec (.completionWordWrite h blk cl) s = .next t ∧ refused t)) ∧
    (∃ t, exec (.egressLatch h blk) s = .next t ∧ 4 * h.val + q ∈ t.latched ∧ { t with latched := s.latched } = s) ∧
    (∀ uncorr, SMap.get (dflt 0) s.playNext h.val ≤ blk.toNat + 4 →
      ∃ t, exec (.playoutBlock h blk uncorr) s = .next t ∧ 4 * h.val + q ∉ t.latched ∧
        ∀ i, i < 0x800 → memRead t.mem (complAddr h.val q 0 + i) = 0)

/-! ### Scenes, laws and compare -/

/-- In blocks 0-2 of a scene tick an entry for the coming tick is taken, and its frame, where it passes its checks, becomes the domain's
candidate; where the entry at the head is for a later tick, the candidate is merged into the scene store. A law whose share is spent
is abandoned with the rest of its domain's laws and its domain reverts. -/
def Sys2Proof.Claims.ScenesAreTakenAndLawsAbandoned : Prop :=
  (∀ (s : State) (dom : BitVec 4),
    let d := dom.toNat
    let q := s.sceneQ d
    let h := s.qHome d q
    let pos := (s.die h).tide
    let tick := pos / 512 + 1
    let r := s.qDesc d (s.replyQ d)
    let x := s.scene d
    s.live = true → d ≠ 0 → s.domEn d = true → s.dieActs h = true → pos % 512 < 48 → r.takes = true →
    r.count + b2n x.cand.isSome < r.n → r.esz = 0 →
    (∀ (e bs : List Byte) (s2 : State) (i : Nat),
      s.sceneHead d tick = some e → tick ≤ fieldAt e 0 8 % 2 ^ 47 →
      (s.setHead d q ((s.qDesc d q).head + 1)).frameRead d e = (some bs, s2) → s2.frameStatus d e bs = (0, i) →
      ∃ t, exec (.sceneFrameTake dom) s = .next t ∧
        t.scene d = { s2.scene d with cand := some (fieldAt e 0 8, fieldAt e 24 4, bs) } ∧ t.cores = s2.cores) ∧
    (∀ (scene cookie : Nat) (bs : List Byte),
      s.sceneHead d tick = none → (s.sceneEntry d).isSome = true → x.cand = some (scene, cookie, bs) → tick ≤ scene % 2 ^ 47 →
      ∃ t, exec (.sceneFrameTake dom) s = .next t ∧ t.scene d = { x.merge bs with tick := some tick, cand := none } ∧
        t.cores = s.cores)) ∧
  (∀ (s : State) (d : Fin 6) (k : Fin 25) (dom l : Nat),
    let n := d.val
    let q := s.workOf n k.val
    (s.law n q).cur = some (dom, l) → s.share n q dom ≤ s.lawUsed n q →
    ∃ t, exec (.lawShareExpiry d k) s = .next t ∧ dom ∈ (t.law n q).revert ∧
      (∀ p ∈ (t.law n q).todo, p.1 ≠ dom ∧ p ∈ (s.law n q).todo) ∧ (∀ p, (t.law n q).cur = some p → p.1 ≠ dom))

/-- A core that has met an error submits with its error flag, and one that has not submits the block that its programs left with the CRC
of its output and send words; the submission waits for the other's, and the error flag starts anew; a source
is resolved in the pair's order by the pair's rule, and what the chosen core submitted is passed on; at the deadline every source of
the pair is resolved. -/
def Sys2Proof.Claims.CompareSubmissionsAreResolved : Prop :=
  ∀ (s : State) (d p : Fin 6) (slot : BitVec 11),
    let n := d.val
    let x := s.pairOf n p.val
    let a := SMap.get (dflt none) x.subA slot.toNat
    let b := SMap.get (dflt none) x.subB slot.toNat
    s.live = true → s.dieActs (n + 2) = true →
    (∀ (coreB errf : Bool) (crc : BitVec 32) (out : BitVec 384) (o : List Int) (sends : List Nat) (u : State),
      let c := pairCore n p.val coreB
      (if coreB then x.retB || x.outB else x.retA || x.outA) = false → s.coreReady c = true →
      slot.toNat ∈ s.pairSlots (6 * n + p.val) → s.strmBusy c slot.toNat = false →
      s.strmResult n p.val slot.toNat coreB = ((o, sends), u) →
      (errf = true ∨ ((u.strmOf c).err = false ∧ blockOf out = o ∧
        crc.toNat = crc32c ((o.flatMap fun z => natLE 4 (unsigned 32 z)) ++ sends.flatMap (natLE 4)))) →
      ∃ t, exec (.compareSubmit d p coreB slot crc errf out) s = .next t ∧
        SMap.get (dflt none) (if coreB then (t.pairOf n p.val).subB else (t.pairOf n p.val).subA) slot.toNat =
          some ⟨crc.toNat, errf, blockOf out, sends⟩ ∧ (t.strmOf c).err = false ∧
        (if coreB then (t.pairOf n p.val).subA = x.subA else (t.pairOf n p.val).subB = x.subB)) ∧
    ((a.isSome || x.retA || x.outA) = true → (b.isSome || x.retB || x.outB) = true → (a.isSome || b.isSome) = true →
      s.pairTurn n p.val = some slot.toNat →
      ∃ t, exec (.compareResolve d p slot) s = .next t ∧ slot.toNat ∈ (t.pairOf n p.val).resolved ∧
        SMap.get (dflt none) (t.pairOf n p.val).passed slot.toNat =
          (match (x.outcome a b).1 with
            | none => none
            | some core => (if core then b else a).map fun v => (x.blk, v.out)) ∧
        ((x.outcome a b).2 = 0 → a.isSome = true → b.isSome = true → t.mem = s.mem ∧ t.cores = s.cores)) ∧
    (∃ t, exec (.compareDeadline d p) s = .next t ∧ (∀ u ∈ s.pairSlots (6 * n + p.val), u ∈ (t.pairOf n p.val).resolved) ∧
      (t.pairOf n p.val).subA = x.subA ∧ (t.pairOf n p.val).subB = x.subB)

/-! ### Die links -/

/-- A block sent on a link takes the next sequence number and waits in the replay buffer, while that has room and no T4 flit goes to a
hub that withholds T4 credits, and is not sent otherwise; one sent on a link that is down waits on the detour's first link with the rest of
its way. A receiver takes the next block in order with a right CRC-32C, once, and acknowledges it: it delivers it, or passes it on to its
next link where that has room, and without room does not take it. It rejects any other block. An acknowledgement frees its block and ends
the run of replays; a replay keeps every block, and a rejection after eight failed replays in a row takes the link down. -/
def Obligations.LinkBlocksAreDeliveredOnceAndInOrder : Prop :=
  ∀ (s : State) (l : Fin 13) (up : Bool) (seq : Nat) (data : Flits) (crc : BitVec 32),
    let x := s.link l.val up
    let right := crc32c (natLE 256 data.bits.toNat) = crc.toNat
    let room (m : Nat) (v : Bool) : Prop := (s.link m v).unacked.length < (if m = 12 then 128 else 64) ∧
      ¬(hasT4 data = true ∧ s.t4Withheld (linkEnds m v).2 = true)
    let only (t : State) : Prop := { t with links := s.links, ctrs := s.ctrs, resp := s.resp } = s
    let others (t : State) : Prop := ∀ m v, (m ≠ l.val ∨ v ≠ up) → t.link m v = s.link m v
    let takes (y : LinkS) (via : List Nat) : LinkS := { y with next := y.next + 1, unacked := y.unacked ++ [⟨y.next, data, via⟩] }
    (l.val ∈ s.linksDown → ∀ h hs, s.detourPath l.val up = some (h :: hs) →
      (room (h / 2) (h % 2 == 1) → ∃ t, exec (.linkBlockSend l up data) s = .next t ∧ only t ∧
        t.link (h / 2) (h % 2 == 1) = takes (s.link (h / 2) (h % 2 == 1)) hs) ∧
      (¬room (h / 2) (h % 2 == 1) → exec (.linkBlockSend l up data) s = .next s)) ∧
    (l.val ∉ s.linksDown →
      (room l.val up → ∃ t, exec (.linkBlockSend l up data) s = .next t ∧ only t ∧ others t ∧ t.link l.val up = takes x []) ∧
      (¬room l.val up → exec (.linkBlockSend l up data) s = .next s) ∧
      (seq = x.expect → right →
        (x.viaOf seq = [] → ∃ t, exec (.linkBlockReceive l up seq data crc) s = .next t ∧ only t ∧ t.resp = .link true seq ∧ others t ∧
          t.link l.val up = { x with expect := x.expect + 1, got := some data }) ∧
        (∀ h hs, x.viaOf seq = h :: hs → h / 2 ∉ s.linksDown → h / 2 ≠ l.val →
          (room (h / 2) (h % 2 == 1) → ∃ t, exec (.linkBlockReceive l up seq data crc) s = .next t ∧ only t ∧ t.resp = .link true seq ∧
            t.link l.val up = { x with expect := x.expect + 1 } ∧
            t.link (h / 2) (h % 2 == 1) = takes (s.link (h / 2) (h % 2 == 1)) hs) ∧
          (¬room (h / 2) (h % 2 == 1) → exec (.linkBlockReceive l up seq data crc) s = .next s))) ∧
      (seq ≠ x.expect ∨ ¬right →
        ∃ t, exec (.linkBlockReceive l up seq data crc) s = .next t ∧ only t ∧ t.links = s.links ∧ t.resp = .link false seq) ∧
      ((∃ e ∈ x.unacked, e.seq = seq) →
        (s.linksDown = [] → ∃ t, exec (.linkBlockAcknowledge l up seq) s = .next t ∧ only t ∧ others t ∧
          t.link l.val up = { x with unacked := x.unacked.filter (fun e => e.seq != seq), replays := 0 }) ∧
        (∃ t, exec (.linkBlockAcknowledge l up seq) s = .next t ∧ only t) ∧
        (x.replays < 8 → ∃ t, exec (.linkReplay l up seq) s = .next t ∧ only t ∧ others t ∧
          t.link l.val up = { x with replays := x.replays + 1 }) ∧
        (8 ≤ x.replays → ∃ t, exec (.linkReplay l up seq) s = .next t ∧ l.val ∈ t.linksDown)) ∧
      (∃ t, exec (.linkDown l) s = .next t ∧ l.val ∈ t.linksDown ∧ t.mem = s.mem ∧ t.cores = s.cores ∧
        (∀ m, m ∈ t.linksDown ↔ m = l.val ∨ m ∈ s.linksDown)))

/-! ### Registers -/

/-- A write of a register changes its RW fields to the bits written where the encoding is allowed, clears W1C bits written with 1,
and leaves RO, WO and RC fields and every bit outside the field. -/
def Sys2Proof.Claims.RegisterFieldsFollowTheirAccessCode : Prop :=
  ∀ (f : FieldDef) (old v : Word), f.lsb + f.w ≤ 64 →
    let r := regStore [f] old v (BitVec.allOnes 64)
    let x := getBits v f.lsb f.w
    (∀ i, i < 64 → (i < f.lsb ∨ f.lsb + f.w ≤ i) → r.getLsbD i = old.getLsbD i) ∧
    (f.acc = .rw → f.ok x = true → getBits r f.lsb f.w = x) ∧
    (f.acc = .rw → f.ok x = false → r = old) ∧
    (f.acc = .w1c → ∀ i, f.lsb ≤ i → i < f.lsb + f.w → r.getLsbD i = (old.getLsbD i && !v.getLsbD i)) ∧
    (f.acc = .ro ∨ f.acc = .wo ∨ f.acc = .rc → r = old)

/-- A register write is one 8-byte write transaction after self-alias replacement: one that its target does not take changes no memory
and answers an error, and one of a cluster's plain parameter words changes that word by its fields' access codes and nothing else. A
transaction to a DRAM address of a fenced home hub is issued again after a hub loss: a read reads, a write writes and an atomic reads and
writes, unless the lost hub had performed it, which changes nothing; one to any other target answers an error. -/
def Sys2Proof.Claims.RegisterWritesAndReissuesAreOneTransaction : Prop :=
  (∀ (s : State) (b : BusAttr) (a : BitVec 44) (v : Word),
    let p := selfAlias b.master.toNat (a.toNat / 8 * 8)
    let r := (s.reaches (busAttrOf b) kWrite p).1
    s.posted = [] →
    (r ≠ .ok → r ≠ .held →
      ∃ t, exec (.registerWrite b a v) s = .next t ∧ t.resp = .bus false [] ∧ t.mem = s.mem ∧ t.cores = s.cores) ∧
    (∀ d k off, s.loc p = .clRegs d k off → off = 0x1000 ∨ (0x2000 ≤ off ∧ off < 0x4000 ∧ off % 0x80 ≠ 0) → r = .ok →
      ∃ t, exec (.registerWrite b a v) s = .next t ∧ t.resp = .bus true [] ∧
        t.rg p = regStore (regFields (.clRegs d k off)) (s.rg p) v (BitVec.allOnes 64) ∧ SameRegsBut [p] s t ∧ t.mem = s.mem ∧
        t.cores = s.cores)) ∧
  (∀ (s u : State) (b : BusAttr) (a : BitVec 44) (n : Fin 65) (data : BitVec 512) (op : AmoOp) (wide : Bool) (v w : Word) (bs : List Byte),
    let s0 : State := { s with stalled := false }
    let p := selfAlias b.master.toNat a.toNat
    let m := if wide then 8 else 4
    let same (t u : State) : Prop := t.mem = u.mem ∧ t.regs = u.regs ∧ t.cores = u.cores
    (¬(s.inDram p = true ∧ s.shape.home p ∈ s.fenced) →
      exec (.reissue (.read b a)) s = .next { s with resp := .bus false [] } ∧
      exec (.reissue (.write b a n data false)) s = .next { s with resp := .bus false [] } ∧
      exec (.reissue (.atomic b a op wide v none)) s = .next { s with resp := .bus false [] }) ∧
    (s.inDram p = true → s.shape.home p ∈ s.fenced →
      (s0.busRead (busAttrOf b) kRead p 64 = ((.ok, bs), u) → u.posted = [] → u.stalled = false →
        ∃ t, exec (.reissue (.read b a)) s = .next t ∧ t.resp = .bus true bs ∧ same t u) ∧
      (0 < n.val → s0.busWrite (busAttrOf b) kWrite p (natLE n.val data.toNat) none = (.ok, u) → u.posted = [] → u.stalled = false →
        ∃ t, exec (.reissue (.write b a n data false)) s = .next t ∧ t.resp = .bus true [] ∧ same t u) ∧
      (s.posted = [] →
        (∃ t, exec (.reissue (.write b a n data true)) s = .next t ∧ t.resp = .bus true [] ∧ same t s) ∧
        ∃ t, exec (.reissue (.atomic b a op wide v (some w))) s = .next t ∧ t.resp = .bus true (natLE m w.toNat) ∧ same t s) ∧
      (∀ (z : State) (new : Nat), s0.busRead (busAttrOf b) kAtomic p m = ((.ok, bs), u) →
        amoNew op (8 * m) (leNat bs) (v.toNat % 2 ^ (8 * m)) = some new →
        u.busWrite (busAttrOf b) kAtomic p (natLE m new) none = (.ok, z) → z.posted = [] → z.stalled = false →
        ∃ t, exec (.reissue (.atomic b a op wide v none)) s = .next t ∧ t.resp = .bus true bs ∧ same t z) ∧
      (s0.busRead (busAttrOf b) kAtomic p m = ((.ok, bs), u) →
        amoNew op (8 * m) (leNat bs) (v.toNat % 2 ^ (8 * m)) = none → u.posted = [] → u.stalled = false →
        ∃ t, exec (.reissue (.atomic b a op wide v none)) s = .next t ∧ t.resp = .bus true bs ∧ same t u)))

/-! ### External memory -/

/-- A DRAM read that a copy in service serves answers the word; one of a chunk that is not marked answers zeros; one that no
copy serves is an error and poisons the word. No byte of memory changes. -/
def Sys2Proof.Claims.DramReadsServeACopyOrPoison : Prop :=
  ∀ (s u u2 : State) (b : BusAttr) (a : BitVec 44) (home partner : Ecc),
    let w := a.toNat / 64 * 64
    let ev : EvAttr := ⟨some b.master.toNat, some b.priv.toNat, some w⟩
    let answers (r : Reply) (t : State) : Prop :=
      exec (.dramRead b a home partner) s = .next t ∧ t.resp = r ∧ t.mem = s.mem ∧ t.cores = s.cores
    s.inDram w = true → State.reaches { s with stalled := false } (busAttrOf b) kRead w = (.ok, u) →
    (u.chunkMarked w = false → ∃ t, answers (.bus true (natLE 64 0)) t) ∧
    (u.chunkMarked w = true →
      let u1 := (u.countDram (busAttrOf b) w 64 false).tagTouch (busAttrOf b) w
      (w / 64 ∈ s.poison → ∃ t, answers (.bus false []) t ∧ t.poison = s.poison) ∧
      (w / 64 ∉ s.poison → u1.copiesOf w ≠ [] → ∀ ok,
        State.serveCopies w ev ((u1.copiesOf w).map fun x => (x, if x = u.homeHub w then home else partner)) [] u1 = (ok, u2) →
        (ok = true → ∃ t, answers (.bus true (memReadN s.mem w 64)) t) ∧
        (ok = false → ∃ t, answers (.bus false []) t ∧ w / 64 ∈ t.poison)))

/-- A DRAM write changes the enabled bytes of its word and no other byte of memory; a partial write that finds every copy uncorrectable
poisons the word and changes none. -/
def Sys2Proof.Claims.DramWritesTheEnabledBytes : Prop :=
  ∀ (s : State) (b : BusAttr) (a : BitVec 44) (mask : BitVec 64) (data : LineWrite),
    let w := a.toNat / 64 * 64
    let bad (e : Ecc) : Prop := ∃ dev sub dimm rank, e = .bad dev sub dimm rank
    w + 64 ≤ s.shape.usable → s.loc w = .dram w → (s.reaches (busAttrOf b) kWrite w).1 = .ok → s.dramDown w = false → w / 64 ∉ s.poison →
    (mask = BitVec.allOnes 64 ∨ mask = 0 ∨ (data.home = .good ∧ data.partner = .good) →
      ∃ t, exec (.dramWrite b a mask data) s = .next t ∧ t.resp = .bus true [] ∧
        (∀ i, i < 64 → memRead t.mem (w + i) =
          if mask.getLsbD i then BitVec.ofNat 8 (data.bits.toNat / 256 ^ i) else memRead s.mem (w + i)) ∧
        SameMemoryOutside s t w 64 ∧ t.cores = s.cores) ∧
    (mask ≠ BitVec.allOnes 64 → mask ≠ 0 → bad data.home → bad data.partner → s.chunkMarked w = true → s.copiesOf w ≠ [] →
      ∃ t, exec (.dramWrite b a mask data) s = .next t ∧ w / 64 ∈ t.poison ∧ t.mem = s.mem ∧ t.cores = s.cores)

/-- The scrubber takes the next word of its channel, wrapping at the end; the sweep zeroes the next chunk that no write has marked
and after the last sets INITDONE of every controller; neither changes another byte of memory. -/
def Sys2Proof.Claims.ScrubAndSweepMoveOn : Prop :=
  (∀ (s : State) (h : Fin 2) (m : Fin 4) (own partner : Ecc),
    let r := mcReg h.val m.val + 0x28
    let next := s.fld r 0 44 + 64
    s.dieActs h.val = true → s.chanServes h.val m.val = true →
    ∃ t, exec (.patrolScrubWord h m own partner) s = .next t ∧
      t.fld r 0 44 = (if s.shape.raw / 8 ≤ next then 0 else next % 2 ^ 44) ∧ t.mem = s.mem ∧ t.cores = s.cores) ∧
  (∀ (s : State),
    let n := s.shape.cap / 2 ^ 20
    let c := s.sweepNext
    c < n →
    ∃ t, exec .initSweepChunk s = .next t ∧ t.sweepNext = c + 1 ∧ c ∉ t.marked ∧
      (c ∉ s.marked → ∀ i, i < 2 ^ 20 → memRead t.mem (c * 2 ^ 20 + i) = 0) ∧ (c ∈ s.marked → t.mem = s.mem) ∧
      SameMemoryOutside s t (c * 2 ^ 20) (2 ^ 20) ∧ t.cores = s.cores ∧
      (c + 1 = n → ∀ h m, h < 2 → m < 4 → t.bit (mcReg h m) 9 = true) ∧ (c + 1 < n → t.regs = s.regs))

/-- A channel that fails, by itself or by a parity fault that retraining does not clear, is FAILED with its sticky bit, takes RUN to
DEGRADED and changes no memory; a cleared fault does nothing. -/
def Sys2Proof.Claims.FailedChannelsLeaveService : Prop :=
  ∀ (s : State) (h : Fin 2) (m : Fin 4),
    let failed (t : State) : Prop := t.fld (mcReg h.val m.val + 8) 0 2 = 2 ∧ t.bit (mcReg h.val m.val + 0x10) 5 = true ∧
      (s.dev = 3 → t.dev = 4) ∧ t.mem = s.mem ∧ t.cores = s.cores
    exec (.phyOrCommandParityFault h m true) s = .next s ∧
    (h.val ∉ s.fenced → s.chanFailed h.val m.val = false →
      (∃ t, exec (.channelFail h m) s = .next t ∧ failed t) ∧
      (∃ t, exec (.phyOrCommandParityFault h m false) s = .next t ∧ failed t))

/-! ### Queues -/

/-- A doorbell of an enabled queue moves the tail or the head to its value or arms a threshold where the ring allows it, and is
discarded with its code otherwise: 1 disabled, 2 out of range, 3 the wrong mode, 4 the reserved operation. What the engine writes is
the descriptor's field and the ring's header; a queue that is armed may then be notified. -/
def Obligations.DoorbellsMoveTheRingOrAreRecorded : Prop :=
  ∀ (s u0 : State) (dom : BitVec 4) (q : BitVec 14) (v : BitVec 32),
    let d := dom.toNat
    let i := q.toNat
    s.qOpen d i = (true, u0) →
    let u := u0.qCount d i 0
    let x := u.qDesc d i
    let a := u.qAddr d i
    let r := hubReg (u.qHome d i) 4
    let ahead := (v.toNat + 2 ^ 32 - x.head) % 2 ^ 32
    let new := (v.toNat + 2 ^ 32 - x.tail) % 2 ^ 32
    let n := v.toNat % 2 ^ 20
    let bad (c : Instr) (op code : Nat) : Prop := ∃ t, exec c s = .next t ∧ t.mem = s.mem ∧ t.cores = s.cores ∧
      t.bit (r + 0x1018) 0 = true ∧ t.fld (r + 0x1028) 0 32 = min (2 ^ 32 - 1) (u.fld (r + 0x1028) 0 32 + 1) ∧
      (u.bit (r + 0x1020) 63 = false →
        t.rg (r + 0x1020) = BitVec.ofNat 64 (i + 2 ^ 14 * d + 2 ^ 18 * op + 2 ^ 20 * code + 2 ^ 63))
    let lands (o n : Nat) : Prop := u.Lands (qAttr (u.homeHub (a + o)) d) (a + o) n
    -- a field of the descriptor holds a value, and memory is as it was but for it and the header
    let wrote (t : State) (o n v : Nat) : Prop := memReadN t.mem (a + o) n = natLE n v ∧ t.cores = s.cores ∧
      ∀ b, (b < a + o ∨ a + o + n ≤ b) → (b < x.phys ∨ x.phys + 8 ≤ b) → memRead t.mem b = memRead s.mem b
    (x.en = false → bad (.produce dom q v) 0 1 ∧ bad (.consume dom q v) 1 1 ∧ bad (.arm dom q v) 2 1 ∧
      bad (.doorbellReservedOp dom q v) 3 1) ∧
    (x.en = true →
      bad (.doorbellReservedOp dom q v) 3 4 ∧
      (x.pmode ≠ 0 → bad (.produce dom q v) 0 3) ∧
      (x.pmode = 0 → x.n < ahead ∨ ahead < new → bad (.produce dom q v) 0 2) ∧
      (x.pmode = 0 → ahead ≤ x.n → new ≤ ahead →
        exec (.produce dom q v) s = .next ((u.setTail d i v.toNat).notify d i) ∧
        (x.armed = false → lands 0x14 4 → Apart x.phys 8 a 64 → isRegPlace (u.loc x.phys) = false →
          ∃ t, exec (.produce dom q v) s = .next t ∧ wrote t 0x14 4 v.toNat)) ∧
      (x.cmode ≠ 0 → bad (.consume dom q v) 1 3) ∧
      (x.cmode = 0 → x.count < ahead → bad (.consume dom q v) 1 2) ∧
      (x.cmode = 0 → ahead ≤ x.count → lands 0x10 4 → Apart x.phys 8 a 64 →
        ∃ t, exec (.consume dom q v) s = .next t ∧ wrote t 0x10 4 v.toNat) ∧
      (x.n < n → bad (.arm dom q v) 2 2) ∧
      (n ≤ x.n → exec (.arm dom q v) s = .next (((if n = 0 then u else u.qWrite d (a + 0x1C) (natLE 4 n) none).setQFlags d i
        (x.flags + (if x.armed then 0 else 2))).notify d i)) ∧
      (n ≤ x.n → x.count < (if n = 0 then x.thresh else n) → lands 0x1A 1 → lands 0x1C 4 →
        ∃ t, exec (.arm dom q v) s = .next t ∧ t.cores = s.cores ∧
          memRead t.mem (a + 0x1A) = BitVec.ofNat 8 (x.flags + (if x.armed then 0 else 2)) ∧
          (n ≠ 0 → memReadN t.mem (a + 0x1C) 4 = natLE 4 n) ∧
          ∀ b, (b < a + 0x1A ∨ a + 0x20 ≤ b ∨ b = a + 0x1B) → memRead t.mem b = memRead s.mem b))

/-- QCMD enables a queue whose descriptor passes its checks, after translating its ring and reading the descriptor it links to, and
answers its code; it disables an enabled one; a deferred notice is appended to its notify queue, with NPEND cleared, once that takes it,
and waits otherwise. -/
def Sys2Proof.Claims.QueuesAreEnabledDisabledAndNotified : Prop :=
  ∀ (s s1 : State) (h : Fin 2) (dom : BitVec 4) (q : BitVec 14),
    let d := dom.toNat
    let i := q.toNat
    s.qOpen d i = (true, s1) →
    let x := s1.qDesc d i
    let answers (c : Instr) (code : Nat) (u t : State) : Prop :=
      exec c s = .next t ∧ t.fld (hubReg h.val 4 + 0x1008) 1 3 = code ∧ t.cores = u.cores
    let lands (u : State) (o n : Nat) : Prop := u.Lands (qAttr (u.homeHub (u.qAddr d i + o)) d) (u.qAddr d i + o) n
    let flagged (u t : State) (f : Nat) : Prop := memRead t.mem (u.qAddr d i + 0x1A) = BitVec.ofNat 8 f
    (∀ code, x.code123 d = some code → ∃ t, answers (.enable h dom q) code s t ∧ t.mem = s.mem) ∧
    (x.code123 d = none → ∀ p (u : State),
      s1.ringTranslate (s1.qHome d i) d x.ring.cur (64 + 2 ^ min x.logn 32 * 16 * 2 ^ min x.esz 2) = (p, u) →
      (p = none → ∃ t, answers (.enable h dom q) 4 u t ∧ t.mem = u.mem) ∧
      (∀ pa linked (v : State), p = some pa →
        (if x.cmode = 1 then u.qOpen (bitsOf x.link 14 4) (bitsOf x.link 0 14) else (true, u)) = (linked, v) →
        (∀ code, v.code567 d i x linked = some code → ∃ t, answers (.enable h dom q) code v t ∧ t.mem = v.mem) ∧
        (v.code567 d i x linked = none → lands v 0x30 8 → lands v 0x1A 1 →
          ∃ t, answers (.enable h dom q) 0 v t ∧ memReadN t.mem (v.qAddr d i + 0x30) 8 = natLE 8 pa ∧ flagged v t (x.flags + 1) ∧
            ∀ b, b ≠ v.qAddr d i + 0x1A → (b < v.qAddr d i + 0x30 ∨ v.qAddr d i + 0x38 ≤ b) → memRead t.mem b = memRead v.mem b))) ∧
    (x.en = true → lands s1 0x1A 1 →
      ∃ t, exec (.disable h dom q) s = .next t ∧ flagged s1 t (x.flags - 1) ∧ SameMemoryOutside s t (s1.qAddr d i + 0x1A) 1 ∧
        t.cores = s.cores) ∧
    (x.en = false → ∃ t, exec (.disable h dom q) s = .next t ∧ t.mem = s.mem) ∧
    (x.en = true → x.npend = true → ∀ nq, s1.notifyQueue (bitsOf x.notify 2 8) = some nq →
      let z := s1.setQFlags d i (x.flags - 4)
      (lands s1 0x1A 1 → flagged s1 z (x.flags - 4) ∧ SameMemoryOutside s1 z (s1.qAddr d i + 0x1A) 1) ∧
      (∀ u : State, z.qAppend 0 nq (s1.noticeBytes d i x.tail) = some u → exec (.deferredNoticePost dom q) s = .next u) ∧
      (z.qAppend 0 nq (s1.noticeBytes d i x.tail) = none → ∃ t, exec (.deferredNoticePost dom q) s = .next t ∧ t.mem = s.mem))

/-- A linked queue's head catches up with what its target has taken; else its next entry is copied to the target's tail, where a tag stays
only on a sealed capability, and both rings move on by one. -/
def Sys2Proof.Claims.LinkedQueuesMoveOneEntry : Prop :=
  ∀ (s s1 s2 : State) (dom : BitVec 4) (q : BitVec 14),
    let d := dom.toNat
    s.qOpen d q.toNat = (true, s1) →
    let td := bitsOf (s1.qDesc d q.toNat).link 14 4
    let tq := bitsOf (s1.qDesc d q.toNat).link 0 14
    s1.qOpen td tq = (true, s2) →
    let x := s2.qDesc d q.toNat
    let y := s2.qDesc td tq
    let a := s2.qAddr d q.toNat
    let b := s2.qAddr td tq
    let src := x.slot x.head
    let dst := y.slot y.tail
    let behind := y.linkseq ≠ x.head ∧ 0 < x.count ∧ (y.linkseq + 2 ^ 32 - x.head) % 2 ^ 32 ≤ x.count
    let lands (dd a n : Nat) : Prop := s2.Lands (qAttr (s2.homeHub a) dd) a n
    x.en = true → x.cmode = 1 → Apart x.phys 8 a 64 →
    (y.en = true → behind → lands d (a + 0x10) 4 →
      ∃ t, exec (.linkEntryMove dom q) s = .next t ∧ memReadN t.mem (a + 0x10) 4 = natLE 4 y.linkseq ∧ t.cores = s.cores ∧
        ∀ c, (c < a + 0x10 ∨ a + 0x14 ≤ c) → (c < x.phys ∨ x.phys + 8 ≤ c) → memRead t.mem c = memRead s.mem c) ∧
    (¬(y.en = true ∧ behind) → 0 < x.count → y.takes = true → y.armed = false → ∀ (gs : List Cap) (s3 : State),
      (s2.qCount d q.toNat 1).qGranules (qAttr ((s2.qCount d q.toNat 1).qHome d q.toNat) d) src (x.entry / 16) = (some gs, s3) →
      Apart a 64 b 64 → Apart x.phys 8 b 64 → Apart y.phys 8 a 64 → Apart y.phys 8 b 64 → Apart dst x.entry a 64 →
      Apart dst x.entry b 64 → Apart dst x.entry src x.entry → Apart dst x.entry x.phys 8 → Apart dst x.entry y.phys 8 →
      isRegPlace (s2.loc x.phys) = false → isRegPlace (s2.loc y.phys) = false → lands d (a + 0x10) 4 → lands td (b + 0x14) 24 →
      (∀ i, i < x.entry / 16 → lands td (dst + 16 * i) 16) →
      ∃ t, exec (.linkEntryMove dom q) s = .next t ∧ memReadN t.mem (a + 0x10) 4 = natLE 4 ((x.head + 1) % 2 ^ 32) ∧
        memReadN t.mem (b + 0x14) 4 = natLE 4 ((y.tail + 1) % 2 ^ 32) ∧
        memReadN t.mem (b + 0x28) 4 = natLE 4 ((x.head + 1) % 2 ^ 32) ∧
        memReadN t.mem dst (x.entry / 16 * 16) = memReadN s.mem src (x.entry / 16 * 16) ∧
        (∀ i, i < x.entry / 16 → t.tagAt (dst + 16 * i) = true → (gs.getD i Cap.null).sealed = true) ∧ t.cores = s.cores)


/-! ### Availability -/

/-- A fault of a covered cluster while the comet is free begins an eclipse, whose load takes the work over; a fault of a cluster that is not
covered loses it, and a fault of the comet fails it. RUN becomes DEGRADED. Faults outside RUN, DEGRADED and HOLD, and on a die that is
fenced or held, are not taken. -/
def Sys2Proof.Claims.FaultsOfClustersBeginEclipses : Prop :=
  ∀ (s : State) (d : Fin 6) (k : Fin 25) (f : FaultKind),
    let n := d.val
    let s0 := match f with | .uncorrectable a => s.ueMet a.toNat | _ => s
    let u := s0.faultBits n k.val (f == .residue)
    let taken := s.live = true ∧ n + 2 ∉ s.fenced ∧ n + 2 ∉ s.held
    let idle := (s.comet n).carry = none ∧ (s.comet n).loading = none ∧ (s.comet n).failed = false
    let kept (t : State) : Prop := (s.dev = 3 → t.dev = 4) ∧ t.mem = s.mem ∧ t.cores = s.cores
    (¬taken → exec (.clusterFault d k f) s = .next s0) ∧
    (taken → k.val < 24 → (s.cl n k.val).cond = 0 → u.covered n k.val = true → idle →
      ∃ t, exec (.clusterFault d k f) s = .next t ∧ (t.cl n k.val).cond = 1 ∧ (t.comet n).loading = some k.val ∧
        (t.comet n).carry = none ∧ kept t) ∧
    (taken → k.val < 24 → (s.cl n k.val).cond = 0 → u.covered n k.val = false →
      ∃ t, exec (.clusterFault d k f) s = .next t ∧ (t.cl n k.val).cond = 2 ∧ (t.cl n k.val).work = [] ∧ kept t) ∧
    (taken → k.val = 24 → idle →
      ∃ t, exec (.clusterFault d k f) s = .next t ∧ (t.comet n).failed = true ∧ t.fld (cometReg n) 0 2 = 3 ∧
        t.bit (cometReg n + 0x10) 1 = true ∧ kept t) ∧
    (∀ j, (s.comet n).loading = some j → s.dieActs (n + 2) = true →
      ∃ t, exec (.eclipseLoadComplete d) s = .next t ∧ (t.comet n).carry = some j ∧ (t.comet n).loading = none ∧
        (t.comet n).audit = none ∧ (t.cl n j).cond = (s.cl n j).cond ∧ (t.cl n j).quarter = 0 ∧ (t.cl n j).words = [])

/-- A planned eclipse waits for its boundary and a release for its own; each takes effect there; ECLIPSE is ignored while the comet is
taken, and RELEASE while nothing is carried by plan. -/
def Sys2Proof.Claims.PlannedEclipsesWaitForTheirBoundary : Prop :=
  ∀ (s : State) (d : Fin 6) (k : BitVec 5),
    let n := d.val
    let mode := s.fld (cometReg n) 0 2
    let free := mode ≠ 1 ∧ mode ≠ 3 ∧ k.toNat < 24 ∧ s.live = true ∧ (s.cl n k.toNat).cond = 0 ∧ s.covered n k.toNat = true ∧ s.dieActs (n + 2) = true
    let only (t : State) : Prop := { t with comets := s.comets } = s
    (free → ∃ t, exec (.eclipse d k) s = .next t ∧ (t.comet n).waiting = some k.toNat ∧ only t) ∧
    (¬free → exec (.eclipse d k) s = .next s) ∧
    ((s.comet n).planned = true → s.dieActs (n + 2) = true → ∃ t, exec (.release d) s = .next t ∧ (t.comet n).releasing = true ∧ only t) ∧
    ((s.comet n).planned = false ∨ s.dieActs (n + 2) = false → exec (.release d) s = .next s) ∧
    (∀ j, (s.comet n).waiting = some j → s.live = true → s.dieActs (n + 2) = true → (s.comet n).carry = none →
      (s.comet n).loading = none → (s.comet n).failed = false → (s.cl n j).cond = 0 → s.covered n j = true →
      s.plannedBoundary n j = true →
      ∃ t, exec (.plannedEclipseTakeEffect d) s = .next t ∧ (t.comet n).carry = some j ∧ (t.comet n).planned = true ∧
        (t.cl n j).cond = 3 ∧ t.fld (cometReg n) 0 2 = 1 ∧ t.fld (cometReg n) 2 5 = j % 32) ∧
    (∀ j, (s.comet n).carry = some j → s.live = true → s.dieActs (n + 2) = true → (s.comet n).planned = true →
      (s.comet n).releasing = true → s.plannedBoundary n j = true →
      ∃ t, exec (.releaseTakeEffect d) s = .next t ∧ (t.comet n).carry = none ∧ (t.comet n).planned = false ∧
        (t.comet n).releasing = false ∧ (t.cl n j).cond = 0 ∧ t.fld (cometReg n) 0 2 = 2)

/-- The comet's CRC of an audited block is counted; agreement ends the audit, disagreement sets AUDIT with the block's record and
has it run again, whose outcome fails the cluster, which is eclipsed, or the comet. -/
def Sys2Proof.Claims.AuditsCompareBlockCrcs : Prop :=
  ∀ (s : State) (d : Fin 6) (crc : BitVec 32) (k blk : Nat),
    let n := d.val
    let a := cometReg n
    let ws := (s.cl n k).words
    let sum := crc32c (ws.flatMap fun w => natLE 8 w.toNat)
    k < 25 → (s.comet n).audit = some (k, blk) → s.dieActs (n + 2) = true →
    ((s.comet n).rerun = false → ws.length = 8 * s.nOut → sum = crc.toNat →
      ∃ t, exec (.auditCrc d crc) s = .next t ∧ (t.comet n).audit = none ∧
        t.fld (a + 0x20) 0 32 = min (2 ^ 32 - 1) (s.fld (a + 0x20) 0 32 + 1) ∧ t.mem = s.mem ∧ SameRegsBut [a + 0x20] s t) ∧
    ((s.comet n).rerun = false → ws.length = 8 * s.nOut → sum ≠ crc.toNat →
      ∃ t, exec (.auditCrc d crc) s = .next t ∧ (t.comet n).rerun = true ∧ (t.comet n).audit = some (k, blk) ∧
        t.bit (a + 0x18) 63 = true ∧ t.mem = s.mem) ∧
    ((s.comet n).rerun = true → (s.comet n).carry = none → (s.comet n).loading = none → (s.comet n).failed = false →
      (s.live = true → n + 2 ∉ s.fenced → k < 24 → (s.cl n k).cond = 0 → s.covered n k = true →
        ∃ t, exec (.auditRerunComplete d true) s = .next t ∧ (t.comet n).audit = none ∧ (t.comet n).rerun = false ∧
          (t.cl n k).cond = 1 ∧ (t.comet n).loading = some k ∧ t.mem = s.mem) ∧
      ∃ t, exec (.auditRerunComplete d false) s = .next t ∧ (t.comet n).audit = none ∧ (t.comet n).rerun = false ∧
        (t.comet n).failed = true ∧ t.fld a 0 2 = 3 ∧ t.mem = s.mem)

/-- Fencing a hub moves its roles to the other, holds host requests back and takes RUN to DEGRADED; the last hub is not fenced by a
fault. Fencing a lattice die drops the blocks that wait in its clusters, and losing a mirror array clears the words of the four clusters
that it covers; both take RUN to DEGRADED. Memory and cores stay as they are. -/
def Sys2Proof.Claims.FencesMoveTheRolesAndDegrade : Prop :=
  (∀ (s : State) (h : Fin 2),
    let fenced (t : State) : Prop := h.val ∈ t.fenced ∧ h.val ∉ t.held ∧ t.hostWait = true ∧
      (s.active = h.val → t.active = 1 - h.val ∧ t.session = false) ∧ (s.active ≠ h.val → t.active = s.active) ∧
      (s.dev = 3 → t.dev = 4) ∧ t.mem = s.mem ∧ t.cores = s.cores
    (1 - h.val ∈ s.fenced → exec (.hubFence h) s = .next s ∧ exec (.hubPathLoss h) s = .next s) ∧
    (1 - h.val ∉ s.fenced → h.val ∉ s.fenced →
      (∃ t, exec (.hubFence h) s = .next t ∧ fenced t) ∧ (∃ t, exec (.hubPathLoss h) s = .next t ∧ fenced t))) ∧
  (∀ (s : State) (d : Fin 6), d.val + 2 ∉ s.fenced →
    ∃ t, exec (.dieFence d) s = .next t ∧ d.val + 2 ∈ t.fenced ∧ d.val + 2 ∉ t.held ∧ (s.dev = 3 → t.dev = 4) ∧
      (∀ k, k < 25 → (t.cl d.val k).work = [] ∧ (t.cl d.val k).busy = false) ∧ t.mem = s.mem ∧ t.cores = s.cores) ∧
  (∀ (s : State) (d a : Fin 6),
    ∃ t, exec (.mirrorArrayLoss d a) s = .next t ∧
      (∀ i, i < 4 → t.bit (cometReg d.val + 0x100 + 8 * (4 * a.val + i)) 63 = false) ∧ (s.dev = 3 → t.dev = 4) ∧
      6 * d.val + a.val ∈ t.lostArrays ∧ t.mem = s.mem ∧ t.cores = s.cores)

/-- A watchdog that expires counts as a fault of the unit that holds its group: it does what that unit's own fault does, sets a pair's
trouble bit or a DMA engine's, marks a hub core lost, retires a stream core, or fences a plane of a region switch. Those of a unit in
HOLD are quiet, and so are those of a die that has had no tick, which is the model's choice (assumption 107). -/
def Sys2Proof.Claims.WatchdogsReportTheirUnit : Prop :=
  ∀ (s : State) (u : WatchUnit),
    let ticking := (s.die (WatchUnit.die_ u)).tideValid
    (s.watchQuiet u = true ∨ ticking = false → exec (.handshakeWatchdogExpiry u) s = .next s) ∧
    (s.watchQuiet u = false → ticking = true →
      let told (g b : Nat) (t : State) : Prop := ∃ at_, t.troubles = s.troubles ++ [⟨g, b, at_⟩] ∧
        { t with troubles := s.troubles, fresh := s.fresh } = s
      let bits (g q : Nat) : Nat × Nat := (g + q / 8, q % 8)
      match u with
      | .cluster d k => exec (.handshakeWatchdogExpiry u) s = exec (.clusterFault d k .watchdog) s
      | .link l => exec (.handshakeWatchdogExpiry u) s = exec (.linkDown l) s
      | .hub h => exec (.handshakeWatchdogExpiry u) s = exec (.hubFence h) s
      | .die d => exec (.handshakeWatchdogExpiry u) s = exec (.dieFence d) s
      | .pair d p =>
        ∃ t, exec (.handshakeWatchdogExpiry u) s = .next t ∧ told (bits 24 (6 * d.val + p.val)).1 (bits 24 (6 * d.val + p.val)).2 t
      | .engine e =>
        ∃ t, exec (.handshakeWatchdogExpiry u) s = .next t ∧
          (if engDie e.val < 2 then told (34 + 3 * engDie e.val) 3 t else told (18 + (engDie e.val - 2)) 7 t)
      | .plane d g p =>
        ∃ t, exec (.handshakeWatchdogExpiry u) s = .next t ∧ 8 * d.val + 2 * g.val + p.val ∈ t.planes ∧
          { t with planes := s.planes } = s
      | .core c =>
        let n := coreDie c.val - 2
        let r := coreLocal c.val
        (coreKind c.val = 3 → ∃ t v, exec (.handshakeWatchdogExpiry u) s = .next t ∧ c.val ∈ t.lostHc ∧
          told (34 + 3 * coreDie c.val) 6 v ∧ t = { v with lostHc := t.lostHc }) ∧
        (coreKind c.val = 2 → ∃ t, exec (.handshakeWatchdogExpiry u) s = .next t ∧ t.mem = s.mem ∧ t.cores = s.cores ∧
          (if (r - 25) % 2 = 1 then (t.pairOf n ((r - 25) / 2)).retB = true else (t.pairOf n ((r - 25) / 2)).retA = true)) ∧
        (coreKind c.val < 2 → ∀ k : Fin 25, ∀ d : Fin 6, k.val = r → d.val = n →
          exec (.handshakeWatchdogExpiry u) s = exec (.clusterFault d k .watchdog) s))

/-- A source of a lost die moves to a surviving pair with budget to spare, where it fades in, or is marked as fitting nowhere with its
trouble bit; it moves to no other pair. Nothing else changes. -/
def Sys2Proof.Claims.SourcesOfLostDiesMove : Prop :=
  ∀ (s : State) (slot : BitVec 11) (q : Nat),
    let t := slot.toNat
    s.srcPairOf t = some q → t < s.nSlots → q / 6 + 2 ∈ s.fenced →
    (∀ p : Fin 36, s.moveFits p.val = true →
      ∃ u, exec (.sourceMove slot (some p)) s = .next u ∧ SMap.get (dflt 0) u.srcPair t = p.val + 1 ∧
        (SMap.get (dflt SrcIn.reset) u.srcIn t).fadeIn = true ∧ { u with srcPair := s.srcPair, srcIn := s.srcIn } = s) ∧
    (∀ p : Fin 36, s.moveFits p.val = false → exec (.sourceMove slot (some p)) s = .next s) ∧
    (∃ u, exec (.sourceMove slot none) s = .next u ∧ SMap.get (dflt 0) u.srcPair t = 37 ∧
      (∃ st, u.troubles = s.troubles ++ [⟨49, 3, st⟩]) ∧
      { u with srcPair := s.srcPair, troubles := s.troubles, fresh := s.fresh } = s)

/-- RUN comes into force at a block boundary once COMMAND was accepted: the device is in RUN, DEGRADED or HOLD, the path is answered and
the accesses that waited follow; anywhere else in a block nothing happens. -/
def Sys2Proof.Claims.RunEntryBringsTheDeviceIntoRun : Prop :=
  ∀ (s : State) (q : Nat), s.runReq = some q →
    let u := s.enterRun
    ((s.die s.active).tide % 16 = 0 → exec .runEntry s = .next (u.send q 0 []).accGo ∧ u.live = true ∧ u.runReq = none ∧
      (u.held = [] → u.dev = 3 ∨ u.dev = 4) ∧ (u.held ≠ [] → u.dev = 5)) ∧
    ((s.die s.active).tide % 16 ≠ 0 → exec .runEntry s = .next s)

/-! ### Dictionary, trust and the trouble record -/

/-- A dictionary write that passes its checks and that no batch holds acts as its entry says, and its path is answered with the entry's
code: RATE, COMMAND, PROGRAM, TROUBLE, the live update, the fuses, TRUST and FACTORYOK, CLOSE, and STAGE. BATCH opens and closes a batch;
while one is open TROUBLE has no effect on the record yet, and a batch that is full takes no write. -/
def Obligations.DictionaryCommandsActThroughTheirEntries : Prop :=
  ∀ (s : State) (p : Path),
    let open_ (p : Path) : Prop := s.pathLive p = true ∧ ∀ k, p = .mailbox k → 2 ≤ s.dev
    let passes (p : Path) (i sub : Nat) (data : List Byte) : Prop :=
      open_ p ∧ s.runReq = none ∧ s.writeCode p i sub data = 0 ∧ s.condOk i sub data = true
    let accepted (p : Path) (i sub : Nat) (data : List Byte) : Prop := passes p i sub data ∧ s.heldOf p = none
    -- the state as the access reaches the dictionary: the meters of CXL.io payload have counted a mailbox's
    let came (n : Nat) : State := match p with | .mailbox ld => s.mailIn ld.val (8 + n) | _ => s
    let reply (p : Path) (code : Nat) (t : State) : Host.Outcome State Fault Refusal := .next (t.send (pathNum p) code [])
    let fused (u : State) (i : Nat) (w : Word) : Prop := ∀ h, h < 2 → h ∉ s.fenced → u.fuse h i = s.fuse h i ||| w
    (∀ v : BitVec 32, accepted p 0x2000 1 (natLE 4 v.toNat) →
      ∃ u : State, exec (.rate p v) s = reply p 0 u ∧ u.rate96 = decide (v.toNat = 96000) ∧ u.mem = s.mem ∧ u.cores = s.cores) ∧
    (∀ v : Byte, accepted p 0x2000 3 [v] →
      (s.dev ≠ 2 → exec (.command p v) s = reply p abState (came 1)) ∧
      (s.dev = 2 → s.runCheck = none → ∃ t, exec (.command p v) s = .next t ∧ t.runReq = some (pathNum p) ∧ t.dev = 2 ∧
        t.mem = s.mem ∧ t.cores = s.cores) ∧
      (s.dev = 2 → ∀ c e, s.runCheck = some (c, e) →
        exec (.command p v) s = reply p abCond ((came 1).dSet (dKey 0x2000 4) (natLE 4 (c + 256 * e))))) ∧
    (∀ (dom : BitVec 4) (v : Byte), dom ≠ 0 → v.toNat < 2 → passes p (0x3100 + dom.toNat) 7 [v] →
      ∃ u : State, exec (.batch p dom v) s = reply p 0 u ∧ (SMap.get (dflt none) u.batchHeld dom.toNat).isSome = decide (v = 1) ∧
        u.mem = s.mem ∧ u.cores = s.cores) ∧
    (∀ (dom : BitVec 4) (i : Fin 64) (r : BitVec 256),
      let bs := natLE 32 r.toNat
      let ps := s.otherProgs dom.toNat (i.val + 1)
      let old := (SMap.get (dflt []) s.progs dom.toNat).filter fun x => x.num0 == i.val + 1
      let stands (u : State) (l : List Prog) : Prop := SMap.get (dflt []) u.progs dom.toNat = l
      dom ≠ 0 → accepted p (0x3300 + dom.toNat) (i.val + 1) bs → s.dev ≠ 2 →
      (progFieldsOk bs = false → exec (.program p dom i r) s = reply p abRange (came 32)) ∧
      (progFieldsOk bs = true → fieldAt bs 0 1 = 0 →
        ∃ u : State, exec (.program p dom i r) s = reply p 0 u ∧ stands u ps ∧ u.mem = s.mem ∧ u.cores = s.cores) ∧
      (progFieldsOk bs = true → fieldAt bs 0 1 ≠ 0 → (∀ x ∈ ps, x.kind = fieldAt bs 0 1 → x.num ≠ fieldAt bs 2 2) →
        fieldAt bs 4 4 + (ps.map (·.len)).sum ≤ 0x1000000 → ∀ code u off,
        (came 32).domRead (4 * s.active + s.rtCore) dom.toNat 0 (fieldAt bs 8 8) (fieldAt bs 4 4) = (some code, u) →
        storeFit (ps ++ old) (fieldAt bs 4 4) = some off →
        ∃ v : State, exec (.program p dom i r) s = reply p 0 v ∧
          stands v (ps ++ [⟨i.val + 1, fieldAt bs 0 1, fieldAt bs 2 2, off, fieldAt bs 4 4, fieldAt bs 0x10 4, fieldAt bs 0x14 4,
            u.fresh⟩]))) ∧
    (∀ (g : Fin 64) (v : Byte),
      (accepted p 0x9000 (g.val + 1) [v] →
        ∃ u : State, exec (.trouble p g v) s = reply p 0 u ∧ u.mem = s.mem ∧ u.cores = s.cores ∧
          ∀ h, h < 2 → u.fld (hubReg h 6 + 0x400 + 8 * g.val) 0 8 = s.trBits g.val &&& (255 - v.toNat)) ∧
      (passes p 0x9000 (g.val + 1) [v] → s.heldOf p ≠ none → s.batchFull p = false →
        ∃ u : State, exec (.trouble p g v) s = reply p 0 u ∧ u.regs = s.regs ∧ u.mem = s.mem ∧ u.cores = s.cores) ∧
      (passes p 0x9000 (g.val + 1) [v] → s.batchFull p = true → exec (.trouble p g v) s = reply p abMemory (came 1))) ∧
    (accepted p 0x2040 1 [1] → s.dev = 3 ∨ s.dev = 4 → s.update.stat ≠ 1 → s.update.stat ≠ 2 →
      let ready := s.stageStat = 2 ∧ ∀ n, n < 6 → (s.comet n).failed = false ∧ (s.comet n).loading = none ∧
        ((s.comet n).carry ≠ none → (s.comet n).planned = true)
      (ready → ∀ c cs, s.updateUnits = c :: cs →
        ∃ u : State, exec (.updcmdStart p) s = reply p 0 u ∧ u.update = ⟨1, c, cs, false⟩ ∧ u.mem = s.mem ∧ u.cores = s.cores) ∧
      (¬ready → ∃ u : State, exec (.updcmdStart p) s = reply p abCond u ∧ u.update.stat = 5 ∧ u.mem = s.mem ∧ u.cores = s.cores)) ∧
    (accepted p 0x2040 1 [2] →
      (s.update.stat = 1 ∨ s.update.stat = 2 →
        exec (.updcmdStop p) s = reply p 0 { came 1 with update := { s.update with stop := true } }) ∧
      (s.update.stat ≠ 1 → s.update.stat ≠ 2 → exec (.updcmdStop p) s = reply p abCond (came 1))) ∧
    (∀ v : Byte,
      (accepted p 0xA001 0 [v] → s.dev = 2 → v.toNat = s.lifecycle + 1 → s.lcFuse ≠ v.toNat →
        ∃ u : State, exec (.lcadvance p v) s = reply p 0 u ∧ fused u 0 (BitVec.ofNat 64 v.toNat) ∧ u.mem = s.mem) ∧
      (accepted p 0xA003 0 [v] → getBits (s.orFuse 1) v.toNat 1 = 0 → (upTo 4).filter s.slotOk ≠ [v.toNat] →
        (∀ r, s.runImg = some r → r.slot ≠ v.toNat) →
        ∃ u : State, exec (.revoke p v) s = reply p 0 u ∧ fused u 1 (BitVec.ofNat 64 (2 ^ v.toNat)) ∧ u.mem = s.mem) ∧
      (accepted p 0xA004 0 [v] → popCount 64 (s.orFuse 2).toNat < v.toNat → ∀ r, s.runImg = some r → v.toNat ≤ r.svn →
        ∃ u : State, exec (.svnfloor p v) s = reply p 0 u ∧ fused u 2 (BitVec.ofNat 64 (2 ^ v.toNat - 1)) ∧ u.mem = s.mem) ∧
      (accepted p 0xA101 0 [v] → ∃ u : State, exec (.factoryok p v) s = reply p 0 u.sessionCheck ∧
        u.trustOpen = (s.trustOpen || decide (v = 1)) ∧ u.mem = s.mem ∧ u.regs = s.regs) ∧
      (accepted .sdo 0xA110 4 [v] →
        ∃ u : State, exec (.close v) s = reply .sdo 0 u ∧ u.session = false ∧ u.bit (hubReg s.canActive 10) 12 = false ∧
          SameRegsBut [hubReg s.canActive 10] s u ∧ u.mem = s.mem)) ∧
    (∀ (i : Fin 2) (v : BitVec 512), accepted p 0xA002 (i.val + 1) (natLE 64 v.toNat) → s.slotBlank (2 + i.val) = true → v ≠ 0 →
      ∃ u : State, exec (.ownerkey p i v) s = reply p 0 u ∧ u.mem = s.mem ∧
        ∀ w, w < 8 → fused u (21 + 8 * i.val + w) (BitVec.ofNat 64 (v.toNat / 2 ^ (64 * w)))) ∧
    (∀ hs : List (BitVec 512), accepted p 0xA100 0 (hs.flatMap fun h => natLE 64 h.toNat) →
      ∃ u : State, exec (.trust p hs) s = reply p 0 u.sessionCheck ∧ u.trustOpen = (s.trustOpen || decide (hs ≠ [])) ∧
        u.mem = s.mem ∧ u.regs = s.regs) ∧
    (∀ (off : BitVec 32) (last : Bool) (data : List Byte),
      let q := pathNum p
      let o := off.toNat
      open_ p → s.posted = [] → s.runReq = none → s.writeCode p 0x2041 1 data = 0 → s.dev = 3 ∨ s.dev = 4 → s.update.stat ≠ 1 →
      s.update.stat ≠ 2 → s.stageWait = none → (∀ j, s.stageOwner = some j → j = q) →
      (o = 0 ∨ s.stageOwner = some q ∧ o = s.stageLen) → o + data.length ≤ 0x4000000 →
      ∃ u : State, exec (.stage p off last data) s = (if last then .next u else reply p 0 u) ∧ u.stageBuf = s.stageBuf.take o ++ data ∧
        u.stageLen = o + data.length ∧ u.stageOwner = some q ∧ u.stageWait = (if last then some q else none) ∧
        u.mem = s.mem ∧ u.cores = s.cores)

/-- The lifecycle advances by one step in CONFIG and burns its fuse, an owner slot that is blank takes a key hash, and a key slot
that does not verify the running image and is not the last is revoked; anything else burns nothing. -/
def Sys2Proof.Claims.FusesBurnOnlyByTheirRules : Prop :=
  ∀ (s : State) (v k : Nat),
    (s.dev = 2 → v = s.lifecycle + 1 → s.lcFuse ≠ v →
      s.lcAdvance v = (0, (s.burn 0 (BitVec.ofNat 64 v)).measure 5 0 255 v)) ∧
    (s.dev ≠ 2 → s.lcAdvance v = (abState, s)) ∧ (v ≠ s.lifecycle + 1 → (s.lcAdvance v).2 = s) ∧
    (s.slotBlank (2 + k) = false → s.ownerKey k v = (abCond, s)) ∧
    ((upTo 4).filter s.slotOk = [k] → s.revoke k = (abCond, s)) ∧
    (∀ r, s.runImg = some r → r.slot = k → s.revoke k = (abCond, s)) ∧
    (∀ h i w, (s.fuse h i &&& (s.burn k w).fuse h i) = s.fuse h i)

/-- NONCE draws a fresh value; AUTH spends it, opens the session where a trusted key signed it, and otherwise counts a failure and
sets its sticky bit; the fourth failure in a row locks AUTH until its lockout ends; a session and a nonce end at their timeouts. -/
def Sys2Proof.Claims.SessionsOpenBySignedNonces : Prop :=
  ∀ (s : State) (key : BitVec 256) (sig : BitVec 512),
    let h := sha (natLE 32 key.toNat)
    let good := s.trusted h = true ∧ ∃ n, s.nonceNow = some n ∧ Config.edValid key (natLE 32 n) sig = true
    let accepted := s.canUp = true ∧ s.runReq = none ∧ s.writeCode .long 0xA110 2 (natLE 32 key.toNat ++ natLE 64 sig.toNat) = 0 ∧
      s.condOk 0xA110 2 (natLE 32 key.toNat ++ natLE 64 sig.toNat) = true
    (s.canUp = true → s.runReq = none → s.readCode .sdo 0xA110 1 = 0 →
      ∃ t bs, exec .nonce s = .next t ∧ t.resp = .dict 0 bs ∧ bs.length = 32 ∧ t.nonceNow = some (leNat bs) ∧
        { t with resp := s.resp, nonceNow := s.nonceNow, fresh := s.fresh } = s) ∧
    (accepted → s.authLock = false → good →
      ∃ u : State, exec (.auth key sig) s = .next (u.send 33 0 []) ∧ u.session = true ∧ u.sessKey = h ∧ u.nonceNow = none ∧
        u.authFails = 0 ∧ u.bit (hubReg s.canActive 10) 12 = true ∧ u.mem = s.mem ∧ u.fuses = s.fuses) ∧
    (accepted → s.authLock = false → ¬good →
      ∃ u : State, exec (.auth key sig) s = .next (u.send 33 abAuth []) ∧ u.session = s.session ∧ u.nonceNow = none ∧
        u.authFails = s.authFails + 1 ∧ u.authLock = decide (4 ≤ s.authFails + 1)) ∧
    (accepted → s.authLock = true → exec (.auth key sig) s = .next (State.send { s with nonceNow := none } 33 abAuth [])) ∧
    (s.session = true → ∃ t, exec .sessionTimeout s = .next t ∧ t.session = false ∧
      t.bit (hubReg s.canActive 10) 12 = false ∧ SameRegsBut [hubReg s.canActive 10] s t ∧ t.mem = s.mem) ∧
    (s.authLock = true → exec .authLockoutExpiry s = .next { s with authLock := false, authFails := 0 }) ∧
    exec .nonceExpiry s = .next { s with nonceNow := none }

/-- The image whose last part waits is verified: a good one runs at CONFIG entry, any other frees the load; a staged one likewise
gives its status; the path that sent the last part is answered. -/
def Sys2Proof.Claims.ImagesAreVerifiedWhole : Prop :=
  ∀ (s : State) (code : Nat) (r : RunImg),
    (s.imgWait = true → s.verify (s.peek imgBase s.imgLen) = (code, r) →
      ∃ u : State, exec .imageVerifyComplete s = .next (u.send (s.imgOwner.getD 35) (imgReply code) []) ∧ u.imgWait = false ∧
        u.imgStat = code ∧ (code = 2 → u.runImg = some r ∧ u.imgLen = s.imgLen) ∧
        (code ≠ 2 → u.runImg = s.runImg ∧ u.imgOwner = none ∧ u.imgLen = 0) ∧ u.mem = s.mem ∧ u.cores = s.cores) ∧
    (s.imgWait = false → ∀ q, s.stageWait = some q → s.verify s.stageBuf = (code, r) →
      ∃ u : State, exec .imageVerifyComplete s = .next (u.send q (imgReply code) []) ∧ u.stageWait = none ∧ u.stageStat = code ∧
        u.stagedImg = (if code = 2 then some r else none) ∧ u.mem = s.mem ∧ u.cores = s.cores)

/-- A trouble message sets its bit in the record of every hub that holds one, with the stamp of an empty group's first set; a write
of 1 clears bits, and the stamp of a group left empty. -/
def Obligations.TroubleIsRecordedAndCleared : Prop :=
  ∀ (s : State) (m : TroubleMsg) (ms : List TroubleMsg) (g : Fin 64) (v : Byte),
    let a := hubReg s.active 6
    s.active < 2 → s.fenced = [] → s.held = [] →
    (s.troubles = m :: ms → m.group < 64 → m.bit < 8 →
      ∃ t, exec .troubleSet s = .next t ∧ t.troubles = ms ∧ t.bit (a + 0x400 + 8 * m.group) m.bit = true ∧
        (s.trBits m.group = 0 → t.rg (a + 0x600 + 8 * m.group) = BitVec.ofNat 64 (m.stamp % 2 ^ 63 + 2 ^ 63)) ∧
        (∀ b, b < 8 → b ≠ m.bit → t.bit (a + 0x400 + 8 * m.group) b = s.bit (a + 0x400 + 8 * m.group) b) ∧ t.mem = s.mem) ∧
    (∃ t, exec (.trbitsClear g v) s = .next t ∧ t.fld (a + 0x400 + 8 * g.val) 0 8 = s.trBits g.val &&& (255 - v.toNat) ∧
      (s.trBits g.val &&& (255 - v.toNat) = 0 → t.bit (a + 0x600 + 8 * g.val) 63 = false) ∧ t.mem = s.mem ∧ t.troubles = s.troubles)

/-- A live update loads each unit with the new runtime in turn, moves the roles between the hubs on the way at a block boundary, stops
after a unit where it was told to, and after the last has the staged image run. That each load puts the image's segments in place again is
the model's choice (assumption 108). -/
def Sys2Proof.Claims.LiveUpdatesGoUnitByUnit : Prop :=
  ∀ (s : State),
    let u := s.update
    (u.stat = 1 → coreKind u.unit = 3 → coreDie u.unit = s.active → 1 - s.active ∉ s.fenced →
      ((s.die s.active).tide % 16 = 0 →
        ∃ t, exec .hubRoleSwap s = .next t ∧ t.active = 1 - s.active ∧ t.canActive = 1 - s.active ∧ t.session = false ∧
          t.update = s.update ∧ t.mem = s.mem ∧ t.cores = s.cores) ∧
      ((s.die s.active).tide % 16 ≠ 0 → exec .hubRoleSwap s = .next s)) ∧
    (u.stat = 1 ∨ u.stat = 2 → s.unitReady u.unit = true →
      let loaded (t : State) : Prop :=
        (∀ r, s.stagedImg = some r → t.core u.unit = CoreS.reset (r.entries.getD (coreKind u.unit) 0) true ∧
          SameOtherCores u.unit s t ∧ t.mem = (s.loadSegments s.stageBuf).mem) ∧
        (s.stagedImg = none → t.mem = s.mem ∧ t.cores = s.cores)
      (u.stop = true → ∃ t, exec .updateUnitComplete s = .next t ∧ loaded t ∧
        t.update = { u with stat := 4, todo := [], stop := false } ∧ t.runImg = s.runImg) ∧
      (u.stop = false → u.todo = [] →
        ∃ t, exec .updateUnitComplete s = .next t ∧ loaded t ∧ t.update.stat = 3 ∧ t.runImg = s.stagedImg) ∧
      (u.stop = false → ∀ c cs, u.todo = c :: cs →
        ∃ t, exec .updateUnitComplete s = .next t ∧ loaded t ∧ t.update = ⟨if c < 8 then 1 else 2, c, cs, false⟩))

/-! ### The service port, long transfers and NGP -/

/-- A transfer that waits a second for its next part is given up, with an abort on the service port while its controller is on the bus,
and so is an image load. -/
def Sys2Proof.Claims.TransfersTimeOut : Prop :=
  ∀ (s : State) (p : Path), s.stageOwner = none →
    let q := pathNum p
    (∀ x : Xfer, s.xferOf q = some x → s.imgOwner = none →
      ∃ t, exec (.transferTimeout p) s = .next t ∧ t.xferOf q = none ∧ { t with xfers := s.xfers, resp := s.resp } = s ∧
        (s.canUp = true → p = .sdo → t.resp = s.sdoAbort x.idx x.sub abTimeout) ∧
        (s.canUp = true → p = .long → t.resp = s.longFrame ([0x06, 0] ++ natLE 4 abTimeout)) ∧
        (s.canUp = false ∨ (p ≠ .sdo ∧ p ≠ .long) → t.resp = s.resp)) ∧
    (s.dev = 1 → s.imgOwner = some q → s.imgWait = false → s.imgStat = 1 →
      ∃ t, exec (.transferTimeout p) s = .next t ∧ t.xferOf q = none ∧ t.imgOwner = none ∧ t.imgStat = 0 ∧ t.imgLen = 0 ∧
        t.mem = s.mem ∧ t.cores = s.cores)

/-- SDO requests are answered by 14 R428: an upload of up to four bytes at once and a longer one in segments, a download of up to four
bytes written at once, a longer one taken in segments and written with the last, a segment without a transfer and any other specifier
aborted; an abort ends the transfer; NMT is ignored, and the heartbeat shows the state. -/
def Sys2Proof.Claims.SdoRequestsAreAnswered : Prop :=
  ∀ (s : State) (f : Word) (nmt : BitVec 16),
    let i := sdoIdx f
    let sub := sdoSub f
    let head := natLE 2 i ++ natLE 1 sub
    let s0 := s.newXfer 32
    let s1 := s.setXfer 32 none
    exec (.nmtCommand nmt) s = .next s ∧
    (s.canUp = true → s.dNat (dKey 0x1017 0) ≠ 0 →
      exec .heartbeat s = .next { s with resp := .frame (0x700 + s.straps.node.toNat) [if s.dev < 2 then 0x7F else 0x05] }) ∧
    (s.canUp = true → s.runReq = none →
      (sdoCcs f = 2 → ∀ v t, s0.dictRead .sdo i sub = ((0, v), t) →
        (1 ≤ v.length → v.length ≤ 4 →
          exec (.sdoUpload f) s = .next { t with resp := t.sdoFrame (natLE 1 (0x43 + 4 * (4 - v.length)) ++ head ++ v) }) ∧
        (4 < v.length → ∃ u, exec (.sdoUpload f) s = .next u ∧
          u.xferOf 32 = some ⟨false, i, sub, v, v.length, 0, false, 0⟩ ∧ u.resp = t.sdoFrame ([0x41] ++ head ++ natLE 4 v.length) ∧
          { u with xfers := t.xfers, resp := t.resp } = t)) ∧
      (sdoCcs f = 1 → getBits f 1 1 = 1 → ∀ c t,
        s0.dictWrite .sdo i sub (natLE (if getBits f 0 1 = 1 then 4 - getBits f 2 2 else 4) (getBits f 32 32)) = (some c, t) →
        exec (.sdoDownload f) s = .next { t.settle with
          resp := if c = 0 then t.settle.sdoFrame ([0x60] ++ head) else t.settle.sdoAbort i sub c }) ∧
      (sdoCcs f = 1 → getBits f 1 1 = 0 → s0.headCode .sdo i sub = 0 →
        ∃ u, exec (.sdoDownload f) s = .next u ∧ u.resp = s.sdoFrame ([0x60] ++ head) ∧ { u with xfers := s0.xfers, resp := s0.resp } = s0 ∧
          u.xferOf 32 = some ⟨true, i, sub, [], if getBits f 0 1 = 1 then getBits f 32 32 else 0, 0, false, 0⟩) ∧
      (∀ x, s.xferOf 32 = some x →
        let t := getBits f 4 1 == 1
        let part := (x.data.drop x.pos).take 7
        let only (u : State) : Prop := { u with xfers := s.xfers, resp := s.resp } = s
        (sdoCcs f = 0 → x.write = true → t = x.toggle → getBits f 0 1 = 0 →
          ∃ u, exec (.sdoSegment f) s = .next u ∧ only u ∧ u.resp = s.sdoFrame (natLE 1 (0x20 + 16 * b2n t)) ∧
            u.xferOf 32 = some { x with data := x.data ++ natLE (7 - getBits f 1 3) (getBits f 8 56), toggle := !x.toggle }) ∧
        (sdoCcs f = 0 → x.write = true → t = x.toggle → getBits f 0 1 = 1 →
          let v := x.data ++ natLE (7 - getBits f 1 3) (getBits f 8 56)
          x.total = 0 ∨ x.total = v.length → ∀ c z, s1.dictWrite .sdo x.idx x.sub v = (some c, z) →
          exec (.sdoSegment f) s = .next { z.settle with
            resp := if c = 0 then z.settle.sdoFrame (natLE 1 (0x20 + 16 * b2n t)) else z.settle.sdoAbort x.idx x.sub c }) ∧
        (sdoCcs f = 3 → x.write = false → t = x.toggle →
          ∃ u, exec (.sdoSegment f) s = .next u ∧ only u ∧
            u.xferOf 32 = (if x.data.length ≤ x.pos + 7 then none else some { x with pos := x.pos + 7, toggle := !x.toggle }) ∧
            u.resp = s.sdoFrame (natLE 1 (16 * b2n t + 2 * (7 - part.length) + b2n (decide (x.data.length ≤ x.pos + 7))) ++ part)) ∧
        (sdoCcs f = 0 ∨ sdoCcs f = 3 → x.write = decide (sdoCcs f = 0) → t ≠ x.toggle →
          ∃ u, exec (.sdoSegment f) s = .next u ∧ only u ∧ u.xferOf 32 = none ∧ u.resp = s.sdoAbort x.idx x.sub abToggle)) ∧
      (sdoCcs f = 0 ∨ sdoCcs f = 3 → s.xferOf 32 = none →
        exec (.sdoSegment f) s = .next { s with resp := s.sdoAbort 0 0 abSpecifier }) ∧
      (sdoCcs f = 4 → exec (.sdoSegment f) s = .next s1)) ∧
    (s.canUp = true → 4 < sdoCcs f → exec (.sdoInvalidCommand f) s = .next { s1 with resp := s.sdoAbort i sub abSpecifier })

/-- A long transfer runs by 14 R429: INIT opens it, DATA in order is taken and acknowledged in sixteens, ACK has the next frames sent,
END writes the whole value where its CRC-32C agrees, and ABORT ends it with nothing applied. -/
def Sys2Proof.Claims.LongTransfersMoveWholeValues : Prop :=
  ∀ (s : State) (f : BitVec 512),
    let i := frNat f 2 2
    let sub := frByte f 4
    let s0 := s.newXfer 33
    let s1 := s.setXfer 33 none
    let head (op n code : Nat) : List Byte := natLE 1 op ++ [0] ++ natLE 2 i ++ natLE 1 sub ++ [0] ++ natLE 4 n ++ natLE 4 code
    s.canUp = true → s.runReq = none →
    (frByte f 0 = 1 → ∀ v t, s0.dictRead .long i sub = ((0, v), t) →
      let x : Xfer := ⟨false, i, sub, v, v.length, 0, false, 0⟩
      ∃ u, exec (.initFrame f) s = .next u ∧ { u with xfers := t.xfers, resp := t.resp } = t ∧
        u.xferOf 33 = some { x with seq := min (longFrames v.length) 16 } ∧
        u.resp = .frames (0x1F5B000 + t.straps.node.toNat) ([(head 0x81 v.length 0 ++ zeros 64).take 64] ++ x.burst)) ∧
    (frByte f 0 = 2 → ∀ t, s0.longHead i sub (frNat f 6 4) = (0, t) →
      exec (.initFrame f) s = .next { t.setXfer 33 (some ⟨true, i, sub, [], frNat f 6 4, 0, false, 0⟩) with
        resp := t.longFrame (head 0x82 (frNat f 6 4) 0) }) ∧
    (∀ x, s.xferOf 33 = some x →
      (x.write = true → frByte f 0 = 3 → frByte f 1 = x.seq % 256 → x.data.length < x.total →
        ∃ t, exec (.dataFrame f) s = .next t ∧
          t.xferOf 33 = some { x with data := x.data ++ natLE (min 62 (x.total - x.data.length)) (frNat f 2 62), seq := x.seq + 1 } ∧
          { t with xfers := s.xfers, resp := s.resp } = s ∧
          ((x.seq + 1) % 16 = 0 → t.resp = s.longFrame ([4] ++ natLE 1 (x.seq + 1 + 255)))) ∧
      (x.write = true → frByte f 0 = 3 → frByte f 1 ≠ x.seq % 256 →
        exec (.dataFrame f) s = .next { s with resp := s.longFrame ([4] ++ natLE 1 (x.seq + 255)) }) ∧
      (x.write = false → frByte f 0 = 4 →
        let pos := x.pos + (frByte f 1 + 1 + 256 - x.pos % 256) % 256
        pos ≤ x.seq → ∃ u, exec (.ackFrame f) s = .next u ∧ { u with xfers := s.xfers, resp := s.resp } = s ∧
          u.xferOf 33 = some { x with pos := pos, seq := min (longFrames x.data.length) (pos + 16) } ∧
          u.resp = .frames (0x1F5B000 + s.straps.node.toNat) { x with pos := pos }.burst) ∧
      (x.write = true → frByte f 0 = 5 → frNat f 2 4 = crc32c x.data → x.data.length = x.total →
        (∀ c t, s1.dictPart .long x.idx x.sub 0 true x.data = (some c, t) →
          exec (.endFrame f) s = .next (t.send 33 c []).settle) ∧
        (∀ t, s1.dictPart .long x.idx x.sub 0 true x.data = (none, t) → exec (.endFrame f) s = .next t.settle)) ∧
      (x.write = true → frByte f 0 = 5 → frNat f 2 4 ≠ crc32c x.data ∨ x.data.length ≠ x.total → x.idx ≠ 0x1F50 →
        exec (.endFrame f) s = .next { s1 with resp := s.longFrame ([0x85, 0] ++ natLE 4 abCrc) }) ∧
      (x.write = false → frByte f 0 = 0x85 → exec (.endFrame f) s = .next s1) ∧
      (frByte f 0 = 6 → x.idx ≠ 0x1F50 → exec (.abortFrame f) s = .next s1))

/-- An NGP request that is accepted, with its replay record, is served for its domain and answered by a datagram to where it came from,
at once or, for an image part or a write whose answer comes later, then; one that is not accepted is dropped without an answer. -/
def Sys2Proof.Claims.NgpRequestsAreServedForTheirDomain : Prop :=
  ∀ (s u : State) (p : Fin 4) (k : NgpMsg),
    let q : Path := .ngp (k.dom.truncate 4)
    let req (op : Nat) : NgpReq := ⟨p.val, op, k⟩
    let last := k.flags.getLsbD 0
    let answered (v : State) (op code total : Nat) (data : List Byte) (t : State) : Prop :=
      t.resp = .ngp p.val k.srcIp.toNat k.srcPort.toNat (v.ngpMsg (req op) code total data) ∧ t.mem = v.mem ∧ t.cores = v.cores ∧
        t.dict = v.dict ∧ SameRegsBut [portReg p.val + 0x38] v t
    let waits (v t : State) : Prop := t = { v with ngpReq := t.ngpReq } ∧ t.resp = v.resp
    (s.ngpAccept p.val 1 k = (false, u) → exec (.ngpRead p k) s = .next u) ∧
    (s.ngpAccept p.val 2 k = (false, u) → exec (.ngpWrite p k) s = .next u) ∧
    (s.ngpAccept p.val 3 k = (false, u) → exec (.ngpImage p k) s = .next u) ∧
    (s.ngpAccept p.val 4 k = (false, u) → exec (.ngpInfo p k) s = .next u) ∧
    (s.ngpAccept p.val 1 k = (true, u) → s.runReq = none →
      let r := (u.ngpCarried (req 1)).dictGet q k.index.toNat k.sub.toNat k.off.toNat 1024
      ∃ t, exec (.ngpRead p k) s = .next t ∧ answered r.2 1 r.1.1 r.1.2.1 r.1.2.2 t) ∧
    (s.ngpAccept p.val 2 k = (true, u) → s.runReq = none →
      let r := (u.ngpCarried (req 2)).dictPart q k.index.toNat k.sub.toNat k.off.toNat last k.data
      r.2.posted = [] →
      (∀ c, r.1 = some c → ∃ t, exec (.ngpWrite p k) s = .next t ∧ answered r.2 2 c 0 [] t) ∧
      (r.1 = none → ∃ t, exec (.ngpWrite p k) s = .next t ∧ waits r.2 t)) ∧
    (s.ngpAccept p.val 3 k = (true, u) →
      let v := u.ngpCarried (req 3)
      let r := (if k.off.toNat = 0 then v.newXfer (pathNum q) else v).imagePart q k.off.toNat last k.data
      (∀ c, r.1 = some c → ∃ t, exec (.ngpImage p k) s = .next t ∧ answered r.2 3 c 0 [] t) ∧
      (r.1 = none → ∃ t, exec (.ngpImage p k) s = .next t ∧ waits r.2 t)) ∧
    (s.ngpAccept p.val 4 k = (true, u) →
      ∃ t, exec (.ngpInfo p k) s = .next t ∧ answered u 4 0 0 (u.deviceInfo k.dom.toNat) t)

/-- CAN errors set the counters and the state they give, above 255 bus off with its sticky bit; recovery is error active with both
counters 0. -/
def Sys2Proof.Claims.CanErrorsConfineTheController : Prop :=
  ∀ (s : State) (h : Fin 2) (tec rec : BitVec 9),
    let r := canReg h.val
    (s.dieActs h.val = true → h.val ∉ s.busOff →
      ∃ t, exec (.canBusError h tec rec) s = .next t ∧
        t.fld r 10 2 = (if 255 < tec.toNat then 2 else if 127 < tec.toNat ∨ 127 < rec.toNat then 1 else 0) ∧
        t.fld (r + 0x10) 0 8 = tec.toNat % 256 ∧ t.fld (r + 0x10) 8 8 = rec.toNat % 256 ∧
        (h.val ∈ t.busOff ↔ 255 < tec.toNat) ∧ t.mem = s.mem ∧ t.cores = s.cores) ∧
    (h.val ∈ s.busOff →
      ∃ t, exec (.busOffRecovery h) s = .next t ∧ h.val ∉ t.busOff ∧ t.fld r 10 2 = 0 ∧ t.fld (r + 0x10) 0 16 = 0 ∧
        SameRegsBut [r, r + 0x10] s t ∧ t.mem = s.mem)

/-- SNAP starts a snapshot on the active hub's enabled collector, or is an overrun while one is in progress; a periodic one only where it is
due. Its completion stores the record in slot SEQ mod NREC of COLBUF where the target takes it, advances SEQ on both hubs and ends it. -/
def Sys2Proof.Claims.SnapshotsAreStoredAndNumbered : Prop :=
  ∀ (s : State) (c : ColS) (periodic : Bool), s.active < 2 → 1 - s.active ∉ s.fenced →
    let r := colBase s.active + 0x60
    let frame (t : State) : Prop := SameRegsBut [r] s t ∧ t.mem = s.mem ∧ t.cores = s.cores
    (periodic = false ∨ s.snapDue s.active = true →
      (s.bit (colBase s.active) 0 = false → ∃ t, exec (.snap periodic) s = .next t ∧ { t with snapBlk := s.snapBlk } = s) ∧
      (s.bit (colBase s.active) 0 = true → s.colOf s.active = none →
        ∃ t, exec (.snap periodic) s = .next t ∧ (t.colOf s.active).isSome = true ∧ t.bit r 32 = true ∧ frame t) ∧
      (s.bit (colBase s.active) 0 = true → s.colOf s.active = some c →
        ∃ t, exec (.snap periodic) s = .next t ∧ t.colOf s.active = some c ∧ t.bit r 33 = true ∧ frame t)) ∧
    (periodic = true → s.snapDue s.active = false → exec (.snap periodic) s = .next s) ∧
    (s.colOf s.active = some c → (∀ p ∈ (s.colSets s.active).take 256, p.1 ∉ s.held) →
      let seq := s.fld (colBase s.active + 0x60) 0 32
      let a := s.fld (colBase s.active + 0x10) 6 38 * 64 + 8256 * (seq % s.fld (colBase s.active) 18 8)
      let n := 64 + 8 * c.entries.length
      ∃ t, exec .snapshotComplete s = .next t ∧ t.colOf s.active = none ∧
        t.fld (colBase s.active + 0x60) 0 32 = (seq + 1) % 2 ^ 32 ∧ t.fld (colBase (1 - s.active) + 0x60) 0 32 = (seq + 1) % 2 ^ 32 ∧
        t.bit (colBase s.active + 0x60) 32 = false ∧ t.cores = s.cores ∧
        (a + n ≤ 0xF0000000000 → (∀ i, 64 * i < n → s.Lands ⟨mid s.active 10 2 0, 0, 1, 3⟩ (a + 64 * i) 64) →
          (∃ w, memReadN t.mem a n = c.record seq w) ∧ SameMemoryOutside s t a n))

/-! ### DMA channels -/

/-- CHANNEL_ENABLE sets EN where the queues it names as CQ and DQ can be read and suit the channel, and records CFGERR otherwise;
CHANNEL_DISABLE drops what an enabled channel holds; START fills the empty shadow set; a request adds one to those pending, or is lost with
REQOVR: a software request where the channel selects software, and one of its line while a packet written waits for it, or where the tide
drives the line and stands at a position of it that has asserted none. Without their conditions they do nothing. -/
def Sys2Proof.Claims.ChannelsAreEnabledStoppedAndRequested : Prop :=
  ∀ (s : State) (e : Fin 14) (ch : Fin 64) (w : Word),
    let a := chanBase e ch
    let on := s.chEn e ch
    let v := w ||| 1
    let cq := s.chQueue (bitOf v.toNat 40) (getBits v 36 4) (getBits v 22 14) fun z => z.cqOk (getBits v 36 4) (getBits v 22 14)
    let dq := cq.2.chQueue (bitOf v.toNat 3) (getBits v 18 4) (getBits v 4 14) fun z =>
      z.dqOk (getBits v 18 4) (getBits v 4 14) (chanMid e ch)
    let suits := cq.1 = true ∧ dq.1 = true
    let same (as : List Nat) (u t : State) : Prop := SameRegsBut as u t ∧ t.mem = s.mem ∧ t.cores = s.cores
    let asked (c : Instr) : Prop := ∃ t, exec c s = .next t ∧ t.mem = s.mem ∧ t.cores = s.cores ∧
      (s.chPend e ch = 255 → t.chPend e ch = 255 ∧ t.bit (engBase e + 0x8008) 1 = true) ∧
      (s.chPend e ch ≠ 255 → t.chPend e ch = s.chPend e ch + 1 ∧ SameRegsBut [a + 0x110] s t ∧
        t.fld (a + 0x110) 0 2 = (if s.fld (a + 0x110) 0 2 = 2 then 1 else s.fld (a + 0x110) 0 2))
    let r := s.chReqsel e ch
    let pos := (s.die (engDie e)).tide
    let line := reqselOk (engDie e) r = true ∧ ((r / 512 = 2 ∧ 0 < SMap.get (dflt 0) s.lineDue (64 * e.val + ch.val)) ∨
      ((r / 512 = 1 ∨ r / 512 = 3) ∧ s.tideLine e r pos = true ∧ SMap.get (dflt 0) s.lineAt (64 * e.val + ch.val) ≠ pos + 1))
    s.chActs e ch = true →
    (on = false → suits → ∃ t, exec (.channelEnable e ch w) s = .next t ∧ t.chEn e ch = true ∧ same [a + 0x100] dq.2 t) ∧
    (on = false → ¬suits → ∃ t, exec (.channelEnable e ch w) s = .next t ∧ t.chEn e ch = false ∧ t.bit (a + 0x110) 5 = true ∧
      same [a + 0x100, a + 0x110] dq.2 t) ∧
    (on = true → ∃ t, exec (.channelDisable e ch) s = .next t ∧ t.chEn e ch = false ∧ t.chShfull e ch = false ∧
      t.chPend e ch = 0 ∧ t.fld (a + 0x110) 0 2 = 0 ∧ t.bit (a + 0x110) 4 = true ∧ t.chan e ch = ChanS.reset ∧
      same [a + 0x80, a + 0x88, a + 0x100, a + 0x110] s t) ∧
    (on = false → exec (.channelDisable e ch) s = .next s ∧ exec (.start e ch) s = .next s ∧ exec (.req e ch) s = .next s ∧
      ∃ t, exec (.dmaRequest e ch) s = .next t ∧ { t with lineDue := s.lineDue, lineAt := s.lineAt } = s) ∧
    (on = true →
      (s.chDqen e ch = false → s.chShfull e ch = false →
        ∃ t, exec (.start e ch) s = .next t ∧ t.chShfull e ch = true ∧ same [a + 0x110] s t) ∧
      (s.chDqen e ch = true ∨ s.chShfull e ch = true → exec (.start e ch) s = .next s) ∧
      (r = 0x800 → asked (.req e ch)) ∧ (r ≠ 0x800 → exec (.req e ch) s = .next s) ∧
      (line → asked (.dmaRequest e ch)) ∧ (¬line → exec (.dmaRequest e ch) s = .next s))

/-- The shadow set is filled from the head of DQ, and moves to an idle active set, where a malformed descriptor is finished as BAD
at once; the channel is then active if it is unpaced or a request waits, and waits for one otherwise. -/
def Sys2Proof.Claims.DescriptorsMoveThroughTheShadowSet : Prop :=
  ∀ (s : State) (e : Fin 14) (ch : Fin 64),
    let a := chanBase e ch
    let q := s.fld (a + 0x100) 4 14
    let d := s.fld (a + 0x100) 18 4
    s.chActs e ch = true → s.chEn e ch = true →
    (s.chDqen e ch = true → s.chShfull e ch = false → ∀ v t u gs, s.qOpen d q = (true, v) →
      let x := v.qDesc d q
      x.en = true → 0 < x.count → v.dqOk d q (chanMid e ch) = true →
      v.qGranules (qAttr (v.qHome d q) d) (x.slot x.head) 4 = (some gs, t) →
      t.reaches (qAttr (v.qHome d q) d) kWrite a = (.ok, u) →
      ∃ w : State, exec (.dmaShadowFill e ch) s = .next (w.setHead d q (x.head + 1)) ∧ w.chShfull e ch = true ∧
        (∀ i, i < 4 → w.rg (a + 16 * i + 8) ++ w.rg (a + 16 * i) = (gs.getD i Cap.null).bits) ∧
        (∀ i, i < 2 → w.tagAt (a + 16 * i) = (gs.getD i Cap.null).tag) ∧ w.mem = s.mem ∧ w.cores = s.cores) ∧
    (s.chShfull e ch = true → (s.chan e ch).active = false → s.fld (a + 0x110) 0 2 = 0 →
      let y := s.descAt a
      ∃ t, exec (.dmaShadowToActive e ch) s = .next t ∧ t.descAt (a + 0x40) = y ∧ t.chShfull e ch = false ∧
        t.rg (a + 0x80) = 0 ∧ t.rg (a + 0x88) = 0 ∧
        t.chan e ch = ⟨true, if y.malformed then some 0x09 else none, y.malformed, none⟩ ∧
        t.fld (a + 0x110) 0 2 = (if y.malformed = true ∨ s.chReqsel e ch = 0 ∨ 0 < s.chPend e ch then 1 else 2) ∧
        t.mem = s.mem ∧ t.cores = s.cores) ∧
    (s.chShfull e ch = false → exec (.dmaShadowToActive e ch) s = .next s)

/-- One burst: its source pieces are read and its destination pieces written in element order; progress and the running check move
on by the elements moved, one request is used on a paced channel, and the descriptor is finished after its last element; a burst of class
T4 waits while its die withholds T4 credits. An element
is cut only where it crosses a 64-byte line, into parts that add up to its width. -/
def Sys2Proof.Claims.BurstsMoveTheirElements : Prop :=
  (∀ (s u v : State) (e : Fin 14) (ch : Fin 64) (got : List (Nat × List Byte)) (sf : Option Nat),
    let a := chanBase e ch
    let x := s.descAt (a + 0x40)
    let paced := s.chReqsel e ch ≠ 0
    let done := s.fld (a + 0x80) 0 40
    let n := if x.burst = 0 then x.total - done else min x.burst (x.total - done)
    let s0 : State := { s with stalled := false }
    let s1 := if paced then s0.setFld (a + 0x110) 8 8 (s.chPend e ch - 1) else s0
    let withheld := chClass (s.chReqsel e ch) = 4 ∧ s.t4Withheld (engDie e) = true
    s.chActs e ch = true → s.chEn e ch = true → s.chan e ch = ⟨true, none, false, none⟩ →
    reqselOk (engDie e) (s.chReqsel e ch) = true → (paced → 0 < s.chPend e ch) → done ≤ x.total → x.append = false →
    (withheld → exec (.dmaBurst e ch) s = .next s0) ∧
    (¬withheld →
    State.readPieces e ch x.src (piecesOf (sideParts x.srcOf x.sw done n)) [] s1 = ((got, sf), u) →
    State.writePieces e ch x got sf (piecesOf (sideParts x.dstOf x.dw done n)) u = (none, v) →
    v.posted = [] → v.stalled = false → v.chan e ch = s.chan e ch →
    ∃ t, exec (.dmaBurst e ch) s = .next t ∧ t.fld (a + 0x80) 0 40 = done + n ∧ t.mem = v.mem ∧ t.cores = v.cores ∧
      t.tags = v.tags ∧
      t.fld (a + 0x88) 0 32 = x.check (v.fld (a + 0x88) 0 32) ((upTo n).map fun i => x.convert (partBytes got (done + i))) % 2 ^ 32 ∧
      t.chan e ch = ⟨true, none, decide (done + n = x.total), none⟩ ∧
      SameRegsBut [a + 0x80, a + 0x88, a + 0x110] v t)) ∧
  (∀ (addr : Nat → Nat) (w j n : Nat), w ≤ 64 → (∀ i, addr i < 2 ^ 44) →
    (∀ p ∈ sideParts addr w j n, p.2.1 % 64 + p.2.2 ≤ 64 ∧ j ≤ p.1 ∧ p.1 < j + n) ∧
    ((sideParts addr w j n).map (·.2.2)).sum = n * w ∧ (piecesOf (sideParts addr w j n)).flatten = sideParts addr w j n ∧
    ∀ ps ∈ piecesOf (sideParts addr w j n), ∀ p ∈ ps, ∀ q ∈ ps, p.2.1 / 64 = q.2.1 / 64)

/-- A finished descriptor completes: without a completion queue the channel goes idle, signals its ENGIRQ bit where the descriptor asks
or is BAD, and a BAD one sets ENGSTICKY.BAD; with one, its 32-byte record is posted, or waits in CQWAIT until the queue has
space. -/
def Sys2Proof.Claims.DescriptorsCompleteWithTheirRecord : Prop :=
  ∀ (s : State) (e : Fin 14) (ch : Fin 64),
    let a := chanBase e ch
    let x := s.chan e ch
    let irq := (s.descAt (a + 0x40)).irq
    let cd := s.fld (a + 0x100) 36 4
    let cq := s.fld (a + 0x100) 22 14
    let idle (r t : State) : Prop := t.chan e ch = ChanS.reset ∧ t.fld (a + 0x110) 0 2 = 0 ∧ t.mem = r.mem ∧ t.cores = r.cores ∧
      ((r.descAt (a + 0x40)).irq = true → t.bit (engBase e + 0x8000) ch = true)
    s.chActs e ch = true → s.chEn e ch = true →
    (x.active = true → x.finished = true → x.record = none → (∀ f, x.bad = some f → f < 256) →
      (s.bit (a + 0x100) 40 = false →
        ∃ t, exec (.dmaDescriptorComplete e ch) s = .next t ∧ t.chan e ch = ChanS.reset ∧ t.fld (a + 0x110) 0 2 = 0 ∧
          (irq = true ∨ x.bad.isSome = true → t.bit (engBase e + 0x8000) ch = true) ∧
          (x.bad.isSome = true → t.bit (engBase e + 0x8008) 0 = true ∧ t.bit (engBase e + 0x8010) 63 = true) ∧
          t.mem = s.mem ∧ t.cores = s.cores) ∧
      (s.bit (a + 0x100) 40 = true → x.bad = none →
        let u := s.chCount e ch 4 1
        (u.dmaRecord e ch).length = 32 ∧
        (∀ r : State, u.qAppend cd cq (u.dmaRecord e ch) = some r →
          ∃ t, exec (.dmaDescriptorComplete e ch) s = .next t ∧ idle r t) ∧
        (∀ v : State, u.qOpen cd cq = (true, v) →
          let y := v.qDesc cd cq
          let dst := y.slot y.tail
          let b := v.qAddr cd cq
          let lands (a n : Nat) : Prop := v.Lands (qAttr (v.homeHub a) cd) a n
          y.takes = true → y.armed = false → isRegPlace (v.loc y.phys) = false → lands dst 32 → lands (b + 0x14) 4 → Apart dst 32 b 64 → Apart y.phys 8 b 64 →
          Apart dst 32 y.phys 8 →
          ∃ t, exec (.dmaDescriptorComplete e ch) s = .next t ∧ t.chan e ch = ChanS.reset ∧
            memReadN t.mem dst 32 = u.dmaRecord e ch ∧ memReadN t.mem (b + 0x14) 4 = natLE 4 ((y.tail + 1) % 2 ^ 32)) ∧
        (u.qAppend cd cq (u.dmaRecord e ch) = none →
          ∃ t, exec (.dmaDescriptorComplete e ch) s = .next t ∧ t.fld (a + 0x110) 0 2 = 3 ∧
            t.chan e ch = { x with record := some (u.dmaRecord e ch) } ∧ t.mem = s.mem ∧ t.cores = s.cores))) ∧
    (∀ bs, x.record = some bs →
      (∀ r : State, s.qAppend cd cq bs = some r →
        ∃ t, exec (.cqwaitRelease e ch) s = .next t ∧ idle r t ∧ (x.bad.isSome = true → t.bit (engBase e + 0x8000) ch = true)) ∧
      (s.qAppend cd cq bs = none → exec (.cqwaitRelease e ch) s = .next s))

/-! ### Media ports -/

/-- A frame at a working port is counted; one with a wrong check sequence or length is counted as bad and discarded, one without a
buffer is counted as dropped; ARP, ICMP echo and IGMP queries for the port are answered, by one report of IGMPv3 or one for each group of an
older version, and the reply to a request of its own is kept. A port's link comes up at the speed and with the FEC that it is set to, and
goes down with its sticky bit and without its place in PTP. -/
def Sys2Proof.Claims.PortsAnswerFramesAndFollowTheirLink : Prop :=
  ∀ (s : State) (p : Fin 4) (f : FrameIn),
    let r := portReg p.val
    let raised (t : State) (o lsb n : Nat) : Prop := t.fld (r + o) lsb 32 = min (2 ^ 32 - 1) (s.fld (r + o) lsb 32 + n)
    let bad := f.fcsOk = false ∨ f.len < 64 ∨ 1522 < f.len
    let good := f.fcsOk = true ∧ 64 ≤ f.len ∧ f.len ≤ 1522 ∧ f.fecUncorr = 0
    let ip := s.portIp p.val
    let mine := good ∧ f.noBuffer = false ∧ s.forPort p.val f.dmac.toNat = true
    (s.portOn p.val = false → exec (.frameReceive p f) s = .next s) ∧
    (s.portOn p.val = true →
      ∃ t, exec (.frameReceive p f) s = .next t ∧ raised t 0x30 0 1 ∧ t.mem = s.mem ∧ t.cores = s.cores ∧
        (bad → raised t 0x30 32 1 ∧ t.resp = s.resp) ∧
        (good → f.noBuffer = true → raised t 0x38 32 1 ∧ t.bit (r + 0x28) 2 = true ∧ t.resp = s.resp) ∧
        (mine → ∀ x, f.kind = .arp x → x.toNat = ip → raised t 0x38 0 1 ∧ t.resp = .net 1 p.val ip) ∧
        (mine → ∀ x d m, f.kind = .arpReply x d m → x.toNat = ip → d.toNat ∈ (s.port p.val).asked →
          SMap.get (dflt 0) (t.port p.val).arp d.toNat = m.toNat + 1 ∧ t.resp = s.resp) ∧
        (mine → ∀ d n, f.kind = .icmpEcho d false n → d.toNat = ip → raised t 0x38 0 1 ∧ t.resp = .net 2 p.val n) ∧
        (mine → ∀ g v, f.kind = .igmpQuery g v → (∃ x ∈ (s.port p.val).groups, g.toNat = 0 ∨ x.1 = g.toNat) →
          ∃ n, 0 < n ∧ t.resp = .net 3 p.val n ∧ raised t 0x38 0 (if min (s.port p.val).igmp (v.val + 1) = 3 then 1 else n)) ∧
        (mine → f.kind = .other → t.resp = s.resp)) ∧
    (∀ speed10 fec : Bool,
      let set := s.dieActs (p.val / 2) = true ∧ p.val / 2 ∉ s.sdDown ∧ (s.bit r 0 = true ∨ s.dev < 2) ∧ speed10 = s.bit r 1 ∧
        (if speed10 then fec = false else s.bit r 3 = true ∨ fec = s.bit r 2)
      (set → ∃ t, exec (.portLinkUp p speed10 fec) s = .next t ∧ nsMem t.up p.val = true ∧ t.bit (r + 0x20) 0 = true ∧
        t.bit (r + 0x20) 1 = speed10 ∧ t.bit (r + 0x20) 2 = fec ∧
        t.fld (r + 0x20) 3 3 = (if s.bit r 4 = true ∧ s.fld (r + 0x20) 3 3 = 0 then (if s.ptpSel.isSome then 4 else 1)
          else s.fld (r + 0x20) 3 3) ∧
        SameRegsBut [r + 0x20, r + 0x38] s t ∧ t.mem = s.mem ∧ t.cores = s.cores) ∧
      (¬set → exec (.portLinkUp p speed10 fec) s = .next s)) ∧
    (p.val ∉ s.up → exec (.portLinkDown p) s = .next s) ∧
    (p.val ∈ s.up → ∃ t, exec (.portLinkDown p) s = .next t ∧ (∀ q, q ∈ t.up ↔ q ∈ s.up ∧ q ≠ p.val) ∧
      t.bit (r + 0x20) 0 = false ∧ t.fld (r + 0x20) 3 3 = 0 ∧ t.bit (r + 0x28) 0 = true ∧ (t.port p.val).syncs = 0 ∧
      (s.fld (r + 0x20) 3 3 ≠ 3 → SameRegsBut [r + 0x20, r + 0x28] s t) ∧ t.mem = s.mem ∧ t.cores = s.cores)

/-- A Sync with its time, in one message or with its Follow_Up, of the selected profile and domain on the selected port shows its offset
and, from the eighth on, has both generators steered towards the frequency that the servo asks for, at most 20 000 ppb, by no more than 500
ppb for each second since they were last set, and makes time valid. Where the selected port's master is silent, another port that sees the
same grandmaster takes over without a break, and otherwise time is lost. A 1PPS edge is stamped where its capture is enabled. -/
def Sys2Proof.Claims.NetworkTimeSteersTheGenerators : Prop :=
  (∀ (s : State) (p : Fin 4) (k : PtpMsg) (i : Int),
    let x := s.port p.val
    let cfg := hubReg (p.val / 2) 7 + 0x1000
    let timed := (k.kind = .sync false i ∧ (s.bit cfg 0 = false → -4 ≤ i ∧ i ≤ 1)) ∨ (k.kind = .followUp ∧ x.followUp = true)
    s.portOn p.val = true → s.bit (portReg p.val) 4 = true → k.intact = true → k.gptp = s.bit cfg 0 → k.domain.toNat = s.fld cfg 1 8 →
    (s.bit cfg 0 = true → x.asCapable = true) → timed → s.ptpSel = some p.val →
    ∃ t, exec (.ptpEventMessage p k) s = .next t ∧ (t.port p.val).syncs = x.syncs + 1 ∧
      t.fld (hubReg 0 6) 16 16 = unsigned 16 (max (-32767) (min 32767 k.ofsNs)) ∧
      t.fld (hubReg 1 6) 16 16 = unsigned 16 (max (-32767) (min 32767 k.ofsNs)) ∧
      (x.syncs + 1 < 8 → t.gens = s.gens) ∧
      (8 ≤ x.syncs + 1 → ∀ h, h < 2 →
        let g := s.gen h
        let step : Int := (500 * ((g.pos + 2 ^ 56 - g.freqAt) % 2 ^ 56) / s.rateHz : Nat)
        (t.gen h).wantPpb = max (-20000) (min 20000 k.wantPpb) ∧
        (t.gen h).freqPpb = max (g.freqPpb - step) (min (g.freqPpb + step) g.wantPpb) ∧
        (t.gen h).freqAt = g.pos ∧ (t.gen h).valid = true ∧ (h ∉ s.held → t.bit (hubReg h 7 + 0x1008) 0 = true)) ∧
      t.mem = s.mem ∧ t.cores = s.cores) ∧
  (∀ (s : State) (p : Fin 4) (other : Option (Fin 4)),
    let goesOn (q : Fin 4) : Prop := q ≠ p ∧ s.portOn q.val = true ∧ (s.port q.val).gm = (s.port p.val).gm ∧ (s.port p.val).gm.isSome = true
    (s.ptpSel ≠ some p.val → exec (.ptpAnnounceTimeout p other) s = .next s) ∧
    (s.ptpSel = some p.val →
      ((∀ q, other = some q → ¬goesOn q) → ∃ t, exec (.ptpAnnounceTimeout p other) s = .next t ∧ t.fld (portReg p.val + 0x20) 3 3 = 1 ∧
        (t.port p.val).syncs = 0 ∧ (t.gen 0).valid = false ∧ (t.gen 1).valid = false ∧
        (∀ h, h < 2 → h ∉ s.held → t.bit (hubReg h 7 + 0x1008) 0 = false) ∧ t.mem = s.mem ∧ t.cores = s.cores) ∧
      (∀ q, other = some q → goesOn q →
        ∃ t, exec (.ptpAnnounceTimeout p other) s = .next t ∧ t.fld (portReg q.val + 0x20) 3 3 = 3 ∧
          t.fld (portReg p.val + 0x20) 3 3 ≠ 3 ∧ t.gens = s.gens ∧
          (t.port q.val).syncs = (if (s.gen s.active).valid then 8 else 0) ∧ t.mem = s.mem ∧ t.cores = s.cores))) ∧
  (∀ (s : State) (h : Fin 2) (sec : BitVec 31) (ns : BitVec 30),
    let r := hubReg h.val 7 + 0x1000
    (s.dieActs h.val = true → s.bit (r + 0x20) 1 = true →
      ∃ t, exec (.ppsInputEdge h sec ns) s = .next t ∧ t.fld (r + 0x28) 0 30 = ns.toNat ∧ t.fld (r + 0x28) 32 31 = sec.toNat ∧
        t.bit (r + 0x28) 63 = true ∧ SameRegsBut [r + 0x28] s t ∧ t.mem = s.mem ∧ t.cores = s.cores) ∧
    (s.dieActs h.val = false ∨ s.bit (r + 0x20) 1 = false → exec (.ppsInputEdge h sec ns) s = .next s))

/-- EN of a stream is refused with its sticky bit where the entry breaks a rule of its table, and taken otherwise: an ingress stream
begins with the hub's block, and an egress stream with the next block and the sequence number that both hubs' copies share. -/
def Sys2Proof.Claims.StreamsAreEnabledOrRefused : Prop :=
  ∀ (s : State) (h : Fin 2) (n : Fin 512) (e : Fin 1024),
    let a := inReg h.val n.val
    let b := egReg h.val e.val
    let u := s.setBit a 0 true
    let w := s.setBit b 0 true
    (s.bit a 0 = true ∨ s.dieActs h.val = false → exec (.ingressStreamEnable h n) s = .next s) ∧
    (s.bit a 0 = false → s.dieActs h.val = true → u.inRefused h.val n.val = true →
      ∃ t, exec (.ingressStreamEnable h n) s = .next t ∧ t.bit a 0 = false ∧ t.bit (inStat h.val n.val) 7 = true ∧
        t.ing = s.ing ∧ SameRegsBut [a, inStat h.val n.val] s t ∧ t.mem = s.mem ∧ t.cores = s.cores) ∧
    (s.bit a 0 = false → s.dieActs h.val = true → u.inRefused h.val n.val = false →
      ∃ t, exec (.ingressStreamEnable h n) s = .next t ∧ t.bit a 0 = true ∧
        t.ingOf h.val n.val = { IngS.reset with since := (s.die h.val).tide / 16 } ∧ t.mem = s.mem ∧ t.cores = s.cores) ∧
    (s.bit b 0 = true ∨ s.dieActs h.val = false → exec (.egressStreamEnable h e) s = .next s) ∧
    (s.bit b 0 = false → s.dieActs h.val = true → w.egRefused h.val e.val = true →
      ∃ t, exec (.egressStreamEnable h e) s = .next t ∧ t.bit b 0 = false ∧ t.bit (egStat h.val e.val) 33 = true ∧
        t.egs = s.egs ∧ SameRegsBut [b, egStat h.val e.val] s t ∧ t.mem = s.mem ∧ t.cores = s.cores) ∧
    (s.bit b 0 = false → s.dieActs h.val = true → w.egRefused h.val e.val = false →
      ∃ t, exec (.egressStreamEnable h e) s = .next t ∧ t.bit b 0 = true ∧ SameRegsBut [b, portReg (2 * h.val) + 0x38, portReg (2 * h.val + 1) + 0x38] s t ∧
        (SMap.get (dflt EgS.reset) t.egs (1024 * h.val + e.val)).since = 16 * ((s.die h.val).tide / 16 + 1) ∧
        (SMap.get (dflt EgS.reset) t.egs (1024 * h.val + e.val)).seq0 =
          (SMap.get (dflt EgS.reset) t.egs (1024 * (1 - h.val) + e.val)).seq0 ∧
        t.mem = s.mem ∧ t.cores = s.cores)

/-- A packet goes to every enabled stream of the hub that it matches, on the hub of its port and, forwarded, on the other one, and nowhere
where it matches none. Where one stream takes it, no sample of it is early, late or already there, and the ring takes the port's
writes, each sample is written to the stream's ring at its own position, in network byte order, the position is marked and the packet
is counted. -/
def Sys2Proof.Claims.PacketsFillTheRing : Prop :=
  ∀ (s : State) (h : Fin 2) (p : Fin 4) (k : AudioPkt),
    let rx := s.rxFrame p.val k.bytes k.fcsOk
    -- what the packet does to hub `h`'s rings
    let filled (s : State) (h : Nat) (t : State) : Prop :=
      ((s.inStreams h).filter (fun n => s.matches_ h n p.val k) = [] → t = s) ∧
      (∀ (n : Nat) (p0 : Int),
        let c := s.cfgAt (inReg h n)
        let x := s.ingOf h n
        let pp := s.perPacket c.ptime
        let b := (s.die h).tide / 16
        let w := fmtBytes c.fmt
        (s.inStreams h).filter (fun n => s.matches_ h n p.val k) = [n] → s.formatOk c k = true →
        s.firstPos h n (if c.port == p.val then x.legA else x.legB) k = some p0 →
        (16 * b : Nat) ≤ p0 → p0 + pp + 15 < (16 * b + 384 : Nat) → x.marks = [] →
        (∀ j i, j < pp → i < c.nch * w → s.Lands (portAttr p.val) (s.ringAt h n (p0 + j).toNat + i) 1) →
        (∀ j ch i, j < pp → ch < c.nch → i < w →
          memRead t.mem (s.ringAt h n (p0 + j).toNat + ch * w + i) =
            (wireBytes w (k.samples.getD (j * c.nch + ch) 0).toNat).getD i 0) ∧
        (∀ q, q ∈ (t.ingOf h n).marks ↔ ∃ j : Nat, j < pp ∧ q = (p0 + j).toNat) ∧
        t.fld (inStat h n + 8) 0 32 = min (2 ^ 32 - 1) (s.fld (inStat h n + 8) 0 32 + 1) ∧
        t.bit (inStat h n) 0 = true ∧ t.cores = s.cores)
    (s.portOn p.val = true → rx.1 = true →
      ∃ t, exec (.audioPacketReceive p k) s = .next t ∧ filled rx.2 (p.val / 2) t) ∧
    (s.portOn p.val = true → rx.1 = false →
      ∃ t, exec (.audioPacketReceive p k) s = .next t ∧ t.ing = s.ing ∧ t.mem = s.mem ∧ t.cores = s.cores ∧
        t.fld (portReg p.val + 0x30) 32 32 = min (2 ^ 32 - 1) (s.fld (portReg p.val + 0x30) 32 32 + 1)) ∧
    (s.portOn p.val = false → exec (.audioPacketReceive p k) s = .next s) ∧
    (s.dieActs h.val = true → p.val / 2 ≠ h.val → k.fcsOk = true →
      ∃ t, exec (.forwardedPacket h p k) s = .next t ∧ filled s h.val t) ∧
    (s.dieActs h.val = false ∨ p.val / 2 = h.val ∨ k.fcsOk = false → exec (.forwardedPacket h p k) s = .next s)

/-- A port sends the packet of a stream that is due, its sequence number and time of the position it begins with and its payload sample by
sample, and counts it; one that has waited 250 µs is dropped with TXLATE. The stream goes on behind it, and nothing else is sent. -/
def Sys2Proof.Claims.EgressPacketsAreSentOrDropped : Prop :=
  ∀ (s : State) (p : Fin 4) (e : Fin 1024) (q : BitVec 56),
    let h := p.val / 2
    let i := 1024 * h + e.val
    let c := s.cfgAt (egReg h e.val)
    let pp := s.perPacket c.ptime
    let st := egStat h e.val
    let due := s.egDue p.val e.val q.toNat = true
    let late := q.toNat + pp + (if s.rate96 then 24 else 12) ≤ (s.die h).tide
    let eg (t : State) (j : Nat) : EgS := SMap.get (dflt EgS.reset) t.egs j
    let taken (t : State) : Prop := eg t i = { eg s i with since := q.toNat + pp } ∧ (∀ j, j ≠ i → eg t j = eg s j) ∧
      t.mem = s.mem ∧ t.cores = s.cores
    (¬due ∨ late → exec (.egressPacketSend p e q) s = .next s) ∧
    (¬due ∨ ¬late → exec (.egressPacketDrop p e q) s = .next s) ∧
    (due → ¬late →
      ∃ t k, exec (.egressPacketSend p e q) s = .next t ∧ t.sent = some k ∧ k.port = p.val ∧ k.stream = e.val ∧
        k.payload.length = pp * c.nch * fmtBytes c.fmt ∧
        (c.aaf = false → k.seq = ((eg s i).seq0 + q.toNat / pp) % 2 ^ 16 ∧
          k.stampField = (q.toNat + s.fld (egReg h e.val + 0x10) 0 32) % 2 ^ 32 ∧
          k.ssrc = s.fld (egReg h e.val + 0x10) 32 32) ∧
        k.smac = s.fld (portReg p.val + 8) 0 48 ∧ k.sip = s.fld (portReg p.val + 0x10) 0 32 ∧
        t.fld st 0 32 = min (2 ^ 32 - 1) (s.fld st 0 32 + 1) ∧ SameRegsBut [st, portReg p.val + 0x38] s t ∧ taken t) ∧
    (due → late →
      ∃ t, exec (.egressPacketDrop p e q) s = .next t ∧ t.sent = s.sent ∧ t.bit st 32 = true ∧
        t.bit (portReg p.val + 0x28) 3 = true ∧ SameRegsBut [st, portReg p.val + 0x28] s t ∧ taken t)

/-! ### CXL ports -/

/-- A CXL link that trains with its protocols comes up with its width, speed and kind; it goes down with its sticky bit. Neither
changes a logical device's CXL state but for the CDAT sequence number. A configuration word holds what was written, one that the
spec fixes keeps its value, and a read answers it; a reset returns a logical device to its reset state, but for its allocation, QoS
settings, port, CDAT number and the record of the messages sent, drops its requests and leaves its mailbox idle. -/
def Sys2Proof.Claims.CxlLinksAndResetsKeepTheirState : Prop :=
  ∀ (s : State) (h : Fin 2) (k : Fin 16),
    let r := cxReg h.val
    let kept (t : State) : Prop := t.mem = s.mem ∧ t.cores = s.cores ∧
      ∀ j, t.ld j = { s.ld j with cdatSeq := (t.ld j).cdatSeq }
    (∀ (w : BitVec 4) (v : BitVec 2) (mld : Bool),
      exec (.cxlLinkTrain h w v false mld) s = .next s ∧
      (s.dieActs h.val = true → h.val ∉ s.sdDown → s.cxlUp h.val = false → w.toNat ∈ [1, 2, 4, 8] → v.toNat ≠ 3 →
        ∃ t, exec (.cxlLinkTrain h w v true mld) s = .next t ∧ t.cxlUp h.val = true ∧ t.cxlMld h.val = mld ∧
          t.fld r 1 4 = w.toNat ∧ t.fld r 5 2 = v.toNat ∧ kept t)) ∧
    (s.cxlUp h.val = false → exec (.cxlLinkDown h) s = .next s) ∧
    (s.cxlUp h.val = true → ∃ t, exec (.cxlLinkDown h) s = .next t ∧ t.cxlUp h.val = false ∧ t.bit (r + 8) 0 = true ∧ kept t) ∧
    (s.ldOn h.val k.val = false →
      ∀ (wr : Bool) (reg : BitVec 12) (v : BitVec 32), exec (.configurationRequest h k wr reg v) s = .next s) ∧
    (s.ldOn h.val k.val = true → ∀ (reg : BitVec 12) (v : BitVec 32),
      let at_ := reg.toNat / 4 * 4
      let word := (dvsecWord at_).getD v
      ∃ t u, exec (.configurationRequest h k true reg v) s = .next t ∧ t.resp = .completion ∧
        (t.ld k.val).cfgWord at_ = word ∧ (t.ld k.val).port = h.val ∧ t.mem = s.mem ∧ t.cores = s.cores ∧
        (∀ j, j ≠ k.val → t.ld j = s.ld j) ∧
        exec (.configurationRequest h k false reg 0) t = .next u ∧ u.resp = .config word) ∧
    (s.ldUp k.val = true →
      (∃ t, exec (.functionLevelReset k) s = .next t ∧ t.ld k.val = (s.ld k.val).again ∧ (∀ j, j ≠ k.val → t.ld j = s.ld j) ∧
        t.mem = s.mem ∧ t.cores = s.cores ∧ (∀ j, j < 2 → ∀ q ∈ t.heldBy j, q.1 ≠ k.val) ∧ t.runReq ≠ some k.val ∧
        t.stageWait ≠ some k.val ∧ ∀ a ∈ t.accWait, a.mailLd ≠ some k.val) ∧
      ∀ i : Fin 2, exec (.globalPersistentFlush k i) s = .next { s with resp := .completion }) ∧
    (s.ldUp k.val = false → exec (.functionLevelReset k) s = .next s) ∧
    (s.cxlUp h.val = true →
      ∃ t, exec (.cxlHotReset h) s = .next t ∧ (∀ j, j < 16 → t.ld j = (s.ld j).again) ∧ t.mem = s.mem ∧ t.cores = s.cores)

/-- CDAT entries are read one by one by handle, the last giving FFFFh, and the bytes of header and entries add up to 0 modulo 256;
DOE Discovery names Discovery and CDAT Table Access. -/
def Sys2Proof.Claims.CdatAndDiscoveryAnswer : Prop :=
  let doneBy (s t : State) (bs : List Byte) : Prop := t = { s with resp := .doe bs, ctrs := t.ctrs }
  (∀ (s : State) (k : Fin 15) (handle : BitVec 16),
    let es := cdatEntries (s.ak k.val)
    let all := cdatHeader (s.ld k.val).cdatSeq es :: es
    s.ldUp k.val = true → handle.toNat < all.length →
    ∃ t bs, exec (.cdatTableAccess k handle) s = .next t ∧ doneBy s t bs ∧ bs.drop 4 = all.getD handle.toNat [] ∧
      leNat ((bs.drop 2).take 2) = (if handle.toNat + 1 < all.length then handle.toNat + 1 else 0xFFFF)) ∧
  (∀ seq ak, ((cdatHeader seq (cdatEntries ak)) ++ (cdatEntries ak).flatten).foldl (fun n b => n + b.toNat) 0 % 256 = 0) ∧
  (∀ (s : State) (k : Fin 16), s.ldUp k.val = true →
    (∃ t, exec (.doeDiscovery k 0) s = .next t ∧ doneBy s t [1, 0, 0, 1]) ∧
    ∃ t, exec (.doeDiscovery k 1) s = .next t ∧ doneBy s t [0x98, 0x1E, 2, 0])

/-- A decoder commits exactly where its ways and granularity are legal, its base, size and skip are multiples of 256 MiB, its end lies
within the allocation, decoder 1 follows decoder 0 and their ranges are disjoint; otherwise Error Not Committed is set. A locked
decoder is not uncommitted. A decoder of one way maps its range in order. -/
def Sys2Proof.Claims.HdmDecodersCommitWithinTheirCapacity : Prop :=
  (∀ (s : State) (k : Fin 15) (i : Fin 2) (dec : HdmDec),
    let x := s.ld k.val
    let mine := if i.val = 0 then x.dec0 else x.dec1
    let other := if i.val = 0 then x.dec1 else x.dec0
    let legal := dec.iw ∈ [1, 2, 4, 8] ∧ dec.ig ∈ [256, 512, 1024, 2048, 4096, 8192, 16384] ∧ dec.base % 2 ^ 28 = 0 ∧
      dec.size % 2 ^ 28 = 0 ∧ dec.skip % 2 ^ 28 = 0 ∧ x.dpaBase i.val dec + dec.size / dec.iw ≤ s.ak k.val * 2 ^ 28 ∧
      (i.val = 1 → x.dec0.isSome = true) ∧
      ∀ z, other = some z → z.base + z.size ≤ dec.base ∨ dec.base + dec.size ≤ z.base
    let kept (t : State) : Prop := t.mem = s.mem ∧ t.cores = s.cores ∧ ∀ j, j ≠ k.val → t.ld j = s.ld j
    s.ldUp k.val = true →
    (mine = none →
      ∃ t, exec (.hdmDecoderCommit k i dec) s = .next t ∧ kept t ∧
        (legal → t.ld k.val = (if i.val = 0 then { x with dec0 := some dec, err0 := false }
          else { x with dec1 := some dec, err1 := false })) ∧
        (¬legal → t.ld k.val = (if i.val = 0 then { x with dec0 := none, err0 := true }
          else { x with dec1 := none, err1 := true }))) ∧
    (∀ z, mine = some z → exec (.hdmDecoderCommit k i dec) s = .next s ∧
      (z.lock = true → exec (.hdmDecoderUncommit k i) s = .next s) ∧
      (z.lock = false → ∃ t, exec (.hdmDecoderUncommit k i) s = .next t ∧ kept t ∧
        t.ld k.val = (if i.val = 0 then { x with dec0 := none } else { x with dec1 := none })))) ∧
  (∀ (x : LdS) (z : HdmDec) (hpa : Nat), x.dec0 = some z → z.iw = 1 →
    (z.base ≤ hpa → hpa < z.base + z.size → x.dpaOf hpa = some (z.skip + (hpa - z.base))) ∧
    (hpa < z.base ∨ z.base + z.size ≤ hpa → x.dec1 = none → x.dpaOf hpa = none))

/-- Where nothing waits at a port, a host request that may issue is performed at the place that its decoder, its domain's table and the
gates give: a read answers the line, a write stores the enabled bytes or poisons the word; a miss, and any request that the table does
not name, answers poison or nothing, is counted and changes no memory. While the port may not issue, a request waits in order in its
queue of 64, and one that finds it full stops the link's credits and waits in front of all after it. Invalidations have no effect but
their answer, a speculative read none. A takeover of homes ends the wait. -/
def Sys2Proof.Claims.HostRequestsGoThroughTheirDecoder : Prop :=
  ∀ (s : State) (h : Fin 2) (k : Fin 15) (hpa : BitVec 52) (mask : BitVec 64) (data : BitVec 512) (poison : Bool),
    let x := s.ld k.val
    let line := hpa.toNat / 64 * 64
    let a : HostAddr := ⟨hpa, false⟩
    let other : HostAddr := ⟨hpa, true⟩
    let b := hostAttr h.val k.val
    let on := s.ldOn h.val k.val = true
    let free := s.portIdle h.val = true ∧ s.portIssues h.val = true ∧ s.belowLimit h.val k.val = true
    let s1 : State := { s with stalled := false,
                               issued := SMap.set (dflt []) s.issued h.val ((k.val :: s.issuedBy h.val).take 1024) }
    let rd := s1.meter h.val 4 1 64
    let wr := s1.meter h.val 4 0 64
    let missed (c : Instr) (r : Nat → Reply) : Prop :=
      ∃ t d, exec c s = .next t ∧ t.bit (cxReg h.val + 8) 1 = true ∧ t.mem = s.mem ∧ t.cores = s.cores ∧ t.resp = r d
    let invalid : State := { s with devLoads := (s.devLoadOf h.val k.val :: s.devLoads).take 1024,
                                    resp := .cmp (s.devLoadOf h.val k.val) }
    let waits (c : Instr) (q : HostReq) : Prop :=
      (s.heldBy h.val = [] → q.kind ≠ .inv → (x.queue h.val).length < 64 → ∃ t, exec c s = .next t ∧
        (t.ld k.val).queue h.val = x.queue h.val ++ [q] ∧ t.heldBy h.val = [] ∧ t.mem = s.mem ∧ t.resp = s.resp) ∧
      (s.heldBy h.val = [] → q.kind ≠ .inv → 64 ≤ (x.queue h.val).length → ∃ t, exec c s = .next t ∧
        t.bit (cxReg h.val + 8) 7 = true ∧ t.lds = s.lds ∧ t.heldBy h.val = [(k.val, q)] ∧ t.mem = s.mem ∧ t.resp = s.resp) ∧
      (s.heldBy h.val ≠ [] → exec c s = .next (s.setHeld h.val (s.heldBy h.val ++ [(k.val, q)])))
    (s.ldOn h.val k.val = false → ∀ c ∈ [Instr.memRd h k a, .memRd h k other, .memRdData h k hpa, .memWr h k a data poison,
      .memWr h k other data poison, .memWrPtl h k hpa mask data poison, .memInv h k hpa, .memInvNt h k hpa], exec c s = .next s) ∧
    exec (.memSpecRd h k hpa) s = .next s ∧
    (on → s.portIdle h.val = true → exec (.memInv h k hpa) s = .next invalid ∧ exec (.memInvNt h k hpa) s = .next invalid) ∧
    (on → free → ∀ dpa, x.dpaOf line = some dpa → ∀ (pa : Nat) (mt : Bool) (s2 s3 : State),
      (rd.translate (14 + h.val) (k.val + 1) 0 (dpa / 64 * 64) .read = (.ok pa mt, s2) →
        ∀ bs, s2.busRead b kRead pa 64 = ((.ok, bs), s3) → s3.stalled = false → s3.ldOn h.val k.val = true →
        ∀ c ∈ [Instr.memRd h k a, .memRdData h k hpa], ∃ t, exec c s = .next t ∧
          t.resp = .memData (BitVec.ofNat 512 (leNat bs)) false (s3.devLoadOf h.val k.val) ∧ t.mem = s3.mem ∧ t.cores = s3.cores) ∧
      (wr.translate (14 + h.val) (k.val + 1) 0 (dpa / 64 * 64) .write = (.ok pa mt, s2) →
        let wrote (c : Instr) (m : BitVec 64) : Prop := s2.maskWrite b pa m.toNat data = (.ok, s3) →
          s3.posted = [] → s3.stalled = false → s3.ldOn h.val k.val = true →
          ∃ t, exec c s = .next t ∧ t.resp = .cmp (s3.devLoadOf h.val k.val) ∧ t.mem = s3.mem ∧ t.cores = s3.cores
        wrote (.memWrPtl h k hpa mask data false) mask ∧ wrote (.memWr h k a data false) (BitVec.allOnes 64) ∧
        (s2.reaches b kWrite pa = (.ok, s3) → s3.stalled = false → s3.inDram pa = true → s3.dramDown pa = false →
          (∃ t, exec (.memWr h k a data true) s = .next t ∧ pa / 64 ∈ t.poison) ∧
          (mask ≠ 0 → ∃ t, exec (.memWrPtl h k hpa mask data true) s = .next t ∧ pa / 64 ∈ t.poison)))) ∧
    (on → free → x.dpaOf line = none →
      missed (.memRd h k a) (.memData 0 true) ∧ missed (.memRdData h k hpa) (.memData 0 true) ∧
      missed (.memWr h k a data poison) .cmp ∧ missed (.memWrPtl h k hpa mask data poison) .cmp) ∧
    (on → free → missed (.memRd h k other) (.memData 0 true) ∧ missed (.memWr h k other data poison) .cmp) ∧
    (on → s.portIssues h.val = false →
      waits (.memRd h k a) (readReq h.val hpa) ∧ waits (.memRdData h k hpa) (readReq h.val hpa) ∧
      waits (.memWr h k a data poison) (writeReq h.val hpa (BitVec.allOnes 64) data poison) ∧
      waits (.memWrPtl h k hpa mask data poison) (writeReq h.val hpa mask data poison) ∧
      waits (.memInv h k hpa) (invReq h.val hpa) ∧ waits (.memInvNt h k hpa) (invReq h.val hpa)) ∧
    (s.hostWait = false → exec .homeTakeoverComplete s = .next s) ∧
    (s.hostWait = true → s.posted = [] → s.dueQueues = [] → s.portIdle 0 = true → s.portIdle 1 = true →
      exec .homeTakeoverComplete s = .next { s with hostWait := false, stalled := false })

/-- The FM-API reads answer their fields on the FM-owned logical device; Set LD Allocations changes every allocation it names or, where
the lists do not agree, pass the last logical device or the usable capacity, or cut into a committed decoder, none; the QoS lists
are set whole. -/
def Sys2Proof.Claims.FmApiCommandsReadAndSetTheirFields : Prop :=
  ∀ (s : State), s.ldUp 15 = true →
    let sum (f : Nat → Nat) : Nat := ((List.range 15).map f).sum
    (∃ t, exec .getLdInfo s = .next t ∧ Mailed 15 0 (natLE 8 s.shape.usable ++ natLE 2 15 ++ natLE 1 1) s t) ∧
    (∃ t, exec .getLdAllocations s = .next t ∧ Mailed 15 0 (ldAllocList 0 ((List.range 15).map s.ak)) s t) ∧
    (∃ t, exec .getQosControl s = .next t ∧ Mailed 15 0 (natLE 1 s.qosControl) s t) ∧
    (∃ t, exec .getQosStatus s = .next t ∧ Mailed 15 0 (natLE 1 (s.devLoads.sum / s.devLoads.length)) s t) ∧
    (∃ t, exec .getQosAllocatedBw s = .next t ∧ Mailed 15 0 (ldBytes 0 ((List.range 15).map fun k => (s.ld k).weight)) s t) ∧
    (∃ t, exec .getQosBwLimit s = .next t ∧ Mailed 15 0 (ldBytes 0 ((List.range 15).map fun k => (s.ld k).limit)) s t) ∧
    (∀ v : BitVec 8, ∃ t, exec (.setQosControl v) s = .next t ∧ t = { s with qosControl := v.toNat, resp := t.resp, ctrs := t.ctrs } ∧
      t.resp = .mailbox 0 (natLE 1 v.toNat)) ∧
    (∀ (first : Fin 15) (v : List Byte),
      let at_ (k : Nat) : Prop := first.val ≤ k ∧ k < first.val + v.length
      let b (k : Nat) : Nat := (v.getD (k - first.val) 0).toNat
      (15 < first.val + v.length → (∃ t, exec (.setQosAllocatedBw first v) s = .next t ∧ Mailed 15 2 [] s t) ∧
        ∃ t, exec (.setQosBwLimit first v) s = .next t ∧ Mailed 15 2 [] s t) ∧
      (first.val + v.length ≤ 15 →
        (∃ t, exec (.setQosAllocatedBw first v) s = .next t ∧ t = { s with lds := t.lds, resp := t.resp, ctrs := t.ctrs } ∧
          t.resp = .mailbox 0 (ldBytes first.val (v.map (·.toNat))) ∧
          ∀ k, (at_ k → t.ld k = { s.ld k with weight := b k }) ∧ (¬at_ k → t.ld k = s.ld k)) ∧
        (∃ t, exec (.setQosBwLimit first v) s = .next t ∧ t = { s with lds := t.lds, resp := t.resp, ctrs := t.ctrs } ∧
          t.resp = .mailbox 0 (ldBytes first.val (v.map (·.toNat))) ∧
          ∀ k, (at_ k → t.ld k = { s.ld k with limit := b k }) ∧ (¬at_ k → t.ld k = s.ld k)))) ∧
    (∀ (first : Fin 15) (r1 r2 : List (BitVec 64)),
      let new (k : Nat) : Nat :=
        if first.val ≤ k ∧ k < first.val + r1.length then (r1.getD (k - first.val) 0).toNat else (s.ld k).alloc
      let legal := r1.length = r2.length ∧ first.val + r1.length ≤ 15 ∧ (∀ z ∈ r2, z = 0) ∧ sum new * 2 ^ 28 ≤ s.shape.usable ∧
        ∀ k, k < 15 → new k ≠ (s.ld k).alloc → (s.ld k).dpaEnd ≤ new k * 2 ^ 28
      (legal → ∃ t, exec (.setLdAllocations first r1 r2) s = .next t ∧
        t.resp = .mailbox 0 (ldAllocList first.val (r1.map (·.toNat))) ∧
        (∀ k, k < 15 → t.ld k = { s.ld k with alloc := new k, cdatSeq := (t.ld k).cdatSeq }) ∧ t.mem = s.mem ∧ t.cores = s.cores) ∧
      (¬legal → ∃ t, exec (.setLdAllocations first r1 r2) s = .next t ∧ Mailed 15 2 [] s t))

/-- Mailbox commands of a logical device that a link reaches answer by their tables: an unknown opcode with code 3, an input of a wrong length
with code 2; identity, health, poison list, interrupt policy and device information; event records oldest first, cleared whole or by handle. -/
def Sys2Proof.Claims.MailboxCommandsAnswerByTheirTables : Prop :=
  ∀ (s : State) (k : Fin 16), s.ldUp k.val = true →
    (∀ op : BitVec 16, (op.toNat ∉ mailOps k.val → ∃ t, exec (.unsupportedOpcode k op) s = .next t ∧ Mailed k.val 3 [] s t) ∧
      (op.toNat ∈ mailOps k.val → ∃ t, exec (.unsupportedOpcode k op) s = .next t ∧ Mailed k.val 2 [] s t)) ∧
    (∃ t bs, exec (.identifyMemoryDevice k) s = .next t ∧ Mailed k.val 0 bs s t ∧ bs.length = 67 ∧
      leNat ((bs.drop 16).take 8) = (if k.val = 15 then 0 else s.ak k.val) % 2 ^ 64 ∧
      leNat ((bs.drop 24).take 8) = (if k.val = 15 then 0 else s.ak k.val) % 2 ^ 64) ∧
    (∃ t bs, exec (.getHealthInfo k) s = .next t ∧ Mailed k.val 0 bs s t ∧ bs.length = 18 ∧
      leNat ((bs.drop 10).take 4) = min (2 ^ 32 - 1) s.ceTotal) ∧
    (let all := if k.val = 15 then [] else s.poisonList.flatMap fun a => s.dpasOf k.val a
     let ds := all.drop (s.ld k.val).poisonPos
     let next := if 254 < ds.length then (s.ld k.val).poisonPos + 254 else 0
     ∃ t bs, exec (.getPoisonList k) s = .next t ∧ Mailed k.val 0 bs (s.modLd k.val fun x => { x with poisonPos := next }) t ∧
        leNat ((bs.drop 10).take 2) = min 254 ds.length ∧
        bs.drop 32 = (ds.take 254).flatMap fun d => natLE 8 d ++ natLE 4 1 ++ natLE 4 0) ∧
    (∃ t, exec (.getDeviceInfo k) s = .next t ∧
      Mailed k.val 0 (natLE 4 0 ++ s.deviceInfo (if k.val = 15 then 0 else k.val + 1)) s t) ∧
    (∃ t, exec (.getEventInterruptPolicy k) s = .next t ∧
      Mailed k.val 0 ((List.range 4).map fun i => if Nat.testBit (s.ld k.val).policy i then 1 else 0) s t) ∧
    (∀ pol : BitVec 4, ∃ t, exec (.setEventInterruptPolicy k pol) s = .next t ∧ t.resp = .mailbox 0 [] ∧
      (t.ld k.val).policy = pol.toNat ∧ { t with resp := s.resp, lds := s.lds, ctrs := s.ctrs } = s) ∧
    (∀ log : EvLog, ∃ t head, exec (.getEventRecords k log) s = .next t ∧ head.length = 32 ∧
      Mailed k.val 0 (head ++ (((s.ld k.val).log log).take 31).flatMap EvRec.bytes) s t) ∧
    (∀ (log : EvLog) (hs : List (BitVec 16)),
      let rs := (s.ld k.val).log log
      (∃ t, exec (.clearEventRecords k log true hs) s = .next t ∧ t.resp = .mailbox 0 [] ∧ (t.ld k.val).log log = [] ∧
        (∀ l, l ≠ log → (t.ld k.val).log l = (s.ld k.val).log l)) ∧
      ((∀ v ∈ hs, ∃ r ∈ rs, r.handle = v.toNat) → ∃ t, exec (.clearEventRecords k log false hs) s = .next t ∧
        t.resp = .mailbox 0 [] ∧ (t.ld k.val).log log = rs.filter (fun r => !(hs.map (·.toNat)).contains r.handle) ∧
        (∀ l, l ≠ log → (t.ld k.val).log l = (s.ld k.val).log l)) ∧
      ((∃ v ∈ hs, ∀ r ∈ rs, r.handle ≠ v.toNat) → ∃ t, exec (.clearEventRecords k log false hs) s = .next t ∧
        Mailed k.val 2 [] s t))

/-- The vendor commands reach the dictionary, the image loader and the attestation: code 6 where the device's state does not allow them
and code 2 where the data are too long. A dictionary access behind a COMMAND that is not yet answered waits for it; a read, a write, a
part of an image and an attestation answer their code and value, or nothing where the answer comes later. -/
def Sys2Proof.Claims.VendorCommandsReachTheDictionary : Prop :=
  ∀ (s : State) (k : Fin 16) (index : BitVec 16) (sub : Byte) (off : BitVec 32) (last : Bool) (data : List Byte)
    (nonce : BitVec 256),
    let dom := if k.val = 15 then 0 else k.val + 1
    let l := s.signedLog dom (natLE 32 nonce.toNat)
    let inp := s.mailIn k.val (8 + data.length)
    let get : Access := .get k index.toNat sub.toNat off.toNat
    let part : Access := .part (.mailbox k) index.toNat sub.toNat off.toNat last data
    let mailed (c : Instr) (code : Nat) : Prop := ∃ t, exec c s = .next t ∧ Mailed k.val code [] s t
    let ends (c : Instr) (r : Option Nat × State) : Prop :=
      (∀ code, r.1 = some code → r.2.ldUp k.val = true → ∃ t, exec c s = .next t ∧ t.resp = .mailbox 0 (natLE 4 code) ∧
        t.mem = r.2.mem ∧ t.cores = r.2.cores ∧ t.regs = r.2.regs ∧ t.dict = r.2.dict ∧ t.imgOwner = r.2.imgOwner ∧
        t.imgLen = r.2.imgLen) ∧
      (r.1 = none → exec c s = .next r.2)
    s.ldUp k.val = true →
    (s.dev < 2 → mailed (.dictionaryRead k index sub off) 6 ∧ mailed (.attest k nonce off) 6 ∧
      mailed (.dictionaryWrite k index sub last off data) 6) ∧
    (s.dev ≠ 1 → mailed (.imageLoad k off last data) 6) ∧
    (4088 < data.length → (s.dev = 1 → mailed (.imageLoad k off last data) 2) ∧
      (2 ≤ s.dev → mailed (.dictionaryWrite k index sub last off data) 2)) ∧
    (2 ≤ s.dev → s.runReq.isSome = true →
      exec (.dictionaryRead k index sub off) s = .next { s.mailIn k.val 8 with accWait := s.accWait ++ [get] } ∧
      (data.length ≤ 4088 → exec (.dictionaryWrite k index sub last off data) s = .next { inp with accWait := s.accWait ++ [part] })) ∧
    (2 ≤ s.dev → s.runReq = none →
      (let r := (s.mailIn k.val 8).dictGet (.mailbox k) index.toNat sub.toNat off.toNat 4088
       ∃ t, exec (.dictionaryRead k index sub off) s = .next t ∧
          Mailed k.val 0 (natLE 4 r.1.1 ++ natLE 4 r.1.2.1 ++ r.1.2.2) r.2 t) ∧
      (let r := inp.dictPart (.mailbox k) index.toNat sub.toNat off.toNat last data
       data.length ≤ 4088 → r.2.posted = [] → ends (.dictionaryWrite k index sub last off data) r)) ∧
    (2 ≤ s.dev →
      (s.lifecycle = 2 → ∃ t, exec (.attest k nonce off) s = .next t ∧ t.resp = .mailbox 0 (natLE 4 0x08000000 ++ natLE 4 0)) ∧
      (s.lifecycle ≠ 2 → off = 0 → ∃ t, exec (.attest k nonce off) s = .next t ∧ t.attSnap = some (nonce.toNat, l) ∧
        t.resp = .mailbox 0 (natLE 4 0 ++ natLE 4 l.length ++ l.take 4088)) ∧
      (s.lifecycle ≠ 2 → off ≠ 0 → ∀ v, s.attSnap = some (nonce.toNat, v) → ∃ t, exec (.attest k nonce off) s = .next t ∧
        t.resp = .mailbox 0 (natLE 4 0 ++ natLE 4 v.length ++ (v.drop off.toNat).take 4088))) ∧
    (s.dev = 1 → data.length ≤ 4088 →
      ends (.imageLoad k off last data)
        ((if off = 0 then inp.newXfer k.val else inp).imagePart (.mailbox k) off.toNat last data))

/-! ### Rules stated whole -/

/-- rnd of a quotient is the integer nearest to it, ties going away from zero, and sat18 limits a value to its range (03 R98). -/
def Obligations.RoundingIsToNearestAwayFromZero : Prop :=
  (∀ (num : Int) (den : Nat), 0 < den →
    let r := rndDiv num den
    2 * (r * den - num).natAbs ≤ den ∧ (2 * (r * den - num).natAbs = den → num.natAbs < (r * den).natAbs)) ∧
  (∀ x : Int, satI 18 x = max (-131072) (min 131071 x))

/-- A gate's region, holding the address and naming the domain, matches a master ID exactly where the two agree in every bit that the
mask compares (01 R28). -/
def Obligations.RegionsMatchMaskedMasters : Prop :=
  ∀ (cfg base midw : Word) (b : Attr) (a : Nat), regionHolds cfg base a = true → bitOf (getBits cfg 32 16) b.dom = true →
    (regionMatches cfg base midw b a = true ↔
      ∀ i, i < 16 → midw.getLsbD (16 + i) = true → Nat.testBit b.master i = midw.getLsbD i)

/-! ### The statements made of several claims -/

/-- An overflowing instruction and the trapping ones take their exception precisely. -/
def Obligations.OverflowAndTrapsAreTakenPrecisely : Prop :=
  Claims.OverflowIsTakenPrecisely ∧ Claims.TrapsRaiseTheirCause

/-- A multiplication writes in the shadow of its latency, and a write in a shadow appears on time. -/
def Obligations.LateWritesHaveExposedLatency : Prop :=
  Claims.MultiplyResultsHaveExposedLatencyOne ∧ Claims.ShadowedWritesAppearOnTime

/-- Capability instructions write what their table gives, and bounds only narrow. -/
def Obligations.CapabilityInstructionsNarrowTheirSource : Prop :=
  Claims.CapabilityInstructionsWriteTheirTableResult ∧ Claims.SetBoundsNarrowsACapability

/-- A load reads its bytes from the line its core holds, and one that misses fills the line first. -/
def Obligations.LoadsReadTheirBytesAndFillTheirLine : Prop :=
  Claims.LoadsReadTheCachedBytes ∧ Claims.FillsCopyMemory ∧ Claims.LoadsThatMissFillTheirLine

/-- A store writes its bytes in the line its core holds, or straight to a device. -/
def Obligations.StoresWriteTheirBytes : Prop :=
  Claims.StoresWriteTheCachedLine ∧ Claims.DeviceStoresReachOnlyTheirBytes

/-- Branches follow their condition and jumps their target, with a delay slot. -/
def Obligations.BranchesAndJumpsGoToTheirTarget : Prop :=
  Claims.ConditionalBranchesFollowTheirCondition ∧ Claims.JumpsGoToTheirTargetAndLink

/-- Window calls and returns move the register window when their delay slot ends. -/
def Obligations.WindowCallsAndTheirDelaySlotMoveTheWindow : Prop :=
  Claims.WindowCallsAndReturnsMoveTheWindow ∧ Claims.TheDelaySlotMovesTheWindow

/-- Long operations enter the queue and complete oldest first. -/
def Obligations.LongOperationsCompleteInOrder : Prop :=
  Claims.LongOperationsQueueOrCompletePrecisely ∧ Claims.TheOldestLongOperationCompletes

/-- System registers move by their kind and level, and supervisor instructions need theirs. -/
def Obligations.SystemRegistersAndPrivilegeFollowTheLevel : Prop :=
  Claims.SystemRegistersMoveByTheirKindAndLevel ∧ Claims.PrivilegeIsChecked

/-- Instructions without operands do what their table gives, and a fence ends after the drain. -/
def Obligations.OperandlessInstructionsAndFencesDoTheirEffect : Prop :=
  Claims.OperandlessInstructionsDoTheirTableEffect ∧ Claims.FenceCompletesAfterTheDrain

/-- Cache instructions act on each line of their range, and a written-back line reaches memory. -/
def Obligations.CacheRangesAndWriteBacksActOnEachLine : Prop :=
  Claims.CacheRangeInstructionsActOnEachLine ∧ Claims.WriteBackStoresTheLine

/-- An exception saves and vectors, and a second one goes to the monitor. -/
def Obligations.ExceptionsEnterTheirHandlers : Prop :=
  Claims.ExceptionEntrySavesAndVectors ∧ Claims.DoubleFaultsGoToTheMonitor

/-- Interrupts enter by their source, and the exception frame drains to the save area. -/
def Obligations.InterruptsEnterAndFramesDrain : Prop :=
  Claims.InterruptsEnterByTheirSource ∧ Claims.TheFrameDrainsToTheSaveArea

/-- Sampling intervals follow the LFSR, and snapshots are stored and numbered. -/
def Obligations.SamplesAndSnapshotsAreTaken : Prop :=
  Claims.SamplingIntervalsFollowTheLfsr ∧ Claims.SnapshotsAreStoredAndNumbered

/-- The tide advances by one, its generators follow their events, and every die takes the active hub's position. -/
def Obligations.TheTideDrivesEveryDie : Prop :=
  Claims.TheTideAdvancesByOnePosition ∧ Claims.GeneratorStatesFollowTheirEvents ∧ Claims.LocalTicksTakeTheActiveHubsPosition

/-- A die enters HOLD with its state, and leaves it when the exit condition has been counted. -/
def Obligations.HoldKeepsTheStateUntilItsExit : Prop :=
  Claims.HoldEntryKeepsTheState ∧ Claims.TheHoldExitConditionIsCounted

/-- A hub's HOLD moves its duties, dies rejoin at a block boundary, and a die that resets is fenced. -/
def Obligations.HeldAndResetDiesLeaveAndRejoin : Prop :=
  Claims.HubHoldMovesTheDuties ∧ Claims.DiesRejoinAtABlockBoundary ∧ Claims.ResettingADieFencesIt

/-- Power good, boot, loading and the entry into RUN bring the device up. -/
def Obligations.PowerBootAndRunEntryBringTheDeviceUp : Prop :=
  Claims.PowerGoodStartsFromReset ∧ Claims.BootLeadsToLoadingAndConfig ∧ Claims.RunEntryBringsTheDeviceIntoRun

/-- TAP instructions act on the port alone, accesses obey the lock, and the lock opens by a signed challenge. -/
def Obligations.TheDebugPortObeysItsLock : Prop :=
  Claims.TapInstructionsActOnThePortAlone ∧ Claims.DebugAccessesObeyTheLock ∧ Claims.UnlockNeedsASignedChallenge

/-- The table handshake moves its state, LSTICKY is cleared by ones, and broadcasts fill the window. -/
def Obligations.TheParameterTableIsHandedOver : Prop :=
  Claims.TheTableHandshakeMovesItsState ∧ Claims.LstickyIsClearedByWritingOne ∧ Claims.BroadcastWritesFillTheWindow

/-- Scenes are taken and laws abandoned, and the stream pair's submissions are compared. -/
def Obligations.ScenesAndComparisonsAreResolved : Prop :=
  Claims.ScenesAreTakenAndLawsAbandoned ∧ Claims.CompareSubmissionsAreResolved

/-- Register fields follow their access codes, and a register write is one transaction. -/
def Obligations.RegistersAreWrittenByTheirAccessCodes : Prop :=
  Claims.RegisterFieldsFollowTheirAccessCode ∧ Claims.RegisterWritesAndReissuesAreOneTransaction

/-- DRAM reads serve a copy or poison the word, and writes change the enabled bytes. -/
def Obligations.DramServesItsCopies : Prop :=
  Claims.DramReadsServeACopyOrPoison ∧ Claims.DramWritesTheEnabledBytes

/-- The scrubber and the sweep move on, and failed channels leave service. -/
def Obligations.ScrubSweepAndFailureOfChannels : Prop :=
  Claims.ScrubAndSweepMoveOn ∧ Claims.FailedChannelsLeaveService

/-- Queues are enabled, disabled and notified, and linked queues move their entries. -/
def Obligations.QueuesFollowTheirCommandsAndLinks : Prop :=
  Claims.QueuesAreEnabledDisabledAndNotified ∧ Claims.LinkedQueuesMoveOneEntry

/-- Faults begin eclipses, planned ones wait for their boundary, and audits compare block CRCs. -/
def Obligations.EclipsesAndAuditsCoverClusters : Prop :=
  Claims.FaultsOfClustersBeginEclipses ∧ Claims.PlannedEclipsesWaitForTheirBoundary ∧ Claims.AuditsCompareBlockCrcs

/-- Fences move the roles and degrade, watchdogs report their unit, and the sources of lost dies move. -/
def Obligations.LossesAreFencedReportedAndCovered : Prop :=
  Claims.FencesMoveTheRolesAndDegrade ∧ Claims.WatchdogsReportTheirUnit ∧ Claims.SourcesOfLostDiesMove

/-- Fuses burn only by their rules, and sessions open by signed nonces. -/
def Obligations.FusesAndSessionsKeepTheirRules : Prop :=
  Claims.FusesBurnOnlyByTheirRules ∧ Claims.SessionsOpenBySignedNonces

/-- Images are verified whole, and a live update goes unit by unit. -/
def Obligations.ImagesAreVerifiedAndTakenUnitByUnit : Prop :=
  Claims.ImagesAreVerifiedWhole ∧ Claims.LiveUpdatesGoUnitByUnit

/-- Transfers time out, SDO requests are answered, and long transfers move whole values. -/
def Obligations.TransfersOfTheServicePort : Prop :=
  Claims.TransfersTimeOut ∧ Claims.SdoRequestsAreAnswered ∧ Claims.LongTransfersMoveWholeValues

/-- NGP requests are served for their domain, and CAN errors confine the controller. -/
def Obligations.NgpRequestsAndCanErrors : Prop :=
  Claims.NgpRequestsAreServedForTheirDomain ∧ Claims.CanErrorsConfineTheController

/-- Channels are enabled, stopped and requested, and descriptors move through the shadow set. -/
def Obligations.DmaChannelsTakeTheirDescriptors : Prop :=
  Claims.ChannelsAreEnabledStoppedAndRequested ∧ Claims.DescriptorsMoveThroughTheShadowSet

/-- Bursts move their elements, and a finished descriptor completes with its record. -/
def Obligations.DmaMovesAndCompletesDescriptors : Prop :=
  Claims.BurstsMoveTheirElements ∧ Claims.DescriptorsCompleteWithTheirRecord

/-- Ports answer frames and follow their link, and network time steers the generators. -/
def Obligations.MediaPortsAndNetworkTime : Prop :=
  Claims.PortsAnswerFramesAndFollowTheirLink ∧ Claims.NetworkTimeSteersTheGenerators

/-- Streams are enabled or refused, received packets fill the ring, and due packets are sent or dropped. -/
def Obligations.StreamsCarryTheirPackets : Prop :=
  Claims.StreamsAreEnabledOrRefused ∧ Claims.PacketsFillTheRing ∧ Claims.EgressPacketsAreSentOrDropped

/-- CXL links and resets keep their state, and CDAT and Discovery answer. -/
def Obligations.CxlLinksResetsAndTables : Prop :=
  Claims.CxlLinksAndResetsKeepTheirState ∧ Claims.CdatAndDiscoveryAnswer

/-- HDM decoders commit within their capacity, and host requests go through them. -/
def Obligations.CxlMemReachesItsMemory : Prop :=
  Claims.HdmDecodersCommitWithinTheirCapacity ∧ Claims.HostRequestsGoThroughTheirDecoder

/-- FM-API, mailbox and vendor commands answer by their tables. -/
def Obligations.CxlCommandsAnswerByTheirTables : Prop :=
  Claims.FmApiCommandsReadAndSetTheirFields ∧
  Claims.MailboxCommandsAnswerByTheirTables ∧
  Claims.VendorCommandsReachTheDictionary
end

