-- ==== Sys2Proof/Laws/Mem.lean ====
section
/-! SUPPORT. The laws of the sparse stores and of memory: what a read gives after a write, and that every operation keeps the
canonical form. -/

namespace Sys2Proof.Machine
open Sys2Proof

variable {α : Type}

/-! ### Sparse stores -/

@[simp] theorem SMap.get_nil (d : Nat → α) (k : Nat) : SMap.get d [] k = d k := rfl

theorem SMap.get_erase (d : Nat → α) (m : SMap α) (k j : Nat) :
    SMap.get d (SMap.erase m k) j = if j = k then d j else SMap.get d m j := by
  induction m with
  | nil => simp [SMap.erase, SMap.get]
  | cons e m ih =>
    obtain ⟨i, v⟩ := e
    by_cases hik : i = k
    · subst hik
      by_cases hji : j = i
      · subst hji; simp [SMap.erase, ih]
      · simp [SMap.erase, ih, SMap.get, hji, Ne.symm hji]
    · by_cases hij : i = j
      · subst hij; simp [SMap.erase, SMap.get, hik]
      · simp [SMap.erase, SMap.get, hik, hij, ih]

theorem SMap.get_insert (d : Nat → α) (m : SMap α) (k : Nat) (v : α) (j : Nat)
    (hm : ∀ e ∈ m, e.1 ≠ k) : SMap.get d (SMap.insert m k v) j = if j = k then v else SMap.get d m j := by
  induction m with
  | nil => by_cases hj : k = j <;> simp [SMap.insert, SMap.get, hj, eq_comm]
  | cons e m ih =>
    obtain ⟨i, w⟩ := e
    have hik : i ≠ k := hm (i, w) (by simp)
    have hm' : ∀ e ∈ m, e.1 ≠ k := fun e he => hm e (by simp [he])
    by_cases hlt : k < i
    · by_cases hj : k = j
      · subst hj; simp [SMap.insert, hlt, SMap.get]
      · simp [SMap.insert, hlt, SMap.get, hj, Ne.symm hj]
    · by_cases hij : i = j
      · subst hij; simp [SMap.insert, hlt, SMap.get, hik]
      · simp [SMap.insert, hlt, SMap.get, hij, ih hm']

theorem SMap.mem_erase (m : SMap α) (k : Nat) (e : Nat × α) : e ∈ SMap.erase m k ↔ e ∈ m ∧ e.1 ≠ k := by
  induction m with
  | nil => simp [SMap.erase]
  | cons x m ih =>
    obtain ⟨i, w⟩ := x
    by_cases hik : i = k
    · subst hik; simp only [SMap.erase, if_true, ih, List.mem_cons]
      exact ⟨fun h => ⟨.inr h.1, h.2⟩, fun h => ⟨h.1.resolve_left fun he => h.2 (by rw [he]), h.2⟩⟩
    · simp only [SMap.erase, if_neg hik, List.mem_cons, ih]
      exact ⟨fun h => h.elim (fun he => ⟨.inl he, by rw [he]; exact hik⟩) (fun he => ⟨.inr he.1, he.2⟩),
        fun h => h.1.elim .inl fun he => .inr ⟨he, h.2⟩⟩

/-- A read of a store after a write gives the value written at its key and what was there before at any other. -/
theorem SMap.get_set [DecidableEq α] (d : Nat → α) (m : SMap α) (k : Nat) (v : α) (j : Nat) :
    SMap.get d (SMap.set d m k v) j = if j = k then v else SMap.get d m j := by
  unfold SMap.set
  split
  · rename_i hv
    rw [SMap.get_erase]
    split
    · rename_i hj; rw [hv, hj]
    · rfl
  · have hm : ∀ e ∈ SMap.erase m k, e.1 ≠ k := fun e he => ((SMap.mem_erase m k e).1 he).2
    rw [SMap.get_insert d _ k v j hm]
    split
    · rfl
    · rw [SMap.get_erase, if_neg ‹_›]

@[simp] theorem SMap.get_set_same [DecidableEq α] (d : Nat → α) (m : SMap α) (k : Nat) (v : α) :
    SMap.get d (SMap.set d m k v) k = v := by rw [SMap.get_set, if_pos rfl]

theorem SMap.get_set_other [DecidableEq α] (d : Nat → α) (m : SMap α) {k j : Nat} (v : α) (h : j ≠ k) :
    SMap.get d (SMap.set d m k v) j = SMap.get d m j := by rw [SMap.get_set, if_neg h]

/-! ### The canonical form of a store -/

variable [DecidableEq α] (d : Nat → α)

theorem SMap.wfFrom_mono {b c : Nat} (m : SMap α) (h : SMap.wfFrom d c m = true) (hb : b ≤ c) : SMap.wfFrom d b m = true := by
  cases m with
  | nil => rfl
  | cons e m => simp only [SMap.wfFrom, Bool.and_eq_true, decide_eq_true_eq] at h ⊢; exact ⟨⟨le_trans hb h.1.1, h.1.2⟩, h.2⟩

theorem SMap.wfFrom_erase {b : Nat} (m : SMap α) (k : Nat) (h : SMap.wfFrom d b m = true) :
    SMap.wfFrom d b (SMap.erase m k) = true := by
  induction m generalizing b with
  | nil => rfl
  | cons e m ih =>
    simp only [SMap.wfFrom, Bool.and_eq_true, decide_eq_true_eq] at h
    simp only [SMap.erase]
    split
    · exact SMap.wfFrom_mono d _ (ih h.2) (by omega)
    · simp only [SMap.wfFrom, Bool.and_eq_true, decide_eq_true_eq]; exact ⟨h.1, ih h.2⟩

theorem SMap.wfFrom_insert {b : Nat} (m : SMap α) (k : Nat) (v : α) (hb : b ≤ k) (hv : v ≠ d k) (hm : ∀ e ∈ m, e.1 ≠ k)
    (h : SMap.wfFrom d b m = true) : SMap.wfFrom d b (SMap.insert m k v) = true := by
  induction m generalizing b with
  | nil => simp [SMap.insert, SMap.wfFrom, hb, hv]
  | cons e m ih =>
    have he : e.1 ≠ k := hm e (by simp)
    simp only [SMap.wfFrom, Bool.and_eq_true, decide_eq_true_eq] at h
    simp only [SMap.insert]
    split
    · rename_i hlt
      simp only [SMap.wfFrom, Bool.and_eq_true, decide_eq_true_eq]
      exact ⟨⟨hb, hv⟩, ⟨hlt, h.1.2⟩, h.2⟩
    · simp only [SMap.wfFrom, Bool.and_eq_true, decide_eq_true_eq]
      exact ⟨h.1, ih (by omega) (fun x hx => hm x (by simp [hx])) h.2⟩

/-- A write of a store keeps its canonical form. -/
theorem SMap.wf_set (m : SMap α) (k : Nat) (v : α) (h : SMap.wf d m = true) : SMap.wf d (SMap.set d m k v) = true := by
  unfold SMap.set
  split
  · exact SMap.wfFrom_erase d m k h
  · exact SMap.wfFrom_insert d _ k v (Nat.zero_le k) ‹_› (fun e he => ((SMap.mem_erase m k e).1 he).2)
      (SMap.wfFrom_erase d m k h)

/-- Dropping entries keeps it. -/
theorem SMap.wfFrom_filter (p : Nat × α → Bool) {b : Nat} (m : SMap α) (h : SMap.wfFrom d b m = true) :
    SMap.wfFrom d b (m.filter p) = true := by
  induction m generalizing b with
  | nil => rfl
  | cons e m ih =>
    simp only [SMap.wfFrom, Bool.and_eq_true, decide_eq_true_eq] at h
    cases hp : p e
    · simpa [List.filter, hp] using SMap.wfFrom_mono d _ (ih h.2) (by omega)
    · simp only [List.filter, hp, SMap.wfFrom, Bool.and_eq_true, decide_eq_true_eq]; exact ⟨h.1, ih h.2⟩

/-! ### Sets of numbers -/

theorem mem_nsAdd (m : List Nat) (k j : Nat) : j ∈ nsAdd m k ↔ j = k ∨ j ∈ m := by
  induction m with
  | nil => simp [nsAdd]
  | cons i m ih =>
    simp only [nsAdd]
    split
    · simp
    · split
      · rename_i h; simp [h]
      · simp only [List.mem_cons, ih]; tauto

theorem mem_nsDel (m : List Nat) (k j : Nat) : j ∈ nsDel m k ↔ j ∈ m ∧ j ≠ k := by simp [nsDel]

theorem nsWfFrom_mono {b c : Nat} (m : List Nat) (h : nsWfFrom c m = true) (hb : b ≤ c) : nsWfFrom b m = true := by
  cases m with
  | nil => rfl
  | cons k m => simp only [nsWfFrom, Bool.and_eq_true, decide_eq_true_eq] at h ⊢; exact ⟨le_trans hb h.1, h.2⟩

theorem nsWfFrom_add {b : Nat} (m : List Nat) (k : Nat) (hb : b ≤ k) (h : nsWfFrom b m = true) : nsWfFrom b (nsAdd m k) = true := by
  induction m generalizing b with
  | nil => simp [nsAdd, nsWfFrom, hb]
  | cons i m ih =>
    simp only [nsWfFrom, Bool.and_eq_true, decide_eq_true_eq] at h
    simp only [nsAdd]
    split
    · simp only [nsWfFrom, Bool.and_eq_true, decide_eq_true_eq]; exact ⟨hb, by omega, h.2⟩
    · split
      · simp only [nsWfFrom, Bool.and_eq_true, decide_eq_true_eq]; exact h
      · simp only [nsWfFrom, Bool.and_eq_true, decide_eq_true_eq]; exact ⟨h.1, ih (by omega) h.2⟩

theorem nsWf_add (m : List Nat) (k : Nat) (h : nsWf m = true) : nsWf (nsAdd m k) = true := nsWfFrom_add m k (Nat.zero_le k) h

theorem nsWfFrom_filter (p : Nat → Bool) {b : Nat} (m : List Nat) (h : nsWfFrom b m = true) : nsWfFrom b (m.filter p) = true := by
  induction m generalizing b with
  | nil => rfl
  | cons k m ih =>
    simp only [nsWfFrom, Bool.and_eq_true, decide_eq_true_eq] at h
    cases hp : p k
    · simpa [List.filter, hp] using nsWfFrom_mono _ (ih h.2) (by omega)
    · simp only [List.filter, hp, nsWfFrom, Bool.and_eq_true, decide_eq_true_eq]; exact ⟨h.1, ih h.2⟩

theorem nsWf_filter (p : Nat → Bool) (m : List Nat) (h : nsWf m = true) : nsWf (m.filter p) = true := nsWfFrom_filter p m h

theorem nsWf_del (m : List Nat) (k : Nat) (h : nsWf m = true) : nsWf (nsDel m k) = true := nsWf_filter _ m h

/-! ### Memory -/

/-- A byte read after a byte was written. -/
theorem memRead_memWrite (m : SMap Byte) (a b : Nat) (v : Byte) :
    memRead (memWrite m a v) b = if b = a then v else memRead m b := SMap.get_set memDefault m a v b

/-- A byte read after a region was zeroed. -/
theorem memRead_memZero (m : SMap Byte) (a n b : Nat) :
    memRead (memZero m a n) b = if a ≤ b ∧ b < a + n then 0 else memRead m b := by
  unfold memRead memZero
  induction m with
  | nil => simp [SMap.get, memDefault]
  | cons e m ih =>
    obtain ⟨k, v⟩ := e
    rw [List.filter_cons]
    by_cases hk : k < a ∨ a + n ≤ k
    · have hp : (decide ((k, v).1 < a) || decide (a + n ≤ (k, v).1)) = true := by simpa using hk
      rw [if_pos hp]
      by_cases hb : k = b
      · have hn : ¬(a ≤ b ∧ b < a + n) := by omega
        simp [SMap.get, hb, hn]
      · simpa [SMap.get, hb] using ih
    · have hp : ¬(decide ((k, v).1 < a) || decide (a + n ≤ (k, v).1)) = true := by simpa using hk
      rw [if_neg hp]
      by_cases hb : k = b
      · have hn : a ≤ b ∧ b < a + n := by omega
        rw [ih, if_pos hn, if_pos hn]
      · simpa [SMap.get, hb] using ih

theorem Memory.wf_write (m : SMap Byte) (a : Nat) (v : Byte) (h : Memory.wf m = true) : Memory.wf (memWrite m a v) = true :=
  SMap.wf_set memDefault m a v h

theorem Memory.wf_writeN (m : SMap Byte) (a : Nat) (bs : List Byte) (h : Memory.wf m = true) : Memory.wf (memWriteN m a bs) = true := by
  induction bs generalizing m a with
  | nil => exact h
  | cons b bs ih => exact ih _ _ (Memory.wf_write m a b h)

theorem Memory.wf_zero (m : SMap Byte) (a n : Nat) (h : Memory.wf m = true) : Memory.wf (memZero m a n) = true :=
  SMap.wfFrom_filter memDefault _ m h

@[simp] theorem memReadN_length (m : SMap Byte) (a n : Nat) : (memReadN m a n).length = n := by
  induction n generalizing a with
  | zero => rfl
  | succ n ih => simp [memReadN, ih]

end Sys2Proof.Machine
end

