-- ==== Sys2Proof/Laws/State.lean ====
section
/-! SUPPORT. One lemma per field per update of the state: an update changes its own field and no other, and a unit reads back what
was put into it. -/

namespace Sys2Proof.Machine
open Sys2Proof

variable (s : State)

/-! ### setRg -/

@[simp] theorem State.setRg_pending (a : Nat) (v : Word) : (s.setRg a v).pending = s.pending := rfl
@[simp] theorem State.setRg_mem (a : Nat) (v : Word) : (s.setRg a v).mem = s.mem := rfl
@[simp] theorem State.setRg_tags (a : Nat) (v : Word) : (s.setRg a v).tags = s.tags := rfl
@[simp] theorem State.setRg_poison (a : Nat) (v : Word) : (s.setRg a v).poison = s.poison := rfl
@[simp] theorem State.setRg_ctrs (a : Nat) (v : Word) : (s.setRg a v).ctrs = s.ctrs := rfl
@[simp] theorem State.setRg_cores (a : Nat) (v : Word) : (s.setRg a v).cores = s.cores := rfl
@[simp] theorem State.setRg_dies (a : Nat) (v : Word) : (s.setRg a v).dies = s.dies := rfl
@[simp] theorem State.setRg_gens (a : Nat) (v : Word) : (s.setRg a v).gens = s.gens := rfl
@[simp] theorem State.setRg_dev (a : Nat) (v : Word) : (s.setRg a v).dev = s.dev := rfl
@[simp] theorem State.setRg_devBack (a : Nat) (v : Word) : (s.setRg a v).devBack = s.devBack := rfl
@[simp] theorem State.setRg_active (a : Nat) (v : Word) : (s.setRg a v).active = s.active := rfl
@[simp] theorem State.setRg_fresh (a : Nat) (v : Word) : (s.setRg a v).fresh = s.fresh := rfl
@[simp] theorem State.setRg_posted (a : Nat) (v : Word) : (s.setRg a v).posted = s.posted := rfl
@[simp] theorem State.setRg_troubles (a : Nat) (v : Word) : (s.setRg a v).troubles = s.troubles := rfl
@[simp] theorem State.setRg_resp (a : Nat) (v : Word) : (s.setRg a v).resp = s.resp := rfl
@[simp] theorem State.setRg_fenced (a : Nat) (v : Word) : (s.setRg a v).fenced = s.fenced := rfl
@[simp] theorem State.setRg_held (a : Nat) (v : Word) : (s.setRg a v).held = s.held := rfl
@[simp] theorem State.setRg_lds (a : Nat) (v : Word) : (s.setRg a v).lds = s.lds := rfl
@[simp] theorem State.setRg_cls (a : Nat) (v : Word) : (s.setRg a v).cls = s.cls := rfl
@[simp] theorem State.setRg_chans (a : Nat) (v : Word) : (s.setRg a v).chans = s.chans := rfl
@[simp] theorem State.setRg_dict (a : Nat) (v : Word) : (s.setRg a v).dict = s.dict := rfl
@[simp] theorem State.setRg_shape (a : Nat) (v : Word) : (s.setRg a v).shape = s.shape := rfl
@[simp] theorem State.setRg_rate96 (a : Nat) (v : Word) : (s.setRg a v).rate96 = s.rate96 := rfl
@[simp] theorem State.setRg_straps (a : Nat) (v : Word) : (s.setRg a v).straps = s.straps := rfl
@[simp] theorem State.setRg_stalled (a : Nat) (v : Word) : (s.setRg a v).stalled = s.stalled := rfl
@[simp] theorem State.setRg_hostWait (a : Nat) (v : Word) : (s.setRg a v).hostWait = s.hostWait := rfl
@[simp] theorem State.setRg_linksDown (a : Nat) (v : Word) : (s.setRg a v).linksDown = s.linksDown := rfl
@[simp] theorem State.setRg_tap (a : Nat) (v : Word) : (s.setRg a v).tap = s.tap := rfl
/-- Nothing else changes. -/
theorem State.setRg_rest (a : Nat) (v : Word) : { s.setRg a v with regs := s.regs } = s := rfl

/-! ### setFld -/

@[simp] theorem State.setFld_pending (a lsb w x : Nat) : (s.setFld a lsb w x).pending = s.pending := rfl
@[simp] theorem State.setFld_mem (a lsb w x : Nat) : (s.setFld a lsb w x).mem = s.mem := rfl
@[simp] theorem State.setFld_tags (a lsb w x : Nat) : (s.setFld a lsb w x).tags = s.tags := rfl
@[simp] theorem State.setFld_poison (a lsb w x : Nat) : (s.setFld a lsb w x).poison = s.poison := rfl
@[simp] theorem State.setFld_ctrs (a lsb w x : Nat) : (s.setFld a lsb w x).ctrs = s.ctrs := rfl
@[simp] theorem State.setFld_cores (a lsb w x : Nat) : (s.setFld a lsb w x).cores = s.cores := rfl
@[simp] theorem State.setFld_dies (a lsb w x : Nat) : (s.setFld a lsb w x).dies = s.dies := rfl
@[simp] theorem State.setFld_gens (a lsb w x : Nat) : (s.setFld a lsb w x).gens = s.gens := rfl
@[simp] theorem State.setFld_dev (a lsb w x : Nat) : (s.setFld a lsb w x).dev = s.dev := rfl
@[simp] theorem State.setFld_devBack (a lsb w x : Nat) : (s.setFld a lsb w x).devBack = s.devBack := rfl
@[simp] theorem State.setFld_active (a lsb w x : Nat) : (s.setFld a lsb w x).active = s.active := rfl
@[simp] theorem State.setFld_fresh (a lsb w x : Nat) : (s.setFld a lsb w x).fresh = s.fresh := rfl
@[simp] theorem State.setFld_posted (a lsb w x : Nat) : (s.setFld a lsb w x).posted = s.posted := rfl
@[simp] theorem State.setFld_troubles (a lsb w x : Nat) : (s.setFld a lsb w x).troubles = s.troubles := rfl
@[simp] theorem State.setFld_resp (a lsb w x : Nat) : (s.setFld a lsb w x).resp = s.resp := rfl
@[simp] theorem State.setFld_fenced (a lsb w x : Nat) : (s.setFld a lsb w x).fenced = s.fenced := rfl
@[simp] theorem State.setFld_held (a lsb w x : Nat) : (s.setFld a lsb w x).held = s.held := rfl
@[simp] theorem State.setFld_lds (a lsb w x : Nat) : (s.setFld a lsb w x).lds = s.lds := rfl
@[simp] theorem State.setFld_cls (a lsb w x : Nat) : (s.setFld a lsb w x).cls = s.cls := rfl
@[simp] theorem State.setFld_chans (a lsb w x : Nat) : (s.setFld a lsb w x).chans = s.chans := rfl
@[simp] theorem State.setFld_dict (a lsb w x : Nat) : (s.setFld a lsb w x).dict = s.dict := rfl
@[simp] theorem State.setFld_shape (a lsb w x : Nat) : (s.setFld a lsb w x).shape = s.shape := rfl
@[simp] theorem State.setFld_rate96 (a lsb w x : Nat) : (s.setFld a lsb w x).rate96 = s.rate96 := rfl
@[simp] theorem State.setFld_straps (a lsb w x : Nat) : (s.setFld a lsb w x).straps = s.straps := rfl
@[simp] theorem State.setFld_stalled (a lsb w x : Nat) : (s.setFld a lsb w x).stalled = s.stalled := rfl
@[simp] theorem State.setFld_hostWait (a lsb w x : Nat) : (s.setFld a lsb w x).hostWait = s.hostWait := rfl
@[simp] theorem State.setFld_linksDown (a lsb w x : Nat) : (s.setFld a lsb w x).linksDown = s.linksDown := rfl
@[simp] theorem State.setFld_tap (a lsb w x : Nat) : (s.setFld a lsb w x).tap = s.tap := rfl
/-- Nothing else changes. -/
theorem State.setFld_rest (a lsb w x : Nat) : { s.setFld a lsb w x with regs := s.regs } = s := rfl

/-! ### setBit -/

@[simp] theorem State.setBit_pending (a i : Nat) (b : Bool) : (s.setBit a i b).pending = s.pending := rfl
@[simp] theorem State.setBit_mem (a i : Nat) (b : Bool) : (s.setBit a i b).mem = s.mem := rfl
@[simp] theorem State.setBit_tags (a i : Nat) (b : Bool) : (s.setBit a i b).tags = s.tags := rfl
@[simp] theorem State.setBit_poison (a i : Nat) (b : Bool) : (s.setBit a i b).poison = s.poison := rfl
@[simp] theorem State.setBit_ctrs (a i : Nat) (b : Bool) : (s.setBit a i b).ctrs = s.ctrs := rfl
@[simp] theorem State.setBit_cores (a i : Nat) (b : Bool) : (s.setBit a i b).cores = s.cores := rfl
@[simp] theorem State.setBit_dies (a i : Nat) (b : Bool) : (s.setBit a i b).dies = s.dies := rfl
@[simp] theorem State.setBit_gens (a i : Nat) (b : Bool) : (s.setBit a i b).gens = s.gens := rfl
@[simp] theorem State.setBit_dev (a i : Nat) (b : Bool) : (s.setBit a i b).dev = s.dev := rfl
@[simp] theorem State.setBit_devBack (a i : Nat) (b : Bool) : (s.setBit a i b).devBack = s.devBack := rfl
@[simp] theorem State.setBit_active (a i : Nat) (b : Bool) : (s.setBit a i b).active = s.active := rfl
@[simp] theorem State.setBit_fresh (a i : Nat) (b : Bool) : (s.setBit a i b).fresh = s.fresh := rfl
@[simp] theorem State.setBit_posted (a i : Nat) (b : Bool) : (s.setBit a i b).posted = s.posted := rfl
@[simp] theorem State.setBit_troubles (a i : Nat) (b : Bool) : (s.setBit a i b).troubles = s.troubles := rfl
@[simp] theorem State.setBit_resp (a i : Nat) (b : Bool) : (s.setBit a i b).resp = s.resp := rfl
@[simp] theorem State.setBit_fenced (a i : Nat) (b : Bool) : (s.setBit a i b).fenced = s.fenced := rfl
@[simp] theorem State.setBit_held (a i : Nat) (b : Bool) : (s.setBit a i b).held = s.held := rfl
@[simp] theorem State.setBit_lds (a i : Nat) (b : Bool) : (s.setBit a i b).lds = s.lds := rfl
@[simp] theorem State.setBit_cls (a i : Nat) (b : Bool) : (s.setBit a i b).cls = s.cls := rfl
@[simp] theorem State.setBit_chans (a i : Nat) (b : Bool) : (s.setBit a i b).chans = s.chans := rfl
@[simp] theorem State.setBit_dict (a i : Nat) (b : Bool) : (s.setBit a i b).dict = s.dict := rfl
@[simp] theorem State.setBit_shape (a i : Nat) (b : Bool) : (s.setBit a i b).shape = s.shape := rfl
@[simp] theorem State.setBit_rate96 (a i : Nat) (b : Bool) : (s.setBit a i b).rate96 = s.rate96 := rfl
@[simp] theorem State.setBit_straps (a i : Nat) (b : Bool) : (s.setBit a i b).straps = s.straps := rfl
@[simp] theorem State.setBit_stalled (a i : Nat) (b : Bool) : (s.setBit a i b).stalled = s.stalled := rfl
@[simp] theorem State.setBit_hostWait (a i : Nat) (b : Bool) : (s.setBit a i b).hostWait = s.hostWait := rfl
@[simp] theorem State.setBit_linksDown (a i : Nat) (b : Bool) : (s.setBit a i b).linksDown = s.linksDown := rfl
@[simp] theorem State.setBit_tap (a i : Nat) (b : Bool) : (s.setBit a i b).tap = s.tap := rfl
/-- Nothing else changes. -/
theorem State.setBit_rest (a i : Nat) (b : Bool) : { s.setBit a i b with regs := s.regs } = s := rfl

/-! ### addSat -/

@[simp] theorem State.addSat_pending (a lsb w n : Nat) : (s.addSat a lsb w n).pending = s.pending := rfl
@[simp] theorem State.addSat_mem (a lsb w n : Nat) : (s.addSat a lsb w n).mem = s.mem := rfl
@[simp] theorem State.addSat_tags (a lsb w n : Nat) : (s.addSat a lsb w n).tags = s.tags := rfl
@[simp] theorem State.addSat_poison (a lsb w n : Nat) : (s.addSat a lsb w n).poison = s.poison := rfl
@[simp] theorem State.addSat_ctrs (a lsb w n : Nat) : (s.addSat a lsb w n).ctrs = s.ctrs := rfl
@[simp] theorem State.addSat_cores (a lsb w n : Nat) : (s.addSat a lsb w n).cores = s.cores := rfl
@[simp] theorem State.addSat_dies (a lsb w n : Nat) : (s.addSat a lsb w n).dies = s.dies := rfl
@[simp] theorem State.addSat_gens (a lsb w n : Nat) : (s.addSat a lsb w n).gens = s.gens := rfl
@[simp] theorem State.addSat_dev (a lsb w n : Nat) : (s.addSat a lsb w n).dev = s.dev := rfl
@[simp] theorem State.addSat_devBack (a lsb w n : Nat) : (s.addSat a lsb w n).devBack = s.devBack := rfl
@[simp] theorem State.addSat_active (a lsb w n : Nat) : (s.addSat a lsb w n).active = s.active := rfl
@[simp] theorem State.addSat_fresh (a lsb w n : Nat) : (s.addSat a lsb w n).fresh = s.fresh := rfl
@[simp] theorem State.addSat_posted (a lsb w n : Nat) : (s.addSat a lsb w n).posted = s.posted := rfl
@[simp] theorem State.addSat_troubles (a lsb w n : Nat) : (s.addSat a lsb w n).troubles = s.troubles := rfl
@[simp] theorem State.addSat_resp (a lsb w n : Nat) : (s.addSat a lsb w n).resp = s.resp := rfl
@[simp] theorem State.addSat_fenced (a lsb w n : Nat) : (s.addSat a lsb w n).fenced = s.fenced := rfl
@[simp] theorem State.addSat_held (a lsb w n : Nat) : (s.addSat a lsb w n).held = s.held := rfl
@[simp] theorem State.addSat_lds (a lsb w n : Nat) : (s.addSat a lsb w n).lds = s.lds := rfl
@[simp] theorem State.addSat_cls (a lsb w n : Nat) : (s.addSat a lsb w n).cls = s.cls := rfl
@[simp] theorem State.addSat_chans (a lsb w n : Nat) : (s.addSat a lsb w n).chans = s.chans := rfl
@[simp] theorem State.addSat_dict (a lsb w n : Nat) : (s.addSat a lsb w n).dict = s.dict := rfl
@[simp] theorem State.addSat_shape (a lsb w n : Nat) : (s.addSat a lsb w n).shape = s.shape := rfl
@[simp] theorem State.addSat_rate96 (a lsb w n : Nat) : (s.addSat a lsb w n).rate96 = s.rate96 := rfl
@[simp] theorem State.addSat_straps (a lsb w n : Nat) : (s.addSat a lsb w n).straps = s.straps := rfl
@[simp] theorem State.addSat_stalled (a lsb w n : Nat) : (s.addSat a lsb w n).stalled = s.stalled := rfl
@[simp] theorem State.addSat_hostWait (a lsb w n : Nat) : (s.addSat a lsb w n).hostWait = s.hostWait := rfl
@[simp] theorem State.addSat_linksDown (a lsb w n : Nat) : (s.addSat a lsb w n).linksDown = s.linksDown := rfl
@[simp] theorem State.addSat_tap (a lsb w n : Nat) : (s.addSat a lsb w n).tap = s.tap := rfl
/-- Nothing else changes. -/
theorem State.addSat_rest (a lsb w n : Nat) : { s.addSat a lsb w n with regs := s.regs } = s := rfl

/-! ### setCtr -/

@[simp] theorem State.setCtr_pending (a : Nat) (v : Word) : (s.setCtr a v).pending = s.pending := rfl
@[simp] theorem State.setCtr_mem (a : Nat) (v : Word) : (s.setCtr a v).mem = s.mem := rfl
@[simp] theorem State.setCtr_tags (a : Nat) (v : Word) : (s.setCtr a v).tags = s.tags := rfl
@[simp] theorem State.setCtr_poison (a : Nat) (v : Word) : (s.setCtr a v).poison = s.poison := rfl
@[simp] theorem State.setCtr_regs (a : Nat) (v : Word) : (s.setCtr a v).regs = s.regs := rfl
@[simp] theorem State.setCtr_cores (a : Nat) (v : Word) : (s.setCtr a v).cores = s.cores := rfl
@[simp] theorem State.setCtr_dies (a : Nat) (v : Word) : (s.setCtr a v).dies = s.dies := rfl
@[simp] theorem State.setCtr_gens (a : Nat) (v : Word) : (s.setCtr a v).gens = s.gens := rfl
@[simp] theorem State.setCtr_dev (a : Nat) (v : Word) : (s.setCtr a v).dev = s.dev := rfl
@[simp] theorem State.setCtr_devBack (a : Nat) (v : Word) : (s.setCtr a v).devBack = s.devBack := rfl
@[simp] theorem State.setCtr_active (a : Nat) (v : Word) : (s.setCtr a v).active = s.active := rfl
@[simp] theorem State.setCtr_fresh (a : Nat) (v : Word) : (s.setCtr a v).fresh = s.fresh := rfl
@[simp] theorem State.setCtr_posted (a : Nat) (v : Word) : (s.setCtr a v).posted = s.posted := rfl
@[simp] theorem State.setCtr_troubles (a : Nat) (v : Word) : (s.setCtr a v).troubles = s.troubles := rfl
@[simp] theorem State.setCtr_resp (a : Nat) (v : Word) : (s.setCtr a v).resp = s.resp := rfl
@[simp] theorem State.setCtr_fenced (a : Nat) (v : Word) : (s.setCtr a v).fenced = s.fenced := rfl
@[simp] theorem State.setCtr_held (a : Nat) (v : Word) : (s.setCtr a v).held = s.held := rfl
@[simp] theorem State.setCtr_lds (a : Nat) (v : Word) : (s.setCtr a v).lds = s.lds := rfl
@[simp] theorem State.setCtr_cls (a : Nat) (v : Word) : (s.setCtr a v).cls = s.cls := rfl
@[simp] theorem State.setCtr_chans (a : Nat) (v : Word) : (s.setCtr a v).chans = s.chans := rfl
@[simp] theorem State.setCtr_dict (a : Nat) (v : Word) : (s.setCtr a v).dict = s.dict := rfl
@[simp] theorem State.setCtr_shape (a : Nat) (v : Word) : (s.setCtr a v).shape = s.shape := rfl
@[simp] theorem State.setCtr_rate96 (a : Nat) (v : Word) : (s.setCtr a v).rate96 = s.rate96 := rfl
@[simp] theorem State.setCtr_straps (a : Nat) (v : Word) : (s.setCtr a v).straps = s.straps := rfl
@[simp] theorem State.setCtr_stalled (a : Nat) (v : Word) : (s.setCtr a v).stalled = s.stalled := rfl
@[simp] theorem State.setCtr_hostWait (a : Nat) (v : Word) : (s.setCtr a v).hostWait = s.hostWait := rfl
@[simp] theorem State.setCtr_linksDown (a : Nat) (v : Word) : (s.setCtr a v).linksDown = s.linksDown := rfl
@[simp] theorem State.setCtr_tap (a : Nat) (v : Word) : (s.setCtr a v).tap = s.tap := rfl
/-- Nothing else changes. -/
theorem State.setCtr_rest (a : Nat) (v : Word) : { s.setCtr a v with ctrs := s.ctrs } = s := rfl

/-! ### setCore -/

@[simp] theorem State.setCore_pending (c : Nat) (x : CoreS) : (s.setCore c x).pending = s.pending := rfl
@[simp] theorem State.setCore_mem (c : Nat) (x : CoreS) : (s.setCore c x).mem = s.mem := rfl
@[simp] theorem State.setCore_tags (c : Nat) (x : CoreS) : (s.setCore c x).tags = s.tags := rfl
@[simp] theorem State.setCore_poison (c : Nat) (x : CoreS) : (s.setCore c x).poison = s.poison := rfl
@[simp] theorem State.setCore_regs (c : Nat) (x : CoreS) : (s.setCore c x).regs = s.regs := rfl
@[simp] theorem State.setCore_ctrs (c : Nat) (x : CoreS) : (s.setCore c x).ctrs = s.ctrs := rfl
@[simp] theorem State.setCore_dies (c : Nat) (x : CoreS) : (s.setCore c x).dies = s.dies := rfl
@[simp] theorem State.setCore_gens (c : Nat) (x : CoreS) : (s.setCore c x).gens = s.gens := rfl
@[simp] theorem State.setCore_dev (c : Nat) (x : CoreS) : (s.setCore c x).dev = s.dev := rfl
@[simp] theorem State.setCore_devBack (c : Nat) (x : CoreS) : (s.setCore c x).devBack = s.devBack := rfl
@[simp] theorem State.setCore_active (c : Nat) (x : CoreS) : (s.setCore c x).active = s.active := rfl
@[simp] theorem State.setCore_fresh (c : Nat) (x : CoreS) : (s.setCore c x).fresh = s.fresh := rfl
@[simp] theorem State.setCore_posted (c : Nat) (x : CoreS) : (s.setCore c x).posted = s.posted := rfl
@[simp] theorem State.setCore_troubles (c : Nat) (x : CoreS) : (s.setCore c x).troubles = s.troubles := rfl
@[simp] theorem State.setCore_resp (c : Nat) (x : CoreS) : (s.setCore c x).resp = s.resp := rfl
@[simp] theorem State.setCore_fenced (c : Nat) (x : CoreS) : (s.setCore c x).fenced = s.fenced := rfl
@[simp] theorem State.setCore_held (c : Nat) (x : CoreS) : (s.setCore c x).held = s.held := rfl
@[simp] theorem State.setCore_lds (c : Nat) (x : CoreS) : (s.setCore c x).lds = s.lds := rfl
@[simp] theorem State.setCore_cls (c : Nat) (x : CoreS) : (s.setCore c x).cls = s.cls := rfl
@[simp] theorem State.setCore_chans (c : Nat) (x : CoreS) : (s.setCore c x).chans = s.chans := rfl
@[simp] theorem State.setCore_dict (c : Nat) (x : CoreS) : (s.setCore c x).dict = s.dict := rfl
@[simp] theorem State.setCore_shape (c : Nat) (x : CoreS) : (s.setCore c x).shape = s.shape := rfl
@[simp] theorem State.setCore_rate96 (c : Nat) (x : CoreS) : (s.setCore c x).rate96 = s.rate96 := rfl
@[simp] theorem State.setCore_straps (c : Nat) (x : CoreS) : (s.setCore c x).straps = s.straps := rfl
@[simp] theorem State.setCore_stalled (c : Nat) (x : CoreS) : (s.setCore c x).stalled = s.stalled := rfl
@[simp] theorem State.setCore_hostWait (c : Nat) (x : CoreS) : (s.setCore c x).hostWait = s.hostWait := rfl
@[simp] theorem State.setCore_linksDown (c : Nat) (x : CoreS) : (s.setCore c x).linksDown = s.linksDown := rfl
@[simp] theorem State.setCore_tap (c : Nat) (x : CoreS) : (s.setCore c x).tap = s.tap := rfl
/-- Nothing else changes. -/
theorem State.setCore_rest (c : Nat) (x : CoreS) : { s.setCore c x with cores := s.cores } = s := rfl

/-! ### modCore -/

@[simp] theorem State.modCore_pending (c : Nat) (f : CoreS → CoreS) : (s.modCore c f).pending = s.pending := rfl
@[simp] theorem State.modCore_mem (c : Nat) (f : CoreS → CoreS) : (s.modCore c f).mem = s.mem := rfl
@[simp] theorem State.modCore_tags (c : Nat) (f : CoreS → CoreS) : (s.modCore c f).tags = s.tags := rfl
@[simp] theorem State.modCore_poison (c : Nat) (f : CoreS → CoreS) : (s.modCore c f).poison = s.poison := rfl
@[simp] theorem State.modCore_regs (c : Nat) (f : CoreS → CoreS) : (s.modCore c f).regs = s.regs := rfl
@[simp] theorem State.modCore_ctrs (c : Nat) (f : CoreS → CoreS) : (s.modCore c f).ctrs = s.ctrs := rfl
@[simp] theorem State.modCore_dies (c : Nat) (f : CoreS → CoreS) : (s.modCore c f).dies = s.dies := rfl
@[simp] theorem State.modCore_gens (c : Nat) (f : CoreS → CoreS) : (s.modCore c f).gens = s.gens := rfl
@[simp] theorem State.modCore_dev (c : Nat) (f : CoreS → CoreS) : (s.modCore c f).dev = s.dev := rfl
@[simp] theorem State.modCore_devBack (c : Nat) (f : CoreS → CoreS) : (s.modCore c f).devBack = s.devBack := rfl
@[simp] theorem State.modCore_active (c : Nat) (f : CoreS → CoreS) : (s.modCore c f).active = s.active := rfl
@[simp] theorem State.modCore_fresh (c : Nat) (f : CoreS → CoreS) : (s.modCore c f).fresh = s.fresh := rfl
@[simp] theorem State.modCore_posted (c : Nat) (f : CoreS → CoreS) : (s.modCore c f).posted = s.posted := rfl
@[simp] theorem State.modCore_troubles (c : Nat) (f : CoreS → CoreS) : (s.modCore c f).troubles = s.troubles := rfl
@[simp] theorem State.modCore_resp (c : Nat) (f : CoreS → CoreS) : (s.modCore c f).resp = s.resp := rfl
@[simp] theorem State.modCore_fenced (c : Nat) (f : CoreS → CoreS) : (s.modCore c f).fenced = s.fenced := rfl
@[simp] theorem State.modCore_held (c : Nat) (f : CoreS → CoreS) : (s.modCore c f).held = s.held := rfl
@[simp] theorem State.modCore_lds (c : Nat) (f : CoreS → CoreS) : (s.modCore c f).lds = s.lds := rfl
@[simp] theorem State.modCore_cls (c : Nat) (f : CoreS → CoreS) : (s.modCore c f).cls = s.cls := rfl
@[simp] theorem State.modCore_chans (c : Nat) (f : CoreS → CoreS) : (s.modCore c f).chans = s.chans := rfl
@[simp] theorem State.modCore_dict (c : Nat) (f : CoreS → CoreS) : (s.modCore c f).dict = s.dict := rfl
@[simp] theorem State.modCore_shape (c : Nat) (f : CoreS → CoreS) : (s.modCore c f).shape = s.shape := rfl
@[simp] theorem State.modCore_rate96 (c : Nat) (f : CoreS → CoreS) : (s.modCore c f).rate96 = s.rate96 := rfl
@[simp] theorem State.modCore_straps (c : Nat) (f : CoreS → CoreS) : (s.modCore c f).straps = s.straps := rfl
@[simp] theorem State.modCore_stalled (c : Nat) (f : CoreS → CoreS) : (s.modCore c f).stalled = s.stalled := rfl
@[simp] theorem State.modCore_hostWait (c : Nat) (f : CoreS → CoreS) : (s.modCore c f).hostWait = s.hostWait := rfl
@[simp] theorem State.modCore_linksDown (c : Nat) (f : CoreS → CoreS) : (s.modCore c f).linksDown = s.linksDown := rfl
@[simp] theorem State.modCore_tap (c : Nat) (f : CoreS → CoreS) : (s.modCore c f).tap = s.tap := rfl
/-- Nothing else changes. -/
theorem State.modCore_rest (c : Nat) (f : CoreS → CoreS) : { s.modCore c f with cores := s.cores } = s := rfl

/-! ### setDie -/

@[simp] theorem State.setDie_pending (d : Nat) (x : DieS) : (s.setDie d x).pending = s.pending := rfl
@[simp] theorem State.setDie_mem (d : Nat) (x : DieS) : (s.setDie d x).mem = s.mem := rfl
@[simp] theorem State.setDie_tags (d : Nat) (x : DieS) : (s.setDie d x).tags = s.tags := rfl
@[simp] theorem State.setDie_poison (d : Nat) (x : DieS) : (s.setDie d x).poison = s.poison := rfl
@[simp] theorem State.setDie_regs (d : Nat) (x : DieS) : (s.setDie d x).regs = s.regs := rfl
@[simp] theorem State.setDie_ctrs (d : Nat) (x : DieS) : (s.setDie d x).ctrs = s.ctrs := rfl
@[simp] theorem State.setDie_cores (d : Nat) (x : DieS) : (s.setDie d x).cores = s.cores := rfl
@[simp] theorem State.setDie_gens (d : Nat) (x : DieS) : (s.setDie d x).gens = s.gens := rfl
@[simp] theorem State.setDie_dev (d : Nat) (x : DieS) : (s.setDie d x).dev = s.dev := rfl
@[simp] theorem State.setDie_devBack (d : Nat) (x : DieS) : (s.setDie d x).devBack = s.devBack := rfl
@[simp] theorem State.setDie_active (d : Nat) (x : DieS) : (s.setDie d x).active = s.active := rfl
@[simp] theorem State.setDie_fresh (d : Nat) (x : DieS) : (s.setDie d x).fresh = s.fresh := rfl
@[simp] theorem State.setDie_posted (d : Nat) (x : DieS) : (s.setDie d x).posted = s.posted := rfl
@[simp] theorem State.setDie_troubles (d : Nat) (x : DieS) : (s.setDie d x).troubles = s.troubles := rfl
@[simp] theorem State.setDie_resp (d : Nat) (x : DieS) : (s.setDie d x).resp = s.resp := rfl
@[simp] theorem State.setDie_fenced (d : Nat) (x : DieS) : (s.setDie d x).fenced = s.fenced := rfl
@[simp] theorem State.setDie_held (d : Nat) (x : DieS) : (s.setDie d x).held = s.held := rfl
@[simp] theorem State.setDie_lds (d : Nat) (x : DieS) : (s.setDie d x).lds = s.lds := rfl
@[simp] theorem State.setDie_cls (d : Nat) (x : DieS) : (s.setDie d x).cls = s.cls := rfl
@[simp] theorem State.setDie_chans (d : Nat) (x : DieS) : (s.setDie d x).chans = s.chans := rfl
@[simp] theorem State.setDie_dict (d : Nat) (x : DieS) : (s.setDie d x).dict = s.dict := rfl
@[simp] theorem State.setDie_shape (d : Nat) (x : DieS) : (s.setDie d x).shape = s.shape := rfl
@[simp] theorem State.setDie_rate96 (d : Nat) (x : DieS) : (s.setDie d x).rate96 = s.rate96 := rfl
@[simp] theorem State.setDie_straps (d : Nat) (x : DieS) : (s.setDie d x).straps = s.straps := rfl
@[simp] theorem State.setDie_stalled (d : Nat) (x : DieS) : (s.setDie d x).stalled = s.stalled := rfl
@[simp] theorem State.setDie_hostWait (d : Nat) (x : DieS) : (s.setDie d x).hostWait = s.hostWait := rfl
@[simp] theorem State.setDie_linksDown (d : Nat) (x : DieS) : (s.setDie d x).linksDown = s.linksDown := rfl
@[simp] theorem State.setDie_tap (d : Nat) (x : DieS) : (s.setDie d x).tap = s.tap := rfl
/-- Nothing else changes. -/
theorem State.setDie_rest (d : Nat) (x : DieS) : { s.setDie d x with dies := s.dies } = s := rfl

/-! ### modDie -/

@[simp] theorem State.modDie_pending (d : Nat) (f : DieS → DieS) : (s.modDie d f).pending = s.pending := rfl
@[simp] theorem State.modDie_mem (d : Nat) (f : DieS → DieS) : (s.modDie d f).mem = s.mem := rfl
@[simp] theorem State.modDie_tags (d : Nat) (f : DieS → DieS) : (s.modDie d f).tags = s.tags := rfl
@[simp] theorem State.modDie_poison (d : Nat) (f : DieS → DieS) : (s.modDie d f).poison = s.poison := rfl
@[simp] theorem State.modDie_regs (d : Nat) (f : DieS → DieS) : (s.modDie d f).regs = s.regs := rfl
@[simp] theorem State.modDie_ctrs (d : Nat) (f : DieS → DieS) : (s.modDie d f).ctrs = s.ctrs := rfl
@[simp] theorem State.modDie_cores (d : Nat) (f : DieS → DieS) : (s.modDie d f).cores = s.cores := rfl
@[simp] theorem State.modDie_gens (d : Nat) (f : DieS → DieS) : (s.modDie d f).gens = s.gens := rfl
@[simp] theorem State.modDie_dev (d : Nat) (f : DieS → DieS) : (s.modDie d f).dev = s.dev := rfl
@[simp] theorem State.modDie_devBack (d : Nat) (f : DieS → DieS) : (s.modDie d f).devBack = s.devBack := rfl
@[simp] theorem State.modDie_active (d : Nat) (f : DieS → DieS) : (s.modDie d f).active = s.active := rfl
@[simp] theorem State.modDie_fresh (d : Nat) (f : DieS → DieS) : (s.modDie d f).fresh = s.fresh := rfl
@[simp] theorem State.modDie_posted (d : Nat) (f : DieS → DieS) : (s.modDie d f).posted = s.posted := rfl
@[simp] theorem State.modDie_troubles (d : Nat) (f : DieS → DieS) : (s.modDie d f).troubles = s.troubles := rfl
@[simp] theorem State.modDie_resp (d : Nat) (f : DieS → DieS) : (s.modDie d f).resp = s.resp := rfl
@[simp] theorem State.modDie_fenced (d : Nat) (f : DieS → DieS) : (s.modDie d f).fenced = s.fenced := rfl
@[simp] theorem State.modDie_held (d : Nat) (f : DieS → DieS) : (s.modDie d f).held = s.held := rfl
@[simp] theorem State.modDie_lds (d : Nat) (f : DieS → DieS) : (s.modDie d f).lds = s.lds := rfl
@[simp] theorem State.modDie_cls (d : Nat) (f : DieS → DieS) : (s.modDie d f).cls = s.cls := rfl
@[simp] theorem State.modDie_chans (d : Nat) (f : DieS → DieS) : (s.modDie d f).chans = s.chans := rfl
@[simp] theorem State.modDie_dict (d : Nat) (f : DieS → DieS) : (s.modDie d f).dict = s.dict := rfl
@[simp] theorem State.modDie_shape (d : Nat) (f : DieS → DieS) : (s.modDie d f).shape = s.shape := rfl
@[simp] theorem State.modDie_rate96 (d : Nat) (f : DieS → DieS) : (s.modDie d f).rate96 = s.rate96 := rfl
@[simp] theorem State.modDie_straps (d : Nat) (f : DieS → DieS) : (s.modDie d f).straps = s.straps := rfl
@[simp] theorem State.modDie_stalled (d : Nat) (f : DieS → DieS) : (s.modDie d f).stalled = s.stalled := rfl
@[simp] theorem State.modDie_hostWait (d : Nat) (f : DieS → DieS) : (s.modDie d f).hostWait = s.hostWait := rfl
@[simp] theorem State.modDie_linksDown (d : Nat) (f : DieS → DieS) : (s.modDie d f).linksDown = s.linksDown := rfl
@[simp] theorem State.modDie_tap (d : Nat) (f : DieS → DieS) : (s.modDie d f).tap = s.tap := rfl
/-- Nothing else changes. -/
theorem State.modDie_rest (d : Nat) (f : DieS → DieS) : { s.modDie d f with dies := s.dies } = s := rfl

/-! ### setGen -/

@[simp] theorem State.setGen_pending (h : Nat) (x : TideGen) : (s.setGen h x).pending = s.pending := rfl
@[simp] theorem State.setGen_mem (h : Nat) (x : TideGen) : (s.setGen h x).mem = s.mem := rfl
@[simp] theorem State.setGen_tags (h : Nat) (x : TideGen) : (s.setGen h x).tags = s.tags := rfl
@[simp] theorem State.setGen_poison (h : Nat) (x : TideGen) : (s.setGen h x).poison = s.poison := rfl
@[simp] theorem State.setGen_regs (h : Nat) (x : TideGen) : (s.setGen h x).regs = s.regs := rfl
@[simp] theorem State.setGen_ctrs (h : Nat) (x : TideGen) : (s.setGen h x).ctrs = s.ctrs := rfl
@[simp] theorem State.setGen_cores (h : Nat) (x : TideGen) : (s.setGen h x).cores = s.cores := rfl
@[simp] theorem State.setGen_dies (h : Nat) (x : TideGen) : (s.setGen h x).dies = s.dies := rfl
@[simp] theorem State.setGen_dev (h : Nat) (x : TideGen) : (s.setGen h x).dev = s.dev := rfl
@[simp] theorem State.setGen_devBack (h : Nat) (x : TideGen) : (s.setGen h x).devBack = s.devBack := rfl
@[simp] theorem State.setGen_active (h : Nat) (x : TideGen) : (s.setGen h x).active = s.active := rfl
@[simp] theorem State.setGen_fresh (h : Nat) (x : TideGen) : (s.setGen h x).fresh = s.fresh := rfl
@[simp] theorem State.setGen_posted (h : Nat) (x : TideGen) : (s.setGen h x).posted = s.posted := rfl
@[simp] theorem State.setGen_troubles (h : Nat) (x : TideGen) : (s.setGen h x).troubles = s.troubles := rfl
@[simp] theorem State.setGen_resp (h : Nat) (x : TideGen) : (s.setGen h x).resp = s.resp := rfl
@[simp] theorem State.setGen_fenced (h : Nat) (x : TideGen) : (s.setGen h x).fenced = s.fenced := rfl
@[simp] theorem State.setGen_held (h : Nat) (x : TideGen) : (s.setGen h x).held = s.held := rfl
@[simp] theorem State.setGen_lds (h : Nat) (x : TideGen) : (s.setGen h x).lds = s.lds := rfl
@[simp] theorem State.setGen_cls (h : Nat) (x : TideGen) : (s.setGen h x).cls = s.cls := rfl
@[simp] theorem State.setGen_chans (h : Nat) (x : TideGen) : (s.setGen h x).chans = s.chans := rfl
@[simp] theorem State.setGen_dict (h : Nat) (x : TideGen) : (s.setGen h x).dict = s.dict := rfl
@[simp] theorem State.setGen_shape (h : Nat) (x : TideGen) : (s.setGen h x).shape = s.shape := rfl
@[simp] theorem State.setGen_rate96 (h : Nat) (x : TideGen) : (s.setGen h x).rate96 = s.rate96 := rfl
@[simp] theorem State.setGen_straps (h : Nat) (x : TideGen) : (s.setGen h x).straps = s.straps := rfl
@[simp] theorem State.setGen_stalled (h : Nat) (x : TideGen) : (s.setGen h x).stalled = s.stalled := rfl
@[simp] theorem State.setGen_hostWait (h : Nat) (x : TideGen) : (s.setGen h x).hostWait = s.hostWait := rfl
@[simp] theorem State.setGen_linksDown (h : Nat) (x : TideGen) : (s.setGen h x).linksDown = s.linksDown := rfl
@[simp] theorem State.setGen_tap (h : Nat) (x : TideGen) : (s.setGen h x).tap = s.tap := rfl
/-- Nothing else changes. -/
theorem State.setGen_rest (h : Nat) (x : TideGen) : { s.setGen h x with gens := s.gens } = s := rfl

/-! ### trouble -/

@[simp] theorem State.trouble_pending (g b : Nat) : (s.trouble g b).pending = s.pending := rfl
@[simp] theorem State.trouble_mem (g b : Nat) : (s.trouble g b).mem = s.mem := rfl
@[simp] theorem State.trouble_tags (g b : Nat) : (s.trouble g b).tags = s.tags := rfl
@[simp] theorem State.trouble_poison (g b : Nat) : (s.trouble g b).poison = s.poison := rfl
@[simp] theorem State.trouble_regs (g b : Nat) : (s.trouble g b).regs = s.regs := rfl
@[simp] theorem State.trouble_ctrs (g b : Nat) : (s.trouble g b).ctrs = s.ctrs := rfl
@[simp] theorem State.trouble_cores (g b : Nat) : (s.trouble g b).cores = s.cores := rfl
@[simp] theorem State.trouble_dies (g b : Nat) : (s.trouble g b).dies = s.dies := rfl
@[simp] theorem State.trouble_gens (g b : Nat) : (s.trouble g b).gens = s.gens := rfl
@[simp] theorem State.trouble_dev (g b : Nat) : (s.trouble g b).dev = s.dev := rfl
@[simp] theorem State.trouble_devBack (g b : Nat) : (s.trouble g b).devBack = s.devBack := rfl
@[simp] theorem State.trouble_active (g b : Nat) : (s.trouble g b).active = s.active := rfl
@[simp] theorem State.trouble_posted (g b : Nat) : (s.trouble g b).posted = s.posted := rfl
@[simp] theorem State.trouble_resp (g b : Nat) : (s.trouble g b).resp = s.resp := rfl
@[simp] theorem State.trouble_fenced (g b : Nat) : (s.trouble g b).fenced = s.fenced := rfl
@[simp] theorem State.trouble_held (g b : Nat) : (s.trouble g b).held = s.held := rfl
@[simp] theorem State.trouble_lds (g b : Nat) : (s.trouble g b).lds = s.lds := rfl
@[simp] theorem State.trouble_cls (g b : Nat) : (s.trouble g b).cls = s.cls := rfl
@[simp] theorem State.trouble_chans (g b : Nat) : (s.trouble g b).chans = s.chans := rfl
@[simp] theorem State.trouble_dict (g b : Nat) : (s.trouble g b).dict = s.dict := rfl
@[simp] theorem State.trouble_shape (g b : Nat) : (s.trouble g b).shape = s.shape := rfl
@[simp] theorem State.trouble_rate96 (g b : Nat) : (s.trouble g b).rate96 = s.rate96 := rfl
@[simp] theorem State.trouble_straps (g b : Nat) : (s.trouble g b).straps = s.straps := rfl
@[simp] theorem State.trouble_stalled (g b : Nat) : (s.trouble g b).stalled = s.stalled := rfl
@[simp] theorem State.trouble_hostWait (g b : Nat) : (s.trouble g b).hostWait = s.hostWait := rfl
@[simp] theorem State.trouble_linksDown (g b : Nat) : (s.trouble g b).linksDown = s.linksDown := rfl
@[simp] theorem State.trouble_tap (g b : Nat) : (s.trouble g b).tap = s.tap := rfl
/-- Nothing else changes. -/
theorem State.trouble_rest (g b : Nat) : { s.trouble g b with troubles := s.troubles, fresh := s.fresh } = s := rfl

/-! ### clearTags -/

@[simp] theorem State.clearTags_pending (gs : List Nat) : (s.clearTags gs).pending = s.pending := rfl
@[simp] theorem State.clearTags_mem (gs : List Nat) : (s.clearTags gs).mem = s.mem := rfl
@[simp] theorem State.clearTags_poison (gs : List Nat) : (s.clearTags gs).poison = s.poison := rfl
@[simp] theorem State.clearTags_regs (gs : List Nat) : (s.clearTags gs).regs = s.regs := rfl
@[simp] theorem State.clearTags_ctrs (gs : List Nat) : (s.clearTags gs).ctrs = s.ctrs := rfl
@[simp] theorem State.clearTags_cores (gs : List Nat) : (s.clearTags gs).cores = s.cores := rfl
@[simp] theorem State.clearTags_dies (gs : List Nat) : (s.clearTags gs).dies = s.dies := rfl
@[simp] theorem State.clearTags_gens (gs : List Nat) : (s.clearTags gs).gens = s.gens := rfl
@[simp] theorem State.clearTags_dev (gs : List Nat) : (s.clearTags gs).dev = s.dev := rfl
@[simp] theorem State.clearTags_devBack (gs : List Nat) : (s.clearTags gs).devBack = s.devBack := rfl
@[simp] theorem State.clearTags_active (gs : List Nat) : (s.clearTags gs).active = s.active := rfl
@[simp] theorem State.clearTags_fresh (gs : List Nat) : (s.clearTags gs).fresh = s.fresh := rfl
@[simp] theorem State.clearTags_posted (gs : List Nat) : (s.clearTags gs).posted = s.posted := rfl
@[simp] theorem State.clearTags_troubles (gs : List Nat) : (s.clearTags gs).troubles = s.troubles := rfl
@[simp] theorem State.clearTags_resp (gs : List Nat) : (s.clearTags gs).resp = s.resp := rfl
@[simp] theorem State.clearTags_fenced (gs : List Nat) : (s.clearTags gs).fenced = s.fenced := rfl
@[simp] theorem State.clearTags_held (gs : List Nat) : (s.clearTags gs).held = s.held := rfl
@[simp] theorem State.clearTags_lds (gs : List Nat) : (s.clearTags gs).lds = s.lds := rfl
@[simp] theorem State.clearTags_cls (gs : List Nat) : (s.clearTags gs).cls = s.cls := rfl
@[simp] theorem State.clearTags_chans (gs : List Nat) : (s.clearTags gs).chans = s.chans := rfl
@[simp] theorem State.clearTags_dict (gs : List Nat) : (s.clearTags gs).dict = s.dict := rfl
@[simp] theorem State.clearTags_shape (gs : List Nat) : (s.clearTags gs).shape = s.shape := rfl
@[simp] theorem State.clearTags_rate96 (gs : List Nat) : (s.clearTags gs).rate96 = s.rate96 := rfl
@[simp] theorem State.clearTags_straps (gs : List Nat) : (s.clearTags gs).straps = s.straps := rfl
@[simp] theorem State.clearTags_stalled (gs : List Nat) : (s.clearTags gs).stalled = s.stalled := rfl
@[simp] theorem State.clearTags_hostWait (gs : List Nat) : (s.clearTags gs).hostWait = s.hostWait := rfl
@[simp] theorem State.clearTags_linksDown (gs : List Nat) : (s.clearTags gs).linksDown = s.linksDown := rfl
@[simp] theorem State.clearTags_tap (gs : List Nat) : (s.clearTags gs).tap = s.tap := rfl
/-- Nothing else changes. -/
theorem State.clearTags_rest (gs : List Nat) : { s.clearTags gs with tags := s.tags } = s := rfl

/-! ### setTag -/

@[simp] theorem State.setTag_pending (g : Nat) : (s.setTag g).pending = s.pending := rfl
@[simp] theorem State.setTag_mem (g : Nat) : (s.setTag g).mem = s.mem := rfl
@[simp] theorem State.setTag_poison (g : Nat) : (s.setTag g).poison = s.poison := rfl
@[simp] theorem State.setTag_regs (g : Nat) : (s.setTag g).regs = s.regs := rfl
@[simp] theorem State.setTag_ctrs (g : Nat) : (s.setTag g).ctrs = s.ctrs := rfl
@[simp] theorem State.setTag_cores (g : Nat) : (s.setTag g).cores = s.cores := rfl
@[simp] theorem State.setTag_dies (g : Nat) : (s.setTag g).dies = s.dies := rfl
@[simp] theorem State.setTag_gens (g : Nat) : (s.setTag g).gens = s.gens := rfl
@[simp] theorem State.setTag_dev (g : Nat) : (s.setTag g).dev = s.dev := rfl
@[simp] theorem State.setTag_devBack (g : Nat) : (s.setTag g).devBack = s.devBack := rfl
@[simp] theorem State.setTag_active (g : Nat) : (s.setTag g).active = s.active := rfl
@[simp] theorem State.setTag_fresh (g : Nat) : (s.setTag g).fresh = s.fresh := rfl
@[simp] theorem State.setTag_posted (g : Nat) : (s.setTag g).posted = s.posted := rfl
@[simp] theorem State.setTag_troubles (g : Nat) : (s.setTag g).troubles = s.troubles := rfl
@[simp] theorem State.setTag_resp (g : Nat) : (s.setTag g).resp = s.resp := rfl
@[simp] theorem State.setTag_fenced (g : Nat) : (s.setTag g).fenced = s.fenced := rfl
@[simp] theorem State.setTag_held (g : Nat) : (s.setTag g).held = s.held := rfl
@[simp] theorem State.setTag_lds (g : Nat) : (s.setTag g).lds = s.lds := rfl
@[simp] theorem State.setTag_cls (g : Nat) : (s.setTag g).cls = s.cls := rfl
@[simp] theorem State.setTag_chans (g : Nat) : (s.setTag g).chans = s.chans := rfl
@[simp] theorem State.setTag_dict (g : Nat) : (s.setTag g).dict = s.dict := rfl
@[simp] theorem State.setTag_shape (g : Nat) : (s.setTag g).shape = s.shape := rfl
@[simp] theorem State.setTag_rate96 (g : Nat) : (s.setTag g).rate96 = s.rate96 := rfl
@[simp] theorem State.setTag_straps (g : Nat) : (s.setTag g).straps = s.straps := rfl
@[simp] theorem State.setTag_stalled (g : Nat) : (s.setTag g).stalled = s.stalled := rfl
@[simp] theorem State.setTag_hostWait (g : Nat) : (s.setTag g).hostWait = s.hostWait := rfl
@[simp] theorem State.setTag_linksDown (g : Nat) : (s.setTag g).linksDown = s.linksDown := rfl
@[simp] theorem State.setTag_tap (g : Nat) : (s.setTag g).tap = s.tap := rfl
/-- Nothing else changes. -/
theorem State.setTag_rest (g : Nat) : { s.setTag g with tags := s.tags } = s := rfl

/-! ### setLd -/

@[simp] theorem State.setLd_pending (k : Nat) (x : LdS) : (s.setLd k x).pending = s.pending := rfl
@[simp] theorem State.setLd_mem (k : Nat) (x : LdS) : (s.setLd k x).mem = s.mem := rfl
@[simp] theorem State.setLd_tags (k : Nat) (x : LdS) : (s.setLd k x).tags = s.tags := rfl
@[simp] theorem State.setLd_poison (k : Nat) (x : LdS) : (s.setLd k x).poison = s.poison := rfl
@[simp] theorem State.setLd_regs (k : Nat) (x : LdS) : (s.setLd k x).regs = s.regs := rfl
@[simp] theorem State.setLd_ctrs (k : Nat) (x : LdS) : (s.setLd k x).ctrs = s.ctrs := rfl
@[simp] theorem State.setLd_cores (k : Nat) (x : LdS) : (s.setLd k x).cores = s.cores := rfl
@[simp] theorem State.setLd_dies (k : Nat) (x : LdS) : (s.setLd k x).dies = s.dies := rfl
@[simp] theorem State.setLd_gens (k : Nat) (x : LdS) : (s.setLd k x).gens = s.gens := rfl
@[simp] theorem State.setLd_dev (k : Nat) (x : LdS) : (s.setLd k x).dev = s.dev := rfl
@[simp] theorem State.setLd_devBack (k : Nat) (x : LdS) : (s.setLd k x).devBack = s.devBack := rfl
@[simp] theorem State.setLd_active (k : Nat) (x : LdS) : (s.setLd k x).active = s.active := rfl
@[simp] theorem State.setLd_fresh (k : Nat) (x : LdS) : (s.setLd k x).fresh = s.fresh := rfl
@[simp] theorem State.setLd_posted (k : Nat) (x : LdS) : (s.setLd k x).posted = s.posted := rfl
@[simp] theorem State.setLd_troubles (k : Nat) (x : LdS) : (s.setLd k x).troubles = s.troubles := rfl
@[simp] theorem State.setLd_resp (k : Nat) (x : LdS) : (s.setLd k x).resp = s.resp := rfl
@[simp] theorem State.setLd_fenced (k : Nat) (x : LdS) : (s.setLd k x).fenced = s.fenced := rfl
@[simp] theorem State.setLd_held (k : Nat) (x : LdS) : (s.setLd k x).held = s.held := rfl
@[simp] theorem State.setLd_cls (k : Nat) (x : LdS) : (s.setLd k x).cls = s.cls := rfl
@[simp] theorem State.setLd_chans (k : Nat) (x : LdS) : (s.setLd k x).chans = s.chans := rfl
@[simp] theorem State.setLd_dict (k : Nat) (x : LdS) : (s.setLd k x).dict = s.dict := rfl
@[simp] theorem State.setLd_shape (k : Nat) (x : LdS) : (s.setLd k x).shape = s.shape := rfl
@[simp] theorem State.setLd_rate96 (k : Nat) (x : LdS) : (s.setLd k x).rate96 = s.rate96 := rfl
@[simp] theorem State.setLd_straps (k : Nat) (x : LdS) : (s.setLd k x).straps = s.straps := rfl
@[simp] theorem State.setLd_stalled (k : Nat) (x : LdS) : (s.setLd k x).stalled = s.stalled := rfl
@[simp] theorem State.setLd_hostWait (k : Nat) (x : LdS) : (s.setLd k x).hostWait = s.hostWait := rfl
@[simp] theorem State.setLd_linksDown (k : Nat) (x : LdS) : (s.setLd k x).linksDown = s.linksDown := rfl
@[simp] theorem State.setLd_tap (k : Nat) (x : LdS) : (s.setLd k x).tap = s.tap := rfl
/-- Nothing else changes. -/
theorem State.setLd_rest (k : Nat) (x : LdS) : { s.setLd k x with lds := s.lds } = s := rfl

/-! ### setCl -/

@[simp] theorem State.setCl_pending (n k : Nat) (x : ClS) : (s.setCl n k x).pending = s.pending := rfl
@[simp] theorem State.setCl_mem (n k : Nat) (x : ClS) : (s.setCl n k x).mem = s.mem := rfl
@[simp] theorem State.setCl_tags (n k : Nat) (x : ClS) : (s.setCl n k x).tags = s.tags := rfl
@[simp] theorem State.setCl_poison (n k : Nat) (x : ClS) : (s.setCl n k x).poison = s.poison := rfl
@[simp] theorem State.setCl_regs (n k : Nat) (x : ClS) : (s.setCl n k x).regs = s.regs := rfl
@[simp] theorem State.setCl_ctrs (n k : Nat) (x : ClS) : (s.setCl n k x).ctrs = s.ctrs := rfl
@[simp] theorem State.setCl_cores (n k : Nat) (x : ClS) : (s.setCl n k x).cores = s.cores := rfl
@[simp] theorem State.setCl_dies (n k : Nat) (x : ClS) : (s.setCl n k x).dies = s.dies := rfl
@[simp] theorem State.setCl_gens (n k : Nat) (x : ClS) : (s.setCl n k x).gens = s.gens := rfl
@[simp] theorem State.setCl_dev (n k : Nat) (x : ClS) : (s.setCl n k x).dev = s.dev := rfl
@[simp] theorem State.setCl_devBack (n k : Nat) (x : ClS) : (s.setCl n k x).devBack = s.devBack := rfl
@[simp] theorem State.setCl_active (n k : Nat) (x : ClS) : (s.setCl n k x).active = s.active := rfl
@[simp] theorem State.setCl_fresh (n k : Nat) (x : ClS) : (s.setCl n k x).fresh = s.fresh := rfl
@[simp] theorem State.setCl_posted (n k : Nat) (x : ClS) : (s.setCl n k x).posted = s.posted := rfl
@[simp] theorem State.setCl_troubles (n k : Nat) (x : ClS) : (s.setCl n k x).troubles = s.troubles := rfl
@[simp] theorem State.setCl_resp (n k : Nat) (x : ClS) : (s.setCl n k x).resp = s.resp := rfl
@[simp] theorem State.setCl_fenced (n k : Nat) (x : ClS) : (s.setCl n k x).fenced = s.fenced := rfl
@[simp] theorem State.setCl_held (n k : Nat) (x : ClS) : (s.setCl n k x).held = s.held := rfl
@[simp] theorem State.setCl_lds (n k : Nat) (x : ClS) : (s.setCl n k x).lds = s.lds := rfl
@[simp] theorem State.setCl_chans (n k : Nat) (x : ClS) : (s.setCl n k x).chans = s.chans := rfl
@[simp] theorem State.setCl_dict (n k : Nat) (x : ClS) : (s.setCl n k x).dict = s.dict := rfl
@[simp] theorem State.setCl_shape (n k : Nat) (x : ClS) : (s.setCl n k x).shape = s.shape := rfl
@[simp] theorem State.setCl_rate96 (n k : Nat) (x : ClS) : (s.setCl n k x).rate96 = s.rate96 := rfl
@[simp] theorem State.setCl_straps (n k : Nat) (x : ClS) : (s.setCl n k x).straps = s.straps := rfl
@[simp] theorem State.setCl_stalled (n k : Nat) (x : ClS) : (s.setCl n k x).stalled = s.stalled := rfl
@[simp] theorem State.setCl_hostWait (n k : Nat) (x : ClS) : (s.setCl n k x).hostWait = s.hostWait := rfl
@[simp] theorem State.setCl_linksDown (n k : Nat) (x : ClS) : (s.setCl n k x).linksDown = s.linksDown := rfl
@[simp] theorem State.setCl_tap (n k : Nat) (x : ClS) : (s.setCl n k x).tap = s.tap := rfl
/-- Nothing else changes. -/
theorem State.setCl_rest (n k : Nat) (x : ClS) : { s.setCl n k x with cls := s.cls } = s := rfl

/-! ### setComet -/

@[simp] theorem State.setComet_pending (n : Nat) (x : CometS) : (s.setComet n x).pending = s.pending := rfl
@[simp] theorem State.setComet_mem (n : Nat) (x : CometS) : (s.setComet n x).mem = s.mem := rfl
@[simp] theorem State.setComet_tags (n : Nat) (x : CometS) : (s.setComet n x).tags = s.tags := rfl
@[simp] theorem State.setComet_poison (n : Nat) (x : CometS) : (s.setComet n x).poison = s.poison := rfl
@[simp] theorem State.setComet_regs (n : Nat) (x : CometS) : (s.setComet n x).regs = s.regs := rfl
@[simp] theorem State.setComet_ctrs (n : Nat) (x : CometS) : (s.setComet n x).ctrs = s.ctrs := rfl
@[simp] theorem State.setComet_cores (n : Nat) (x : CometS) : (s.setComet n x).cores = s.cores := rfl
@[simp] theorem State.setComet_dies (n : Nat) (x : CometS) : (s.setComet n x).dies = s.dies := rfl
@[simp] theorem State.setComet_gens (n : Nat) (x : CometS) : (s.setComet n x).gens = s.gens := rfl
@[simp] theorem State.setComet_dev (n : Nat) (x : CometS) : (s.setComet n x).dev = s.dev := rfl
@[simp] theorem State.setComet_devBack (n : Nat) (x : CometS) : (s.setComet n x).devBack = s.devBack := rfl
@[simp] theorem State.setComet_active (n : Nat) (x : CometS) : (s.setComet n x).active = s.active := rfl
@[simp] theorem State.setComet_fresh (n : Nat) (x : CometS) : (s.setComet n x).fresh = s.fresh := rfl
@[simp] theorem State.setComet_posted (n : Nat) (x : CometS) : (s.setComet n x).posted = s.posted := rfl
@[simp] theorem State.setComet_troubles (n : Nat) (x : CometS) : (s.setComet n x).troubles = s.troubles := rfl
@[simp] theorem State.setComet_resp (n : Nat) (x : CometS) : (s.setComet n x).resp = s.resp := rfl
@[simp] theorem State.setComet_fenced (n : Nat) (x : CometS) : (s.setComet n x).fenced = s.fenced := rfl
@[simp] theorem State.setComet_held (n : Nat) (x : CometS) : (s.setComet n x).held = s.held := rfl
@[simp] theorem State.setComet_lds (n : Nat) (x : CometS) : (s.setComet n x).lds = s.lds := rfl
@[simp] theorem State.setComet_cls (n : Nat) (x : CometS) : (s.setComet n x).cls = s.cls := rfl
@[simp] theorem State.setComet_chans (n : Nat) (x : CometS) : (s.setComet n x).chans = s.chans := rfl
@[simp] theorem State.setComet_dict (n : Nat) (x : CometS) : (s.setComet n x).dict = s.dict := rfl
@[simp] theorem State.setComet_shape (n : Nat) (x : CometS) : (s.setComet n x).shape = s.shape := rfl
@[simp] theorem State.setComet_rate96 (n : Nat) (x : CometS) : (s.setComet n x).rate96 = s.rate96 := rfl
@[simp] theorem State.setComet_straps (n : Nat) (x : CometS) : (s.setComet n x).straps = s.straps := rfl
@[simp] theorem State.setComet_stalled (n : Nat) (x : CometS) : (s.setComet n x).stalled = s.stalled := rfl
@[simp] theorem State.setComet_hostWait (n : Nat) (x : CometS) : (s.setComet n x).hostWait = s.hostWait := rfl
@[simp] theorem State.setComet_linksDown (n : Nat) (x : CometS) : (s.setComet n x).linksDown = s.linksDown := rfl
@[simp] theorem State.setComet_tap (n : Nat) (x : CometS) : (s.setComet n x).tap = s.tap := rfl
/-- Nothing else changes. -/
theorem State.setComet_rest (n : Nat) (x : CometS) : { s.setComet n x with comets := s.comets } = s := rfl

/-! ### setChan -/

@[simp] theorem State.setChan_pending (e c : Nat) (x : ChanS) : (s.setChan e c x).pending = s.pending := rfl
@[simp] theorem State.setChan_mem (e c : Nat) (x : ChanS) : (s.setChan e c x).mem = s.mem := rfl
@[simp] theorem State.setChan_tags (e c : Nat) (x : ChanS) : (s.setChan e c x).tags = s.tags := rfl
@[simp] theorem State.setChan_poison (e c : Nat) (x : ChanS) : (s.setChan e c x).poison = s.poison := rfl
@[simp] theorem State.setChan_regs (e c : Nat) (x : ChanS) : (s.setChan e c x).regs = s.regs := rfl
@[simp] theorem State.setChan_ctrs (e c : Nat) (x : ChanS) : (s.setChan e c x).ctrs = s.ctrs := rfl
@[simp] theorem State.setChan_cores (e c : Nat) (x : ChanS) : (s.setChan e c x).cores = s.cores := rfl
@[simp] theorem State.setChan_dies (e c : Nat) (x : ChanS) : (s.setChan e c x).dies = s.dies := rfl
@[simp] theorem State.setChan_gens (e c : Nat) (x : ChanS) : (s.setChan e c x).gens = s.gens := rfl
@[simp] theorem State.setChan_dev (e c : Nat) (x : ChanS) : (s.setChan e c x).dev = s.dev := rfl
@[simp] theorem State.setChan_devBack (e c : Nat) (x : ChanS) : (s.setChan e c x).devBack = s.devBack := rfl
@[simp] theorem State.setChan_active (e c : Nat) (x : ChanS) : (s.setChan e c x).active = s.active := rfl
@[simp] theorem State.setChan_fresh (e c : Nat) (x : ChanS) : (s.setChan e c x).fresh = s.fresh := rfl
@[simp] theorem State.setChan_posted (e c : Nat) (x : ChanS) : (s.setChan e c x).posted = s.posted := rfl
@[simp] theorem State.setChan_troubles (e c : Nat) (x : ChanS) : (s.setChan e c x).troubles = s.troubles := rfl
@[simp] theorem State.setChan_resp (e c : Nat) (x : ChanS) : (s.setChan e c x).resp = s.resp := rfl
@[simp] theorem State.setChan_fenced (e c : Nat) (x : ChanS) : (s.setChan e c x).fenced = s.fenced := rfl
@[simp] theorem State.setChan_held (e c : Nat) (x : ChanS) : (s.setChan e c x).held = s.held := rfl
@[simp] theorem State.setChan_lds (e c : Nat) (x : ChanS) : (s.setChan e c x).lds = s.lds := rfl
@[simp] theorem State.setChan_cls (e c : Nat) (x : ChanS) : (s.setChan e c x).cls = s.cls := rfl
@[simp] theorem State.setChan_dict (e c : Nat) (x : ChanS) : (s.setChan e c x).dict = s.dict := rfl
@[simp] theorem State.setChan_shape (e c : Nat) (x : ChanS) : (s.setChan e c x).shape = s.shape := rfl
@[simp] theorem State.setChan_rate96 (e c : Nat) (x : ChanS) : (s.setChan e c x).rate96 = s.rate96 := rfl
@[simp] theorem State.setChan_straps (e c : Nat) (x : ChanS) : (s.setChan e c x).straps = s.straps := rfl
@[simp] theorem State.setChan_stalled (e c : Nat) (x : ChanS) : (s.setChan e c x).stalled = s.stalled := rfl
@[simp] theorem State.setChan_hostWait (e c : Nat) (x : ChanS) : (s.setChan e c x).hostWait = s.hostWait := rfl
@[simp] theorem State.setChan_linksDown (e c : Nat) (x : ChanS) : (s.setChan e c x).linksDown = s.linksDown := rfl
@[simp] theorem State.setChan_tap (e c : Nat) (x : ChanS) : (s.setChan e c x).tap = s.tap := rfl
/-- Nothing else changes. -/
theorem State.setChan_rest (e c : Nat) (x : ChanS) : { s.setChan e c x with chans := s.chans } = s := rfl

/-! ### setPort -/

@[simp] theorem State.setPort_pending (p : Nat) (x : PortS) : (s.setPort p x).pending = s.pending := rfl
@[simp] theorem State.setPort_mem (p : Nat) (x : PortS) : (s.setPort p x).mem = s.mem := rfl
@[simp] theorem State.setPort_tags (p : Nat) (x : PortS) : (s.setPort p x).tags = s.tags := rfl
@[simp] theorem State.setPort_poison (p : Nat) (x : PortS) : (s.setPort p x).poison = s.poison := rfl
@[simp] theorem State.setPort_regs (p : Nat) (x : PortS) : (s.setPort p x).regs = s.regs := rfl
@[simp] theorem State.setPort_ctrs (p : Nat) (x : PortS) : (s.setPort p x).ctrs = s.ctrs := rfl
@[simp] theorem State.setPort_cores (p : Nat) (x : PortS) : (s.setPort p x).cores = s.cores := rfl
@[simp] theorem State.setPort_dies (p : Nat) (x : PortS) : (s.setPort p x).dies = s.dies := rfl
@[simp] theorem State.setPort_gens (p : Nat) (x : PortS) : (s.setPort p x).gens = s.gens := rfl
@[simp] theorem State.setPort_dev (p : Nat) (x : PortS) : (s.setPort p x).dev = s.dev := rfl
@[simp] theorem State.setPort_devBack (p : Nat) (x : PortS) : (s.setPort p x).devBack = s.devBack := rfl
@[simp] theorem State.setPort_active (p : Nat) (x : PortS) : (s.setPort p x).active = s.active := rfl
@[simp] theorem State.setPort_fresh (p : Nat) (x : PortS) : (s.setPort p x).fresh = s.fresh := rfl
@[simp] theorem State.setPort_posted (p : Nat) (x : PortS) : (s.setPort p x).posted = s.posted := rfl
@[simp] theorem State.setPort_troubles (p : Nat) (x : PortS) : (s.setPort p x).troubles = s.troubles := rfl
@[simp] theorem State.setPort_resp (p : Nat) (x : PortS) : (s.setPort p x).resp = s.resp := rfl
@[simp] theorem State.setPort_fenced (p : Nat) (x : PortS) : (s.setPort p x).fenced = s.fenced := rfl
@[simp] theorem State.setPort_held (p : Nat) (x : PortS) : (s.setPort p x).held = s.held := rfl
@[simp] theorem State.setPort_lds (p : Nat) (x : PortS) : (s.setPort p x).lds = s.lds := rfl
@[simp] theorem State.setPort_cls (p : Nat) (x : PortS) : (s.setPort p x).cls = s.cls := rfl
@[simp] theorem State.setPort_chans (p : Nat) (x : PortS) : (s.setPort p x).chans = s.chans := rfl
@[simp] theorem State.setPort_dict (p : Nat) (x : PortS) : (s.setPort p x).dict = s.dict := rfl
@[simp] theorem State.setPort_shape (p : Nat) (x : PortS) : (s.setPort p x).shape = s.shape := rfl
@[simp] theorem State.setPort_rate96 (p : Nat) (x : PortS) : (s.setPort p x).rate96 = s.rate96 := rfl
@[simp] theorem State.setPort_straps (p : Nat) (x : PortS) : (s.setPort p x).straps = s.straps := rfl
@[simp] theorem State.setPort_stalled (p : Nat) (x : PortS) : (s.setPort p x).stalled = s.stalled := rfl
@[simp] theorem State.setPort_hostWait (p : Nat) (x : PortS) : (s.setPort p x).hostWait = s.hostWait := rfl
@[simp] theorem State.setPort_linksDown (p : Nat) (x : PortS) : (s.setPort p x).linksDown = s.linksDown := rfl
@[simp] theorem State.setPort_tap (p : Nat) (x : PortS) : (s.setPort p x).tap = s.tap := rfl
/-- Nothing else changes. -/
theorem State.setPort_rest (p : Nat) (x : PortS) : { s.setPort p x with ports := s.ports } = s := rfl

/-! ### setIng -/

@[simp] theorem State.setIng_pending (h n : Nat) (x : IngS) : (s.setIng h n x).pending = s.pending := rfl
@[simp] theorem State.setIng_mem (h n : Nat) (x : IngS) : (s.setIng h n x).mem = s.mem := rfl
@[simp] theorem State.setIng_tags (h n : Nat) (x : IngS) : (s.setIng h n x).tags = s.tags := rfl
@[simp] theorem State.setIng_poison (h n : Nat) (x : IngS) : (s.setIng h n x).poison = s.poison := rfl
@[simp] theorem State.setIng_regs (h n : Nat) (x : IngS) : (s.setIng h n x).regs = s.regs := rfl
@[simp] theorem State.setIng_ctrs (h n : Nat) (x : IngS) : (s.setIng h n x).ctrs = s.ctrs := rfl
@[simp] theorem State.setIng_cores (h n : Nat) (x : IngS) : (s.setIng h n x).cores = s.cores := rfl
@[simp] theorem State.setIng_dies (h n : Nat) (x : IngS) : (s.setIng h n x).dies = s.dies := rfl
@[simp] theorem State.setIng_gens (h n : Nat) (x : IngS) : (s.setIng h n x).gens = s.gens := rfl
@[simp] theorem State.setIng_dev (h n : Nat) (x : IngS) : (s.setIng h n x).dev = s.dev := rfl
@[simp] theorem State.setIng_devBack (h n : Nat) (x : IngS) : (s.setIng h n x).devBack = s.devBack := rfl
@[simp] theorem State.setIng_active (h n : Nat) (x : IngS) : (s.setIng h n x).active = s.active := rfl
@[simp] theorem State.setIng_fresh (h n : Nat) (x : IngS) : (s.setIng h n x).fresh = s.fresh := rfl
@[simp] theorem State.setIng_posted (h n : Nat) (x : IngS) : (s.setIng h n x).posted = s.posted := rfl
@[simp] theorem State.setIng_troubles (h n : Nat) (x : IngS) : (s.setIng h n x).troubles = s.troubles := rfl
@[simp] theorem State.setIng_resp (h n : Nat) (x : IngS) : (s.setIng h n x).resp = s.resp := rfl
@[simp] theorem State.setIng_fenced (h n : Nat) (x : IngS) : (s.setIng h n x).fenced = s.fenced := rfl
@[simp] theorem State.setIng_held (h n : Nat) (x : IngS) : (s.setIng h n x).held = s.held := rfl
@[simp] theorem State.setIng_lds (h n : Nat) (x : IngS) : (s.setIng h n x).lds = s.lds := rfl
@[simp] theorem State.setIng_cls (h n : Nat) (x : IngS) : (s.setIng h n x).cls = s.cls := rfl
@[simp] theorem State.setIng_chans (h n : Nat) (x : IngS) : (s.setIng h n x).chans = s.chans := rfl
@[simp] theorem State.setIng_dict (h n : Nat) (x : IngS) : (s.setIng h n x).dict = s.dict := rfl
@[simp] theorem State.setIng_shape (h n : Nat) (x : IngS) : (s.setIng h n x).shape = s.shape := rfl
@[simp] theorem State.setIng_rate96 (h n : Nat) (x : IngS) : (s.setIng h n x).rate96 = s.rate96 := rfl
@[simp] theorem State.setIng_straps (h n : Nat) (x : IngS) : (s.setIng h n x).straps = s.straps := rfl
@[simp] theorem State.setIng_stalled (h n : Nat) (x : IngS) : (s.setIng h n x).stalled = s.stalled := rfl
@[simp] theorem State.setIng_hostWait (h n : Nat) (x : IngS) : (s.setIng h n x).hostWait = s.hostWait := rfl
@[simp] theorem State.setIng_linksDown (h n : Nat) (x : IngS) : (s.setIng h n x).linksDown = s.linksDown := rfl
@[simp] theorem State.setIng_tap (h n : Nat) (x : IngS) : (s.setIng h n x).tap = s.tap := rfl
/-- Nothing else changes. -/
theorem State.setIng_rest (h n : Nat) (x : IngS) : { s.setIng h n x with ing := s.ing } = s := rfl

/-! ### setLink -/

@[simp] theorem State.setLink_pending (l : Nat) (up : Bool) (x : LinkS) : (s.setLink l up x).pending = s.pending := rfl
@[simp] theorem State.setLink_mem (l : Nat) (up : Bool) (x : LinkS) : (s.setLink l up x).mem = s.mem := rfl
@[simp] theorem State.setLink_tags (l : Nat) (up : Bool) (x : LinkS) : (s.setLink l up x).tags = s.tags := rfl
@[simp] theorem State.setLink_poison (l : Nat) (up : Bool) (x : LinkS) : (s.setLink l up x).poison = s.poison := rfl
@[simp] theorem State.setLink_regs (l : Nat) (up : Bool) (x : LinkS) : (s.setLink l up x).regs = s.regs := rfl
@[simp] theorem State.setLink_ctrs (l : Nat) (up : Bool) (x : LinkS) : (s.setLink l up x).ctrs = s.ctrs := rfl
@[simp] theorem State.setLink_cores (l : Nat) (up : Bool) (x : LinkS) : (s.setLink l up x).cores = s.cores := rfl
@[simp] theorem State.setLink_dies (l : Nat) (up : Bool) (x : LinkS) : (s.setLink l up x).dies = s.dies := rfl
@[simp] theorem State.setLink_gens (l : Nat) (up : Bool) (x : LinkS) : (s.setLink l up x).gens = s.gens := rfl
@[simp] theorem State.setLink_dev (l : Nat) (up : Bool) (x : LinkS) : (s.setLink l up x).dev = s.dev := rfl
@[simp] theorem State.setLink_devBack (l : Nat) (up : Bool) (x : LinkS) : (s.setLink l up x).devBack = s.devBack := rfl
@[simp] theorem State.setLink_active (l : Nat) (up : Bool) (x : LinkS) : (s.setLink l up x).active = s.active := rfl
@[simp] theorem State.setLink_fresh (l : Nat) (up : Bool) (x : LinkS) : (s.setLink l up x).fresh = s.fresh := rfl
@[simp] theorem State.setLink_posted (l : Nat) (up : Bool) (x : LinkS) : (s.setLink l up x).posted = s.posted := rfl
@[simp] theorem State.setLink_troubles (l : Nat) (up : Bool) (x : LinkS) : (s.setLink l up x).troubles = s.troubles := rfl
@[simp] theorem State.setLink_resp (l : Nat) (up : Bool) (x : LinkS) : (s.setLink l up x).resp = s.resp := rfl
@[simp] theorem State.setLink_fenced (l : Nat) (up : Bool) (x : LinkS) : (s.setLink l up x).fenced = s.fenced := rfl
@[simp] theorem State.setLink_held (l : Nat) (up : Bool) (x : LinkS) : (s.setLink l up x).held = s.held := rfl
@[simp] theorem State.setLink_lds (l : Nat) (up : Bool) (x : LinkS) : (s.setLink l up x).lds = s.lds := rfl
@[simp] theorem State.setLink_cls (l : Nat) (up : Bool) (x : LinkS) : (s.setLink l up x).cls = s.cls := rfl
@[simp] theorem State.setLink_chans (l : Nat) (up : Bool) (x : LinkS) : (s.setLink l up x).chans = s.chans := rfl
@[simp] theorem State.setLink_dict (l : Nat) (up : Bool) (x : LinkS) : (s.setLink l up x).dict = s.dict := rfl
@[simp] theorem State.setLink_shape (l : Nat) (up : Bool) (x : LinkS) : (s.setLink l up x).shape = s.shape := rfl
@[simp] theorem State.setLink_rate96 (l : Nat) (up : Bool) (x : LinkS) : (s.setLink l up x).rate96 = s.rate96 := rfl
@[simp] theorem State.setLink_straps (l : Nat) (up : Bool) (x : LinkS) : (s.setLink l up x).straps = s.straps := rfl
@[simp] theorem State.setLink_stalled (l : Nat) (up : Bool) (x : LinkS) : (s.setLink l up x).stalled = s.stalled := rfl
@[simp] theorem State.setLink_hostWait (l : Nat) (up : Bool) (x : LinkS) : (s.setLink l up x).hostWait = s.hostWait := rfl
@[simp] theorem State.setLink_linksDown (l : Nat) (up : Bool) (x : LinkS) : (s.setLink l up x).linksDown = s.linksDown := rfl
@[simp] theorem State.setLink_tap (l : Nat) (up : Bool) (x : LinkS) : (s.setLink l up x).tap = s.tap := rfl
/-- Nothing else changes. -/
theorem State.setLink_rest (l : Nat) (up : Bool) (x : LinkS) : { s.setLink l up x with links := s.links } = s := rfl

/-! ### setXfer -/

@[simp] theorem State.setXfer_pending (q : Nat) (x : Option Xfer) : (s.setXfer q x).pending = s.pending := rfl
@[simp] theorem State.setXfer_mem (q : Nat) (x : Option Xfer) : (s.setXfer q x).mem = s.mem := rfl
@[simp] theorem State.setXfer_tags (q : Nat) (x : Option Xfer) : (s.setXfer q x).tags = s.tags := rfl
@[simp] theorem State.setXfer_poison (q : Nat) (x : Option Xfer) : (s.setXfer q x).poison = s.poison := rfl
@[simp] theorem State.setXfer_regs (q : Nat) (x : Option Xfer) : (s.setXfer q x).regs = s.regs := rfl
@[simp] theorem State.setXfer_ctrs (q : Nat) (x : Option Xfer) : (s.setXfer q x).ctrs = s.ctrs := rfl
@[simp] theorem State.setXfer_cores (q : Nat) (x : Option Xfer) : (s.setXfer q x).cores = s.cores := rfl
@[simp] theorem State.setXfer_dies (q : Nat) (x : Option Xfer) : (s.setXfer q x).dies = s.dies := rfl
@[simp] theorem State.setXfer_gens (q : Nat) (x : Option Xfer) : (s.setXfer q x).gens = s.gens := rfl
@[simp] theorem State.setXfer_dev (q : Nat) (x : Option Xfer) : (s.setXfer q x).dev = s.dev := rfl
@[simp] theorem State.setXfer_devBack (q : Nat) (x : Option Xfer) : (s.setXfer q x).devBack = s.devBack := rfl
@[simp] theorem State.setXfer_active (q : Nat) (x : Option Xfer) : (s.setXfer q x).active = s.active := rfl
@[simp] theorem State.setXfer_fresh (q : Nat) (x : Option Xfer) : (s.setXfer q x).fresh = s.fresh := rfl
@[simp] theorem State.setXfer_posted (q : Nat) (x : Option Xfer) : (s.setXfer q x).posted = s.posted := rfl
@[simp] theorem State.setXfer_troubles (q : Nat) (x : Option Xfer) : (s.setXfer q x).troubles = s.troubles := rfl
@[simp] theorem State.setXfer_resp (q : Nat) (x : Option Xfer) : (s.setXfer q x).resp = s.resp := rfl
@[simp] theorem State.setXfer_fenced (q : Nat) (x : Option Xfer) : (s.setXfer q x).fenced = s.fenced := rfl
@[simp] theorem State.setXfer_held (q : Nat) (x : Option Xfer) : (s.setXfer q x).held = s.held := rfl
@[simp] theorem State.setXfer_lds (q : Nat) (x : Option Xfer) : (s.setXfer q x).lds = s.lds := rfl
@[simp] theorem State.setXfer_cls (q : Nat) (x : Option Xfer) : (s.setXfer q x).cls = s.cls := rfl
@[simp] theorem State.setXfer_chans (q : Nat) (x : Option Xfer) : (s.setXfer q x).chans = s.chans := rfl
@[simp] theorem State.setXfer_dict (q : Nat) (x : Option Xfer) : (s.setXfer q x).dict = s.dict := rfl
@[simp] theorem State.setXfer_shape (q : Nat) (x : Option Xfer) : (s.setXfer q x).shape = s.shape := rfl
@[simp] theorem State.setXfer_rate96 (q : Nat) (x : Option Xfer) : (s.setXfer q x).rate96 = s.rate96 := rfl
@[simp] theorem State.setXfer_straps (q : Nat) (x : Option Xfer) : (s.setXfer q x).straps = s.straps := rfl
@[simp] theorem State.setXfer_stalled (q : Nat) (x : Option Xfer) : (s.setXfer q x).stalled = s.stalled := rfl
@[simp] theorem State.setXfer_hostWait (q : Nat) (x : Option Xfer) : (s.setXfer q x).hostWait = s.hostWait := rfl
@[simp] theorem State.setXfer_linksDown (q : Nat) (x : Option Xfer) : (s.setXfer q x).linksDown = s.linksDown := rfl
@[simp] theorem State.setXfer_tap (q : Nat) (x : Option Xfer) : (s.setXfer q x).tap = s.tap := rfl
/-- Nothing else changes. -/
theorem State.setXfer_rest (q : Nat) (x : Option Xfer) : { s.setXfer q x with xfers := s.xfers } = s := rfl

/-! ### setPair -/

@[simp] theorem State.setPair_pending (n p : Nat) (x : PairS) : (s.setPair n p x).pending = s.pending := rfl
@[simp] theorem State.setPair_mem (n p : Nat) (x : PairS) : (s.setPair n p x).mem = s.mem := rfl
@[simp] theorem State.setPair_tags (n p : Nat) (x : PairS) : (s.setPair n p x).tags = s.tags := rfl
@[simp] theorem State.setPair_poison (n p : Nat) (x : PairS) : (s.setPair n p x).poison = s.poison := rfl
@[simp] theorem State.setPair_regs (n p : Nat) (x : PairS) : (s.setPair n p x).regs = s.regs := rfl
@[simp] theorem State.setPair_ctrs (n p : Nat) (x : PairS) : (s.setPair n p x).ctrs = s.ctrs := rfl
@[simp] theorem State.setPair_cores (n p : Nat) (x : PairS) : (s.setPair n p x).cores = s.cores := rfl
@[simp] theorem State.setPair_dies (n p : Nat) (x : PairS) : (s.setPair n p x).dies = s.dies := rfl
@[simp] theorem State.setPair_gens (n p : Nat) (x : PairS) : (s.setPair n p x).gens = s.gens := rfl
@[simp] theorem State.setPair_dev (n p : Nat) (x : PairS) : (s.setPair n p x).dev = s.dev := rfl
@[simp] theorem State.setPair_devBack (n p : Nat) (x : PairS) : (s.setPair n p x).devBack = s.devBack := rfl
@[simp] theorem State.setPair_active (n p : Nat) (x : PairS) : (s.setPair n p x).active = s.active := rfl
@[simp] theorem State.setPair_fresh (n p : Nat) (x : PairS) : (s.setPair n p x).fresh = s.fresh := rfl
@[simp] theorem State.setPair_posted (n p : Nat) (x : PairS) : (s.setPair n p x).posted = s.posted := rfl
@[simp] theorem State.setPair_troubles (n p : Nat) (x : PairS) : (s.setPair n p x).troubles = s.troubles := rfl
@[simp] theorem State.setPair_resp (n p : Nat) (x : PairS) : (s.setPair n p x).resp = s.resp := rfl
@[simp] theorem State.setPair_fenced (n p : Nat) (x : PairS) : (s.setPair n p x).fenced = s.fenced := rfl
@[simp] theorem State.setPair_held (n p : Nat) (x : PairS) : (s.setPair n p x).held = s.held := rfl
@[simp] theorem State.setPair_lds (n p : Nat) (x : PairS) : (s.setPair n p x).lds = s.lds := rfl
@[simp] theorem State.setPair_cls (n p : Nat) (x : PairS) : (s.setPair n p x).cls = s.cls := rfl
@[simp] theorem State.setPair_chans (n p : Nat) (x : PairS) : (s.setPair n p x).chans = s.chans := rfl
@[simp] theorem State.setPair_dict (n p : Nat) (x : PairS) : (s.setPair n p x).dict = s.dict := rfl
@[simp] theorem State.setPair_shape (n p : Nat) (x : PairS) : (s.setPair n p x).shape = s.shape := rfl
@[simp] theorem State.setPair_rate96 (n p : Nat) (x : PairS) : (s.setPair n p x).rate96 = s.rate96 := rfl
@[simp] theorem State.setPair_straps (n p : Nat) (x : PairS) : (s.setPair n p x).straps = s.straps := rfl
@[simp] theorem State.setPair_stalled (n p : Nat) (x : PairS) : (s.setPair n p x).stalled = s.stalled := rfl
@[simp] theorem State.setPair_hostWait (n p : Nat) (x : PairS) : (s.setPair n p x).hostWait = s.hostWait := rfl
@[simp] theorem State.setPair_linksDown (n p : Nat) (x : PairS) : (s.setPair n p x).linksDown = s.linksDown := rfl
@[simp] theorem State.setPair_tap (n p : Nat) (x : PairS) : (s.setPair n p x).tap = s.tap := rfl
/-- Nothing else changes. -/
theorem State.setPair_rest (n p : Nat) (x : PairS) : { s.setPair n p x with pairS := s.pairS } = s := rfl

/-! ### setLaw -/

@[simp] theorem State.setLaw_pending (n k : Nat) (x : LawS) : (s.setLaw n k x).pending = s.pending := rfl
@[simp] theorem State.setLaw_mem (n k : Nat) (x : LawS) : (s.setLaw n k x).mem = s.mem := rfl
@[simp] theorem State.setLaw_tags (n k : Nat) (x : LawS) : (s.setLaw n k x).tags = s.tags := rfl
@[simp] theorem State.setLaw_poison (n k : Nat) (x : LawS) : (s.setLaw n k x).poison = s.poison := rfl
@[simp] theorem State.setLaw_regs (n k : Nat) (x : LawS) : (s.setLaw n k x).regs = s.regs := rfl
@[simp] theorem State.setLaw_ctrs (n k : Nat) (x : LawS) : (s.setLaw n k x).ctrs = s.ctrs := rfl
@[simp] theorem State.setLaw_cores (n k : Nat) (x : LawS) : (s.setLaw n k x).cores = s.cores := rfl
@[simp] theorem State.setLaw_dies (n k : Nat) (x : LawS) : (s.setLaw n k x).dies = s.dies := rfl
@[simp] theorem State.setLaw_gens (n k : Nat) (x : LawS) : (s.setLaw n k x).gens = s.gens := rfl
@[simp] theorem State.setLaw_dev (n k : Nat) (x : LawS) : (s.setLaw n k x).dev = s.dev := rfl
@[simp] theorem State.setLaw_devBack (n k : Nat) (x : LawS) : (s.setLaw n k x).devBack = s.devBack := rfl
@[simp] theorem State.setLaw_active (n k : Nat) (x : LawS) : (s.setLaw n k x).active = s.active := rfl
@[simp] theorem State.setLaw_fresh (n k : Nat) (x : LawS) : (s.setLaw n k x).fresh = s.fresh := rfl
@[simp] theorem State.setLaw_posted (n k : Nat) (x : LawS) : (s.setLaw n k x).posted = s.posted := rfl
@[simp] theorem State.setLaw_troubles (n k : Nat) (x : LawS) : (s.setLaw n k x).troubles = s.troubles := rfl
@[simp] theorem State.setLaw_resp (n k : Nat) (x : LawS) : (s.setLaw n k x).resp = s.resp := rfl
@[simp] theorem State.setLaw_fenced (n k : Nat) (x : LawS) : (s.setLaw n k x).fenced = s.fenced := rfl
@[simp] theorem State.setLaw_held (n k : Nat) (x : LawS) : (s.setLaw n k x).held = s.held := rfl
@[simp] theorem State.setLaw_lds (n k : Nat) (x : LawS) : (s.setLaw n k x).lds = s.lds := rfl
@[simp] theorem State.setLaw_cls (n k : Nat) (x : LawS) : (s.setLaw n k x).cls = s.cls := rfl
@[simp] theorem State.setLaw_chans (n k : Nat) (x : LawS) : (s.setLaw n k x).chans = s.chans := rfl
@[simp] theorem State.setLaw_dict (n k : Nat) (x : LawS) : (s.setLaw n k x).dict = s.dict := rfl
@[simp] theorem State.setLaw_shape (n k : Nat) (x : LawS) : (s.setLaw n k x).shape = s.shape := rfl
@[simp] theorem State.setLaw_rate96 (n k : Nat) (x : LawS) : (s.setLaw n k x).rate96 = s.rate96 := rfl
@[simp] theorem State.setLaw_straps (n k : Nat) (x : LawS) : (s.setLaw n k x).straps = s.straps := rfl
@[simp] theorem State.setLaw_stalled (n k : Nat) (x : LawS) : (s.setLaw n k x).stalled = s.stalled := rfl
@[simp] theorem State.setLaw_hostWait (n k : Nat) (x : LawS) : (s.setLaw n k x).hostWait = s.hostWait := rfl
@[simp] theorem State.setLaw_linksDown (n k : Nat) (x : LawS) : (s.setLaw n k x).linksDown = s.linksDown := rfl
@[simp] theorem State.setLaw_tap (n k : Nat) (x : LawS) : (s.setLaw n k x).tap = s.tap := rfl
/-- Nothing else changes. -/
theorem State.setLaw_rest (n k : Nat) (x : LawS) : { s.setLaw n k x with lawS := s.lawS } = s := rfl

/-! ### dSet -/

@[simp] theorem State.dSet_pending (key : Nat) (v : List Byte) : (s.dSet key v).pending = s.pending := rfl
@[simp] theorem State.dSet_mem (key : Nat) (v : List Byte) : (s.dSet key v).mem = s.mem := rfl
@[simp] theorem State.dSet_tags (key : Nat) (v : List Byte) : (s.dSet key v).tags = s.tags := rfl
@[simp] theorem State.dSet_poison (key : Nat) (v : List Byte) : (s.dSet key v).poison = s.poison := rfl
@[simp] theorem State.dSet_regs (key : Nat) (v : List Byte) : (s.dSet key v).regs = s.regs := rfl
@[simp] theorem State.dSet_ctrs (key : Nat) (v : List Byte) : (s.dSet key v).ctrs = s.ctrs := rfl
@[simp] theorem State.dSet_cores (key : Nat) (v : List Byte) : (s.dSet key v).cores = s.cores := rfl
@[simp] theorem State.dSet_dies (key : Nat) (v : List Byte) : (s.dSet key v).dies = s.dies := rfl
@[simp] theorem State.dSet_gens (key : Nat) (v : List Byte) : (s.dSet key v).gens = s.gens := rfl
@[simp] theorem State.dSet_dev (key : Nat) (v : List Byte) : (s.dSet key v).dev = s.dev := rfl
@[simp] theorem State.dSet_devBack (key : Nat) (v : List Byte) : (s.dSet key v).devBack = s.devBack := rfl
@[simp] theorem State.dSet_active (key : Nat) (v : List Byte) : (s.dSet key v).active = s.active := rfl
@[simp] theorem State.dSet_fresh (key : Nat) (v : List Byte) : (s.dSet key v).fresh = s.fresh := rfl
@[simp] theorem State.dSet_posted (key : Nat) (v : List Byte) : (s.dSet key v).posted = s.posted := rfl
@[simp] theorem State.dSet_troubles (key : Nat) (v : List Byte) : (s.dSet key v).troubles = s.troubles := rfl
@[simp] theorem State.dSet_resp (key : Nat) (v : List Byte) : (s.dSet key v).resp = s.resp := rfl
@[simp] theorem State.dSet_fenced (key : Nat) (v : List Byte) : (s.dSet key v).fenced = s.fenced := rfl
@[simp] theorem State.dSet_held (key : Nat) (v : List Byte) : (s.dSet key v).held = s.held := rfl
@[simp] theorem State.dSet_lds (key : Nat) (v : List Byte) : (s.dSet key v).lds = s.lds := rfl
@[simp] theorem State.dSet_cls (key : Nat) (v : List Byte) : (s.dSet key v).cls = s.cls := rfl
@[simp] theorem State.dSet_chans (key : Nat) (v : List Byte) : (s.dSet key v).chans = s.chans := rfl
@[simp] theorem State.dSet_shape (key : Nat) (v : List Byte) : (s.dSet key v).shape = s.shape := rfl
@[simp] theorem State.dSet_rate96 (key : Nat) (v : List Byte) : (s.dSet key v).rate96 = s.rate96 := rfl
@[simp] theorem State.dSet_straps (key : Nat) (v : List Byte) : (s.dSet key v).straps = s.straps := rfl
@[simp] theorem State.dSet_stalled (key : Nat) (v : List Byte) : (s.dSet key v).stalled = s.stalled := rfl
@[simp] theorem State.dSet_hostWait (key : Nat) (v : List Byte) : (s.dSet key v).hostWait = s.hostWait := rfl
@[simp] theorem State.dSet_linksDown (key : Nat) (v : List Byte) : (s.dSet key v).linksDown = s.linksDown := rfl
@[simp] theorem State.dSet_tap (key : Nat) (v : List Byte) : (s.dSet key v).tap = s.tap := rfl
/-- Nothing else changes. -/
theorem State.dSet_rest (key : Nat) (v : List Byte) : { s.dSet key v with dict := s.dict } = s := rfl

/-! ### setSlotS -/

@[simp] theorem State.setSlotS_pending (n k o : Nat) (x : SlotS) : (s.setSlotS n k o x).pending = s.pending := rfl
@[simp] theorem State.setSlotS_mem (n k o : Nat) (x : SlotS) : (s.setSlotS n k o x).mem = s.mem := rfl
@[simp] theorem State.setSlotS_tags (n k o : Nat) (x : SlotS) : (s.setSlotS n k o x).tags = s.tags := rfl
@[simp] theorem State.setSlotS_poison (n k o : Nat) (x : SlotS) : (s.setSlotS n k o x).poison = s.poison := rfl
@[simp] theorem State.setSlotS_regs (n k o : Nat) (x : SlotS) : (s.setSlotS n k o x).regs = s.regs := rfl
@[simp] theorem State.setSlotS_ctrs (n k o : Nat) (x : SlotS) : (s.setSlotS n k o x).ctrs = s.ctrs := rfl
@[simp] theorem State.setSlotS_cores (n k o : Nat) (x : SlotS) : (s.setSlotS n k o x).cores = s.cores := rfl
@[simp] theorem State.setSlotS_dies (n k o : Nat) (x : SlotS) : (s.setSlotS n k o x).dies = s.dies := rfl
@[simp] theorem State.setSlotS_gens (n k o : Nat) (x : SlotS) : (s.setSlotS n k o x).gens = s.gens := rfl
@[simp] theorem State.setSlotS_dev (n k o : Nat) (x : SlotS) : (s.setSlotS n k o x).dev = s.dev := rfl
@[simp] theorem State.setSlotS_devBack (n k o : Nat) (x : SlotS) : (s.setSlotS n k o x).devBack = s.devBack := rfl
@[simp] theorem State.setSlotS_active (n k o : Nat) (x : SlotS) : (s.setSlotS n k o x).active = s.active := rfl
@[simp] theorem State.setSlotS_fresh (n k o : Nat) (x : SlotS) : (s.setSlotS n k o x).fresh = s.fresh := rfl
@[simp] theorem State.setSlotS_posted (n k o : Nat) (x : SlotS) : (s.setSlotS n k o x).posted = s.posted := rfl
@[simp] theorem State.setSlotS_troubles (n k o : Nat) (x : SlotS) : (s.setSlotS n k o x).troubles = s.troubles := rfl
@[simp] theorem State.setSlotS_resp (n k o : Nat) (x : SlotS) : (s.setSlotS n k o x).resp = s.resp := rfl
@[simp] theorem State.setSlotS_fenced (n k o : Nat) (x : SlotS) : (s.setSlotS n k o x).fenced = s.fenced := rfl
@[simp] theorem State.setSlotS_held (n k o : Nat) (x : SlotS) : (s.setSlotS n k o x).held = s.held := rfl
@[simp] theorem State.setSlotS_lds (n k o : Nat) (x : SlotS) : (s.setSlotS n k o x).lds = s.lds := rfl
@[simp] theorem State.setSlotS_cls (n k o : Nat) (x : SlotS) : (s.setSlotS n k o x).cls = s.cls := rfl
@[simp] theorem State.setSlotS_chans (n k o : Nat) (x : SlotS) : (s.setSlotS n k o x).chans = s.chans := rfl
@[simp] theorem State.setSlotS_dict (n k o : Nat) (x : SlotS) : (s.setSlotS n k o x).dict = s.dict := rfl
@[simp] theorem State.setSlotS_shape (n k o : Nat) (x : SlotS) : (s.setSlotS n k o x).shape = s.shape := rfl
@[simp] theorem State.setSlotS_rate96 (n k o : Nat) (x : SlotS) : (s.setSlotS n k o x).rate96 = s.rate96 := rfl
@[simp] theorem State.setSlotS_straps (n k o : Nat) (x : SlotS) : (s.setSlotS n k o x).straps = s.straps := rfl
@[simp] theorem State.setSlotS_stalled (n k o : Nat) (x : SlotS) : (s.setSlotS n k o x).stalled = s.stalled := rfl
@[simp] theorem State.setSlotS_hostWait (n k o : Nat) (x : SlotS) : (s.setSlotS n k o x).hostWait = s.hostWait := rfl
@[simp] theorem State.setSlotS_linksDown (n k o : Nat) (x : SlotS) : (s.setSlotS n k o x).linksDown = s.linksDown := rfl
@[simp] theorem State.setSlotS_tap (n k o : Nat) (x : SlotS) : (s.setSlotS n k o x).tap = s.tap := rfl
/-- Nothing else changes. -/
theorem State.setSlotS_rest (n k o : Nat) (x : SlotS) : { s.setSlotS n k o x with slots := s.slots } = s := rfl

/-! ### A unit reads back what was put into it, and another is as before -/

theorem State.rg_setRg (a b : Nat) (v : Word) : (s.setRg a v).rg b = if b = a then v else s.rg b := SMap.get_set regReset s.regs a v b

theorem State.ctr_setCtr (a b : Nat) (v : Word) : (s.setCtr a v).ctr b = if b = a then v else s.ctr b :=
  SMap.get_set regReset s.ctrs a v b

theorem State.core_setCore (c e : Nat) (x : CoreS) : (s.setCore c x).core e = if e = c then x else s.core e :=
  SMap.get_set coreDefault s.cores c x e

theorem State.core_modCore (c e : Nat) (f : CoreS → CoreS) : (s.modCore c f).core e = if e = c then f (s.core c) else s.core e :=
  SMap.get_set coreDefault s.cores c _ e

theorem State.die_setDie (d e : Nat) (x : DieS) : (s.setDie d x).die e = if e = d then x else s.die e :=
  SMap.get_set (dflt DieS.reset) s.dies d x e

theorem State.gen_setGen (h e : Nat) (x : TideGen) : (s.setGen h x).gen e = if e = h then x else s.gen e :=
  SMap.get_set (dflt TideGen.reset) s.gens h x e

theorem State.ld_setLd (k e : Nat) (x : LdS) : (s.setLd k x).ld e = if e = k then x else s.ld e :=
  SMap.get_set (dflt LdS.reset) s.lds k x e

theorem State.dVal_dSet (k e : Nat) (v : List Byte) : (s.dSet k v).dVal e = if e = k then v else s.dVal e :=
  SMap.get_set dictDefault s.dict k v e

theorem State.xferOf_setXfer (q e : Nat) (x : Option Xfer) : (s.setXfer q x).xferOf e = if e = q then x else s.xferOf e :=
  SMap.get_set (dflt none) s.xfers q x e

theorem State.link_setLink (l m : Nat) (up v : Bool) (x : LinkS) :
    (s.setLink l up x).link m v = if m = l ∧ v = up then x else s.link m v := by
  have h : (2 * m + b2n v = 2 * l + b2n up) ↔ (m = l ∧ v = up) := by cases up <;> cases v <;> simp [b2n] <;> omega
  show SMap.get _ (SMap.set _ _ _ _) _ = _
  rw [SMap.get_set]
  simp only [h]
  rfl

theorem State.comet_setComet (n m : Nat) (x : CometS) : (s.setComet n x).comet m = if m = n then x else s.comet m :=
  SMap.get_set (dflt CometS.reset) s.comets n x m

theorem State.port_setPort (p q : Nat) (x : PortS) : (s.setPort p x).port q = if q = p then x else s.port q :=
  SMap.get_set (dflt PortS.reset) s.ports p x q

@[simp] theorem State.rg_setCore (c : Nat) (x : CoreS) (a : Nat) : (s.setCore c x).rg a = s.rg a := rfl
@[simp] theorem State.rg_modCore (c : Nat) (f : CoreS → CoreS) (a : Nat) : (s.modCore c f).rg a = s.rg a := rfl
@[simp] theorem State.core_setRg (a : Nat) (v : Word) (c : Nat) : (s.setRg a v).core c = s.core c := rfl
@[simp] theorem State.core_setCtr (a : Nat) (v : Word) (c : Nat) : (s.setCtr a v).core c = s.core c := rfl

/-! ### Stores of the state in canonical form -/

theorem State.wf_setRg (a : Nat) (v : Word) (h : SMap.wf regReset s.regs = true) : SMap.wf regReset (s.setRg a v).regs = true :=
  SMap.wf_set regReset s.regs a v h

theorem State.wf_setCtr (a : Nat) (v : Word) (h : SMap.wf regReset s.ctrs = true) : SMap.wf regReset (s.setCtr a v).ctrs = true :=
  SMap.wf_set regReset s.ctrs a v h

end Sys2Proof.Machine
end

