-- ==== Sys2Proof/Laws/Frame.lean ====
section
/-! SUPPORT. What the shared operations can do, said once: counting and metering, the effects of register writes, memory writes,
and the course of one core instruction. -/

namespace Sys2Proof.Machine
open Sys2Proof

/-! ### Counting and metering change the counter sets only -/

theorem State.countOne_only (s : State) (base cls ev n : Nat) (at_ : EvAttr) :
    ∃ m, s.countOne base cls ev n at_ = { s with ctrs := m } := by
  unfold State.countOne; split
  · exact ⟨_, rfl⟩
  · exact ⟨s.ctrs, rfl⟩

theorem State.count_only (s : State) (d u cls ev n : Nat) (at_ : EvAttr) :
    ∃ m, s.count d u cls ev n at_ = { s with ctrs := m } := by
  unfold State.count
  split
  · exact ⟨s.ctrs, rfl⟩
  · obtain ⟨a, ha⟩ := State.countOne_only s (counterBlock d + 0x100 * u) cls ev n at_
    obtain ⟨b, hb⟩ := State.countOne_only { s with ctrs := a } (counterBlock d + 0x100 * u + 0x40) cls ev n at_
    obtain ⟨e, he⟩ := State.countOne_only { s with ctrs := b } (counterBlock d + 0x100 * u + 0x80) cls ev n at_
    obtain ⟨f, hf⟩ := State.countOne_only { s with ctrs := e } (counterBlock d + 0x100 * u + 0xC0) cls ev n at_
    exact ⟨f, by simp only []; rw [ha, hb, he, hf]⟩

theorem State.meter_only (s : State) (d m dir n : Nat) : ∃ v, s.meter d m dir n = { s with ctrs := v } := by
  unfold State.meter; simp only []; split
  · exact ⟨_, rfl⟩
  · exact ⟨s.ctrs, rfl⟩

/-- Counting keeps the canonical form of the counter sets. -/
theorem State.wf_countOne (s : State) (base cls ev n : Nat) (at_ : EvAttr) (h : SMap.wf regReset s.ctrs = true) :
    SMap.wf regReset (s.countOne base cls ev n at_).ctrs = true := by
  unfold State.countOne
  split
  · exact State.wf_setCtr s _ _ h
  · exact h

theorem State.wf_count (s : State) (d u cls ev n : Nat) (at_ : EvAttr) (h : SMap.wf regReset s.ctrs = true) :
    SMap.wf regReset (s.count d u cls ev n at_).ctrs = true := by
  unfold State.count
  split
  · exact h
  · exact State.wf_countOne _ _ _ _ _ _ (State.wf_countOne _ _ _ _ _ _ (State.wf_countOne _ _ _ _ _ _
      (State.wf_countOne _ _ _ _ _ _ h)))

theorem State.wf_meter (s : State) (d m dir n : Nat) (h : SMap.wf regReset s.ctrs = true) :
    SMap.wf regReset (s.meter d m dir n).ctrs = true := by
  unfold State.meter
  simp only []
  split
  · exact State.wf_setCtr s _ _ h
  · exact h

/-! ### The effects of register writes -/

/-- With no register write posted nothing is left to do. -/
theorem State.settle_of_nil (s : State) (h : s.posted = []) : s.settle = s := by
  unfold State.settle State.settleGo; rw [h]

/-- Afterwards none is posted. -/
theorem State.settleGo_posted (n : Nat) (s : State) : (State.settleGo n s).posted = [] := by
  induction n generalizing s with
  | zero => rfl
  | succ n ih =>
    unfold State.settleGo
    split
    · assumption
    · exact ih _

theorem State.settle_posted (s : State) : s.settle.posted = [] := State.settleGo_posted 8 s

/-! ### Memory of the state -/

/-- A fold of updates that each change only the counter sets and the initialisation map changes only those. -/
def OnlyMarked (s t : State) : Prop := ∃ m k, t = { s with ctrs := m, marked := k }

theorem OnlyMarked.refl (s : State) : OnlyMarked s s := ⟨s.ctrs, s.marked, rfl⟩

theorem OnlyMarked.trans {s t u : State} (h : OnlyMarked s t) (g : OnlyMarked t u) : OnlyMarked s u := by
  obtain ⟨m, k, rfl⟩ := h
  obtain ⟨n, l, rfl⟩ := g
  exact ⟨n, l, rfl⟩

theorem OnlyMarked.foldl {β : Type} (f : State → β → State) (hf : ∀ s b, OnlyMarked s (f s b)) (bs : List β) (s : State) :
    OnlyMarked s (bs.foldl f s) := by
  induction bs generalizing s with
  | nil => exact OnlyMarked.refl s
  | cons b bs ih => exact (hf s b).trans (ih (f s b))

theorem OnlyMarked.meter (s : State) (d m dir n : Nat) : OnlyMarked s (s.meter d m dir n) := by
  obtain ⟨v, hv⟩ := State.meter_only s d m dir n
  exact ⟨v, s.marked, by rw [hv]⟩

/-- Marking the chunks of a range counts at the meters and changes nothing else. -/
theorem State.markRange_only (s : State) (a n : Nat) : OnlyMarked s (s.markRange a n) := by
  have hc : ∀ s c, OnlyMarked s (State.meterChunk s c) := fun s c =>
    OnlyMarked.foldl _ (fun s h => OnlyMarked.foldl _ (fun s p => by
      split
      · exact OnlyMarked.meter s _ _ _ _
      · exact OnlyMarked.refl s) _ s) _ s
  unfold State.markRange
  split
  · refine OnlyMarked.foldl _ (fun s i => ?_) _ s
    unfold State.markChunk
    split
    · exact OnlyMarked.refl s
    · obtain ⟨m, k, h⟩ := hc s ((a + 2 ^ 20 * i) / 2 ^ 20)
      exact ⟨m, nsAdd s.marked ((a + 2 ^ 20 * i) / 2 ^ 20), by rw [h]⟩
  · exact OnlyMarked.refl s

/-- Bytes written into the state's memory; beside them only the initialisation map, the meters and the bit errors of the words written
whole move. -/
theorem State.poke_only (s : State) (a : Nat) (bs : List Byte) :
    ∃ m k u, s.poke a bs = { s with ctrs := m, marked := k, upsets := u, mem := memWriteN s.mem a bs } := by
  obtain ⟨m, k, h⟩ := State.markRange_only s a bs.length
  exact ⟨m, k, _, by unfold State.poke; dsimp only []; rw [h]⟩

theorem State.mem_poke (s : State) (a : Nat) (bs : List Byte) : (s.poke a bs).mem = memWriteN s.mem a bs := by
  obtain ⟨m, k, u, h⟩ := State.poke_only s a bs; rw [h]

theorem State.wf_poke (s : State) (a : Nat) (bs : List Byte) (h : Memory.wf s.mem = true) : Memory.wf (s.poke a bs).mem = true := by
  rw [State.mem_poke]; exact Memory.wf_writeN s.mem a bs h

theorem State.wf_setTag (s : State) (g : Nat) (h : nsWf s.tags = true) : nsWf (s.setTag g).tags = true := nsWf_add s.tags g h

theorem State.wf_clearTags (s : State) (gs : List Nat) (h : nsWf s.tags = true) : nsWf (s.clearTags gs).tags = true := by
  show nsWf (gs.foldl nsDel s.tags) = true
  generalize s.tags = m at h ⊢
  induction gs generalizing m with
  | nil => exact h
  | cons g gs ih => exact ih _ (nsWf_del m g h)

/-! ### The course of one instruction -/

/-- A command whose transactions all proceed has its effect; one that meets a die in HOLD has none. -/
theorem State.attempt_of_ok (s : State) (f : State → State) (h : (f { s with stalled := false }).stalled = false) :
    s.attempt f = f { s with stalled := false } := by
  unfold State.attempt; simp only [h, Bool.false_eq_true, if_false]

theorem State.attempt_of_held (s : State) (f : State → State) (h : (f { s with stalled := false }).stalled = true) :
    s.attempt f = s := by
  unfold State.attempt; simp only [h, if_true]

/-- A core that issues nothing leaves the state. -/
theorem State.instr_idle (s : State) (c : Nat) (body : OnCore Flow) (done : State → State) (h : s.issues c = false) :
    s.instr c body done = .next s := by
  unfold State.instr; simp [h]

/-- An instruction never ends in a fault or a refusal. -/
theorem State.instr_next (s : State) (c : Nat) (body : OnCore Flow) (done : State → State) : ∃ t, s.instr c body done = .next t :=
  ⟨_, rfl⟩

/-- The core as it is when its instruction is fetched. -/
def State.fetching (s : State) (c : Nat) : CoreS := (s.begun c).core c

theorem State.fetching_eq (s : State) (c : Nat) : s.fetching c = { s.core c with waiting := false, cut := false } := by
  unfold State.fetching State.begun; rw [State.core_modCore, if_pos rfl]; rfl

/-- What an instruction that has been fetched does: it retires, raises its exception, ends in a halt, or is abandoned. -/
def State.afterFetch (s s1 : State) (c ic : Nat) (body : OnCore Flow) (done : State → State) : State :=
  match body ⟨s1, c, 0, 0, false⟩ with
  | .error (.exn 0x12 _ _) r => r.st.settle
  | .error (.exn k e w) r =>
    (State.returns c (s.fetching c) k e (r.st.raiseAt c (s.fetching c) k e w ic r.dc r.src false)).settle
  | .error .abandoned r => (r.st.modCore c fun y => { y with cut := true }).settle
  | .ok f r => done (r.st.retire c (s.fetching c) f ic r.dc r.src r.waited)

theorem State.instr_fetched {s s1 : State} {c ic : Nat} (h : s.Fetches c ic s1) (body : OnCore Flow) (done : State → State) :
    s.instr c body done =
      .next (if (s.afterFetch s1 c ic body done).stalled then s else s.afterFetch s1 c ic body done) := by
  obtain ⟨hi, hd, hf, -⟩ := h
  have hn : (!(s.fetching c).imprecise.isEmpty && (s.fetching c).delay.isNone) = false := by
    rw [State.fetching_eq]
    rcases hd with hd | hd
    · simp [hd]
    · cases hx : (s.core c).delay
      · exact absurd hx hd
      · simp
  have hr : State.run { s with stalled := false } c body done = s.afterFetch s1 c ic body done := by
    unfold State.run State.afterFetch
    rw [show (({ s with stalled := false } : State).modCore c fun x => { x with waiting := false, cut := false }) = s.begun c from rfl]
    simp only [hf]
    rw [show (s.begun c).core c = s.fetching c from rfl, hn]
    simp only [Bool.false_eq_true, if_false]
    all_goals rfl
  unfold State.instr State.attempt
  simp only [hi, if_true, hr]

/-- An instruction whose own work succeeds retires. -/
theorem State.instr_retires {s s1 : State} {c ic : Nat} (h : s.Fetches c ic s1) {body : OnCore Flow} {f : Flow} {r : Run}
    (hb : body ⟨s1, c, 0, 0, false⟩ = .ok f r) (done : State → State)
    (ht : (done (r.st.retire c (s.fetching c) f ic r.dc r.src r.waited)).stalled = false) :
    s.instr c body done = .next (done (r.st.retire c (s.fetching c) f ic r.dc r.src r.waited)) := by
  have ha : s.afterFetch s1 c ic body done = done (r.st.retire c (s.fetching c) f ic r.dc r.src r.waited) := by
    unfold State.afterFetch; rw [hb]
  rw [State.instr_fetched h, ha, ht]; rfl

end Sys2Proof.Machine
end

