-- ==== Sys2Proof/Machine/RefLaw.lean ====
section
/-! DEFINITION. What a reference law writes (05 R165-R172): the formulas as propositions over a scene store and the entries of a pair
table half. The laws themselves are programs that hosts load; no command rests on this file (assumption 36). -/

namespace Sys2Proof.Machine
open Sys2Proof

/-! ### Lengths, positions and directions (05 Tables 5-3 to 5-5) -/

/-- A Q24.8 length in mm, signed or not. -/
def mmI (r : List Byte) (o : Nat) : ℚ := signed 32 (fieldAt r o 4) / 256
def mmU (r : List Byte) (o : Nat) : ℚ := (fieldAt r o 4 : ℚ) / 256
/-- An unsigned Q8.24 factor. -/
def q824 (r : List Byte) (o : Nat) : ℚ := (fieldAt r o 4 : ℚ) / 2 ^ 24
/-- The point whose coordinates stand from offset `o` of a record. -/
def pointAt (r : List Byte) (o : Nat) : List ℚ := [mmI r o, mmI r (o + 4), mmI r (o + 8)]
/-- A difference and a scalar product. -/
def subQ (a b : List ℚ) : List ℚ := (a.zip b).map fun p => p.1 - p.2
def dotQ (a b : List ℚ) : ℚ := ((a.zip b).map fun p => p.1 * p.2).sum

/-- Loudspeaker `i` of a layout. -/
def SceneS.speaker (x : SceneS) (i : Nat) : List Byte := x.spk.getD i []
/-- s_i − p, in mm. -/
def SceneS.toSpeaker (x : SceneS) (i : Nat) (p : List ℚ) : List ℚ := subQ (pointAt (x.speaker i) 0) p

/-- A real is the length of a vector. -/
def IsLen (v : List ℚ) (r : ℝ) : Prop := r = Real.sqrt (dotQ v v : ℚ)
/-- A distance with its limit case: below 1 mm it is taken as 1 mm (05 R172). -/
def IsDist (v : List ℚ) (spread : Nat) (d : ℝ) : Prop := d = max 1 (Real.sqrt ((dotQ v v + (spread : ℚ) ^ 2 : ℚ)))
/-- The angle of a binary angle, 65,536 units to a turn. -/
def IsAngle (u : Int) (a : ℝ) : Prop := a = 2 * Real.pi * u / 65536
/-- The scalar product of a vector with a loudspeaker's facing direction n = (cos EL cos AZ, cos EL sin AZ, sin EL). -/
def FacesBy (r : List Byte) (v : List ℚ) (f : ℝ) : Prop :=
  ∃ az el : ℝ, IsAngle (fieldAt r 0x0C 2) az ∧ IsAngle (signed 16 (fieldAt r 0x0E 2)) el ∧
    f = (v.getD 0 0 : ℝ) * (Real.cos el * Real.cos az) + (v.getD 1 0 : ℝ) * (Real.cos el * Real.sin az) + (v.getD 2 0 : ℝ) * Real.sin el

/-! ### What a pair holds (05 R166) -/

/-- `v` is the real `x` rounded to the nearest integer, ties away from zero (03 R98). -/
def IsRnd (x : ℝ) (v : Int) : Prop := if 0 ≤ x then v = ⌊x + 1 / 2⌋ else v = -⌊-x + 1 / 2⌋
/-- Two values of a field are equal or differ by one unit. -/
def WithinOne (a b : Int) : Prop := (a - b).natAbs ≤ 1

/-- The default INTERP of a reference law (05 R168-R171), and the mode written. -/
def refMode (l : Nat) (prm : List Byte) : Nat := if fieldAt prm 1 1 = 255 then (if l = 2 then 2 else 0) else fieldAt prm 1 1

/-- The entry of an object's pair on slot `q`, with the loudspeaker's activity, gain g and path length ℓ in mm (05 R166). -/
def State.RefEntry (s : State) (l : Nat) (prm obj : List Byte) (q : Nat) (active : Prop) (g len : ℝ) (e : Nat) : Prop :=
  (peV e = true ↔ active ∧ g ≠ 0) ∧
  (peV e = true →
    peSrc e = fieldAt obj 0x0E 2 ∧ peOut e = q ∧ peMute e = bitOf (fieldAt obj 0x17 1) 0 ∧ peInterp e = refMode l prm ∧
    ∃ dl gn : Int, IsRnd (1024 * len * s.rateHz / (fieldAt prm 8 4 : ℝ)) dl ∧ IsRnd (65536 * g) gn ∧
      WithinOne (peDelay e) (max 0 (min ((s.depth - 64) * 1024 : Nat) (dl + signed 32 (fieldAt prm 0x0C 4)))) ∧
      WithinOne (peGain e) (satI 18 gn))

/-! ### The loudspeakers of a law (05 R167) -/

/-- Loudspeakers whose ARRAY bit is set in ARRMASK and whose KIND is among `kinds`. -/
def SceneS.refSpeakers (x : SceneS) (prm : List Byte) (kinds : List Nat) : List Nat :=
  (upTo x.spk.length).filter fun i =>
    let a := fieldAt (x.speaker i) 0x12 1
    decide (a < 32) && bitOf (fieldAt prm 4 4) a && kinds.contains (fieldAt (x.speaker i) 0x13 1)

/-- The object's GAIN as a number. -/
def objGain (obj : List Byte) : ℚ := (signed 32 (fieldAt obj 0x10 4) : ℚ) / 65536

/-! ### The four laws -/

/-- Direct routing (05 R168). -/
def DirectPair (obj : List Byte) (i : Nat) (active : Prop) (g len : ℝ) : Prop :=
  (active ↔ i = fieldAt obj 0x18 4 % 2 ^ 14) ∧ g = objGain obj ∧ len = 0

/-- Distance-based amplitude panning (05 R169). -/
def SceneS.PanPair (x : SceneS) (prm obj : List Byte) (i : Nat) (active : Prop) (g len : ℝ) : Prop :=
  let mine := x.refSpeakers prm [0, 1, 2]
  let a : ℝ := q824 prm 0x1C
  ∃ (d : Nat → ℝ) (k : ℝ),
    (∀ j, IsDist (x.toSpeaker j (pointAt obj 0)) (fieldAt obj 0x14 2) (d j)) ∧
    k = ((mine.map fun j => d j ^ (-2 * a)).sum) ^ (-1 / 2 : ℝ) ∧
    (active ↔ i ∈ mine) ∧ g = objGain obj * k / d i ^ a ∧ len = 0

/-- The taper of a loudspeaker (05 R170): its place among the line elements of its array, in record order. -/
def SceneS.Taper (x : SceneS) (prm : List Byte) (i : Nat) (w : ℝ) : Prop :=
  let line := (x.refSpeakers prm [1]).filter fun j => fieldAt (x.speaker j) 0x12 1 == fieldAt (x.speaker i) 0x12 1
  let e := line.idxOf i
  let m := min e (line.length - 1 - e)
  let taper := fieldAt prm 0x20 2
  if fieldAt (x.speaker i) 0x13 1 = 1 ∧ m < taper then w = 1 / 2 - 1 / 2 * Real.cos (Real.pi * (m + 1) / (taper + 1)) else w = 1

/-- Wave-field synthesis of a point source (05 R170, R172); lengths in gains are in metres. -/
def SceneS.PointPair (x : SceneS) (prm obj : List Byte) (i : Nat) (active : Prop) (g len : ℝ) : Prop :=
  let way := x.toSpeaker i (pointAt obj 0)
  let dref : ℝ := mmU prm 0x10 / 1000
  ∃ v r w : ℝ, FacesBy (x.speaker i) way v ∧ IsDist way 0 r ∧ x.Taper prm i w ∧
    (active ↔ i ∈ x.refSpeakers prm [1, 2] ∧ 0 < v) ∧
    g = objGain obj * q824 prm 0x18 * w * (mmU (x.speaker i) 0x14 / 1000 : ℚ) * (v / r) *
      Real.sqrt (dref / (r / 1000 * (dref + r / 1000))) ∧
    len = r

/-- Wave-field synthesis of a plane wave (05 R170, R172): from the origin it has no direction, and no pair. -/
def SceneS.PlanePair (x : SceneS) (prm obj : List Byte) (i : Nat) (active : Prop) (g len : ℝ) : Prop :=
  let p := pointAt obj 0
  let dref : ℝ := mmU prm 0x10 / 1000
  ∃ n f w : ℝ, IsLen p n ∧ FacesBy (x.speaker i) p f ∧ x.Taper prm i w ∧
    (active ↔ i ∈ x.refSpeakers prm [1, 2] ∧ n ≠ 0 ∧ 0 < -f / n) ∧
    g = objGain obj * q824 prm 0x18 * w * (mmU (x.speaker i) 0x14 / 1000 : ℚ) * (-f / n) * Real.sqrt (1 / dref) ∧
    len = -(dotQ (pointAt (x.speaker i) 0) p : ℚ) / n + mmU prm 0x14

/-- Coefficients of the Legendre polynomials P_n and P_(n+1), lowest power first (05 R171), by their three-term recurrence. -/
def legendrePair : Nat → List ℚ × List ℚ
  | 0 => ([1], [0, 1])
  | n + 1 =>
    let (a, b) := legendrePair n
    let len := n + 3
    (b, (upTo len).map fun j =>
      ((2 * n + 3 : Nat) * (if j = 0 then 0 else b.getD (j - 1) 0) - (n + 1 : Nat) * a.getD j 0) / ((n + 2 : Nat) : ℚ))

/-- The derivative of a polynomial by its coefficients, taken `m` times. -/
def derive (m : Nat) (c : List ℚ) : List ℚ :=
  match m with
  | 0 => c
  | m + 1 => derive m ((upTo (c.length - 1)).map fun j => (j + 1 : Nat) * c.getD (j + 1) 0)

/-- A polynomial's value. -/
def IsValue (c : List ℚ) (x v : ℝ) : Prop := v = ((upTo c.length).map fun j => (c.getD j 0 : ℝ) * x ^ j).sum

/-- The real SN3D spherical harmonic of degree `n` and index `m` in a direction (05 R171); the form is the usual one, without the
Condon-Shortley phase (PRESUMED, assumption 36). -/
def IsSn3d (n : Nat) (m : Int) (az el y : ℝ) : Prop :=
  let k := m.natAbs
  ∃ p : ℝ, IsValue (derive k (legendrePair n).1) (Real.sin el) p ∧
    y = Real.sqrt ((if m = 0 then 1 else 2) * (n - k).factorial / (n + k).factorial) * (Real.cos el ^ k * p) *
      (if 0 ≤ m then Real.cos (m * az) else Real.sin (k * az))

/-- Azimuth, elevation and distance of a vector; the zero vector stands at azimuth 0 and elevation 0 (05 R171, R172). -/
def IsDirection (v : List ℚ) (az el rho : ℝ) : Prop :=
  IsLen v rho ∧
  if dotQ v v = 0 then az = 0 ∧ el = 0
  else (v.getD 0 0 : ℝ) = rho * (Real.cos el * Real.cos az) ∧ (v.getD 1 0 : ℝ) = rho * (Real.cos el * Real.sin az) ∧
    (v.getD 2 0 : ℝ) = rho * Real.sin el ∧ -(Real.pi / 2) ≤ el ∧ el ≤ Real.pi / 2

/-- Ambisonic decoding (05 R171). -/
def SceneS.AmbiPair (x : SceneS) (prm obj : List Byte) (i : Nat) (active : Prop) (g len : ℝ) : Prop :=
  let mine := x.refSpeakers prm [0, 1, 2]
  let acn := fieldAt obj 0x18 4 % 64
  let order := fieldAt prm 2 1
  let n := Nat.sqrt acn
  let ref := pointAt prm 0x24
  ∃ (az el rho : Nat → ℝ) (y an rmax : ℝ),
    (∀ j, IsDirection (x.toSpeaker j ref) (az j) (el j) (rho j)) ∧
    (∀ j ∈ mine, rho j ≤ rmax) ∧ (mine = [] ∨ ∃ j ∈ mine, rho j = rmax) ∧
    IsSn3d n ((acn : Int) - n * n - n) (az i) (el i) y ∧
    IsValue (legendrePair n).1 (Real.cos (137.9 * Real.pi / 180 / (order + 1.51))) an ∧
    (active ↔ i ∈ mine ∧ acn < (order + 1) ^ 2) ∧
    g = objGain obj * q824 prm 0x18 * (2 * n + 1 : Nat) * an * y / mine.length ∧
    len = rmax - rho i

/-- The activity, gain and path length that reference law `l` gives an object on loudspeaker `i`. -/
def SceneS.RefPair (x : SceneS) (l : Nat) (prm obj : List Byte) (i : Nat) (active : Prop) (g len : ℝ) : Prop :=
  if l = 0 then DirectPair obj i active g len
  else if l = 1 then x.PanPair prm obj i active g len
  else if l = 2 then
    if bitOf (fieldAt obj 0x17 1) 1 then x.PlanePair prm obj i active g len else x.PointPair prm obj i active g len
  else x.AmbiPair prm obj i active g len

/-! ### What a reference law writes (05 R165) -/

/-- The shadow half of a cluster holds what reference law `l` of domain `d` writes: for every object that selects it and whose row
fits the partition, the entry at P0 + W × OBJ + q. A slot that no loudspeaker names has V = 0. -/
def State.RefLawWrote (s : State) (n k d l : Nat) : Prop :=
  let x := s.scene d
  let prm := SMap.get lawDefault x.laws l
  let (p0, size) := s.partOf n k d
  ∀ obj ∈ x.ofLaw l, ∀ q < s.nOut, s.nOut * (fieldAt obj 0x0C 2 + 1) ≤ size →
    let e := s.entry (s.shadowBase n k) (p0 + s.nOut * fieldAt obj 0x0C 2 + q)
    let i := fieldAt (x.slotTable (24 * n + k)) (2 * q) 2
    if i = 0xFFFF then peV e = false
    else ∃ (active : Prop) (g len : ℝ), x.RefPair l prm obj i active g len ∧ s.RefEntry l prm obj q active g len e

end Sys2Proof.Machine
end

