-- ==== Sys2Proof/WellFormed.lean ====
section
/-! DEFINITION. Well-formed commands: what the outside world can send. An operand's type already bounds it; these are the
bounds that span two operands or that a bit width does not say. -/

namespace Sys2Proof

/-- An address is a multiple of `n`: registers of 8 bytes (01 R32), DRAM words and CXL.mem lines of 64 (10 R311, 13 R396). -/
def aligned (a n : Nat) : Bool := a % n == 0

/-- An audio packet carries 1 to 64 channels and one sample for each channel of each sample period (12 R370, R373). -/
def audioWf (k : AudioPkt) : Bool :=
  decide (1 ≤ k.nch) && decide (k.nch ≤ 64) && decide (k.samples.length = k.nsamp * k.nch)

/-- A frame is not longer than a jumbo frame's 16-bit length can say (12 R362). -/
def frameWf (f : FrameIn) : Bool := decide (f.len < 65536)

/-- An NGP datagram that is well formed carries at most 1,024 bytes of data (14 Table 14-6). -/
def ngpWf (k : NgpMsg) : Bool := !k.wellFormed || decide (k.data.length ≤ 1024)

/-- A master ID names a master of 01 Table 1-10: die, unit, kind and sub-unit. -/
def masterWf (m : Nat) : Bool :=
  let die := m / 0x2000
  let unit := m / 0x100 % 32
  let kind := m / 0x40 % 4
  let sub := m % 64
  if die < 2 then
    (kind == 0 && decide (unit < 4) && sub == 0) || (kind == 1 && unit == 0) || (kind == 2 && decide (unit ≤ 12) && sub == 0) ||
      (kind == 3 && ((unit == 0 && decide (sub < 16)) || ((unit == 1 || unit == 2) && sub == 0)))
  else
    (kind == 0 && ((decide (unit < 25) && sub == 0) || (decide (25 ≤ unit) && decide (unit ≤ 30) && decide (sub < 2)))) ||
      (kind == 1 && decide (unit < 2) && decide (sub < 16)) ||
      (kind == 2 && ((decide (unit < 25) && decide (sub < 3)) || (decide (25 ≤ unit) && decide (unit ≤ 30) && decide (sub < 2)) ||
        (unit == 31 && decide (sub < 3))))

/-- The attributes of a transaction that a master issues: a listed master, a traffic class 0-4 (01 R23, R27). -/
def busWf (b : BusAttr) : Bool := masterWf b.master.toNat && decide (b.tc.toNat < 5)

/-- A transaction issued again is of 1 to 64 bytes within a 64-byte line (01 R25). -/
def transactionWf (t : Transaction) : Bool :=
  match t with
  | .read b _ => busWf b
  | .write b a n _ _ => busWf b && decide (1 ≤ n.val) && decide (a.toNat % 64 + n.val ≤ 64)
  | .atomic b a _ wide _ _ => busWf b && aligned a.toNat (if wide then 8 else 4)

/-- The flits of a link block carry classes T0 to T4 (01 R23). -/
def flitsWf (f : Flits) : Bool := [0, 1, 2, 3].all fun i => decide (f.tc.toNat / 8 ^ i % 8 < 5)

/-- The well-formed commands. -/
def Instr.wf (i : Instr) : Bool :=
  match i with
  | .linkBlockSend _ _ f => flitsWf f
  | .linkBlockReceive _ _ _ f _ => flitsWf f
  | .linkBlockAcknowledge _ _ _ => true
  | .linkReplay _ _ _ => true
  | .linkDown _ => true
  | .tideGeneratorTick _ => true
  | .tickMessage _ _ _ => true
  | .localTideTick _ _ => true
  | .acquireTimeout => true
  | .lockQualified => true
  | .holdoverEntry => true
  | .quarterHandover _ _ => true
  | .renderComplete _ _ => true
  | .renderHardDeadline _ _ => true
  | .broadcastWrite _ _ _ _ => true
  | .supplyHoldEntry _ => true
  | .holdNotice _ => true
  | .supplyHoldExitRise _ => true
  | .holdExitCondition _ => true
  | .dieRejoin _ => true
  | .holdTimeout _ => true
  | .supplyResetCrossing _ => true
  | .supplyUp _ => true
  | .hubRejoin _ => true
  | .mark _ _ _ => true
  | .cancel _ _ => true
  | .checkComplete _ _ => true
  | .lstickyClear _ _ _ => true
  | .commit _ _ _ _ => true
  | .priorityBusChange _ _ _ _ _ _ => true
  | .egressWordWrite _ _ _ _ _ => true
  | .completionWordWrite _ _ _ => true
  | .egressLatch _ _ => true
  | .playoutBlock _ _ uncorr => uncorr.all (fun u => decide (u.1.toNat < 9216))
  | .sceneFrameTake _ => true
  | .lawShareExpiry _ _ => true
  | .compareSubmit _ _ _ _ _ _ _ => true
  | .compareResolve _ _ _ => true
  | .compareDeadline _ _ => true
  | .add _ _ _ _ => true
  | .sub _ _ _ _ => true
  | .addo _ _ _ _ => true
  | .subo _ _ _ _ => true
  | .and _ _ _ _ => true
  | .or _ _ _ _ => true
  | .xor _ _ _ _ => true
  | .andn _ _ _ _ => true
  | .sll _ _ _ _ => true
  | .srl _ _ _ _ => true
  | .sra _ _ _ _ => true
  | .ror _ _ _ _ => true
  | .slt _ _ _ _ => true
  | .sltu _ _ _ _ => true
  | .seq _ _ _ _ => true
  | .min _ _ _ _ => true
  | .max _ _ _ _ => true
  | .minu _ _ _ _ => true
  | .maxu _ _ _ _ => true
  | .clz _ _ _ => true
  | .popc _ _ _ => true
  | .sats _ _ _ _ => true
  | .cmovnz _ _ _ _ => true
  | .cmovz _ _ _ _ => true
  | .slli _ _ _ _ => true
  | .srli _ _ _ _ => true
  | .srai _ _ _ _ => true
  | .rori _ _ _ _ => true
  | .extu _ _ _ _ _ => true
  | .exts _ _ _ _ _ => true
  | .ins _ _ _ _ _ => true
  | .addi _ _ _ _ => true
  | .addio _ _ _ _ => true
  | .andi _ _ _ _ => true
  | .ori _ _ _ _ => true
  | .xori _ _ _ _ => true
  | .slti _ _ _ _ => true
  | .sltiu _ _ _ _ => true
  | .movi _ _ _ _ => true
  | .movk _ _ _ _ => true
  | .lb _ _ _ => true
  | .lbu _ _ _ => true
  | .lh _ _ _ => true
  | .lhu _ _ _ => true
  | .lw _ _ _ => true
  | .lwu _ _ _ => true
  | .ld _ _ _ => true
  | .ldt _ _ _ => true
  | .sb _ _ _ => true
  | .sh _ _ _ => true
  | .sw _ _ _ => true
  | .sd _ _ _ => true
  | .stt _ _ _ => true
  | .stts _ _ _ => true
  | .clc _ _ _ _ => true
  | .csc _ _ _ _ => true
  | .amoswap _ _ _ _ _ => true
  | .amoadd _ _ _ _ _ => true
  | .amoand _ _ _ _ _ => true
  | .amoor _ _ _ _ _ => true
  | .cas _ _ _ _ _ => true
  | .amomax _ _ _ _ _ => true
  | .amomin _ _ _ _ _ => true
  | .ldm _ _ _ _ _ => true
  | .stm _ _ _ _ _ => true
  | .cmove _ _ _ => true
  | .cinc _ _ _ _ => true
  | .csetc _ _ _ _ => true
  | .csetb _ _ _ _ => true
  | .csetbx _ _ _ _ => true
  | .candr _ _ _ _ => true
  | .cclrt _ _ _ => true
  | .cseal _ _ _ _ => true
  | .cunseal _ _ _ _ => true
  | .cdom _ _ _ _ => true
  | .cgetb _ _ _ => true
  | .cgetl _ _ _ => true
  | .cgetc _ _ _ => true
  | .cgetr _ _ _ => true
  | .cgeto _ _ _ => true
  | .cgetd _ _ _ => true
  | .cgett _ _ _ => true
  | .csub _ _ _ _ => true
  | .cgetoff _ _ _ => true
  | .cinci _ _ _ _ => true
  | .cpcc _ _ _ => true
  | .ccall _ _ _ => true
  | .ccopy _ _ _ _ => true
  | .beq _ _ _ _ _ => true
  | .bne _ _ _ _ _ => true
  | .blt _ _ _ _ _ => true
  | .bge _ _ _ _ _ => true
  | .bltu _ _ _ _ _ => true
  | .bgeu _ _ _ _ _ => true
  | .beqz _ _ _ _ => true
  | .bnez _ _ _ _ => true
  | .bltz _ _ _ _ => true
  | .bgez _ _ _ _ => true
  | .bgtz _ _ _ _ => true
  | .blez _ _ _ _ => true
  | .j _ _ _ => true
  | .jal _ _ _ => true
  | .callw _ _ _ => true
  | .jr _ _ _ => true
  | .jalr _ _ _ => true
  | .callwr _ _ _ => true
  | .retw _ _ => true
  | .mul _ _ _ _ => true
  | .mulh _ _ _ _ => true
  | .mulhu _ _ _ _ => true
  | .mulo _ _ _ _ => true
  | .mac _ _ _ _ _ => true
  | .msu _ _ _ _ _ => true
  | .macr _ _ _ _ _ => true
  | .clrac _ _ _ => true
  | .mvac _ _ _ _ _ _ => true
  | .macb _ _ _ _ _ _ => true
  | .div _ _ _ _ => true
  | .divu _ _ _ _ => true
  | .rem _ _ _ _ => true
  | .remu _ _ _ _ => true
  | .sqrt _ _ _ => true
  | .rcp _ _ _ => true
  | .norm _ _ _ => true
  | .longOpComplete _ => true
  | .impreciseLongException _ => true
  | .mfs _ _ _ => true
  | .mts _ _ _ => true
  | .cmfs _ _ _ => true
  | .cmts _ _ _ => true
  | .nop _ => true
  | .fence _ => true
  | .fenceComplete _ => true
  | .waitl _ => true
  | .pflush _ => true
  | .iflusha _ => true
  | .dflusha _ => true
  | .dinva _ => true
  | .retx _ => true
  | .retf _ => true
  | .trap _ _ => true
  | .brk _ => true
  | .wspill _ => true
  | .wfill _ => true
  | .binv _ => true
  | .wfi _ => true
  | .dflush _ _ _ => true
  | .dinv _ _ _ => true
  | .iflush _ _ _ => true
  | .illegalInstruction c word => (decodeCore c word).isNone
  | .frameDrainComplete _ => true
  | .normalInterruptEntry _ => true
  | .fastInterruptEntry _ => true
  | .blockWalk _ _ _ => true
  | .dirtyUpdate _ _ _ => true
  | .gvinfoClear _ _ => true
  | .xbinv _ _ => true
  | .registerWrite b a _ => busWf b && aligned a.toNat 8
  | .dramRead b a _ _ => busWf b && aligned a.toNat 64
  | .dramWrite b a _ _ => busWf b && aligned a.toNat 64
  | .patrolScrubWord _ _ _ _ => true
  | .channelFail _ _ => true
  | .initSweepChunk => true
  | .produce _ _ _ => true
  | .consume _ _ _ => true
  | .arm _ _ _ => true
  | .doorbellReservedOp _ _ _ => true
  | .deferredNoticePost _ _ => true
  | .enable _ _ _ => true
  | .disable _ _ _ => true
  | .linkEntryMove _ _ => true
  | .channelEnable _ _ _ => true
  | .channelDisable _ _ => true
  | .start _ _ => true
  | .req _ _ => true
  | .dmaShadowFill _ _ => true
  | .dmaShadowToActive _ _ => true
  | .dmaRequest _ _ => true
  | .dmaBurst _ _ => true
  | .dmaDescriptorComplete _ _ => true
  | .cqwaitRelease _ _ => true
  | .frameReceive _ f => frameWf f
  | .audioPacketReceive _ k => audioWf k
  | .forwardedPacket _ _ k => audioWf k
  | .ingressStreamEnable _ _ => true
  | .egressStreamEnable _ _ => true
  | .egressPacketSend _ _ _ => true
  | .egressPacketDrop _ _ _ => true
  | .portLinkDown _ => true
  | .ptpEventMessage _ _ => true
  | .ptpAnnounceTimeout _ _ => true
  | .ppsInputEdge _ _ ns => decide (ns.toNat < 1000000000)
  | .cxlLinkTrain _ width _ _ _ => decide (width.toNat ≤ 8)
  | .getLdInfo => true
  | .getLdAllocations => true
  | .setLdAllocations first range1 range2 => decide (range1.length = range2.length) && decide (first.val + range1.length ≤ 15)
  | .getQosControl => true
  | .setQosControl _ => true
  | .getQosStatus => true
  | .getQosAllocatedBw => true
  | .setQosAllocatedBw first v => decide (first.val + v.length ≤ 15)
  | .getQosBwLimit => true
  | .setQosBwLimit first v => decide (first.val + v.length ≤ 15)
  | .unsupportedOpcode _ _ => true
  | .hdmDecoderCommit _ _ _ => true
  | .hdmDecoderUncommit _ _ => true
  | .memRd _ _ r => aligned r.hpa.toNat 64
  | .memRdData _ _ hpa => aligned hpa.toNat 64
  | .memSpecRd _ _ hpa => aligned hpa.toNat 64
  | .memInv _ _ hpa => aligned hpa.toNat 64
  | .memInvNt _ _ hpa => aligned hpa.toNat 64
  | .memWr _ _ r _ _ => aligned r.hpa.toNat 64
  | .memWrPtl _ _ hpa _ _ _ => aligned hpa.toNat 64
  | .identifyMemoryDevice _ => true
  | .getHealthInfo _ => true
  | .getEventRecords _ _ => true
  | .clearEventRecords _ _ _ handles => decide (handles.length ≤ 255)
  | .getEventInterruptPolicy _ => true
  | .setEventInterruptPolicy _ _ => true
  | .getPoisonList _ => true
  | .getDeviceInfo _ => true
  | .dictionaryRead _ _ _ _ => true
  | .dictionaryWrite _ _ _ _ _ data => decide (data.length ≤ 4088)
  | .imageLoad _ _ _ data => decide (data.length ≤ 4088)
  | .attest _ _ _ => true
  | .cxlHotReset _ => true
  | .functionLevelReset _ => true
  | .cdatTableAccess _ _ => true
  | .doeDiscovery _ _ => true
  | .globalPersistentFlush _ _ => true
  | .ngpRead _ k => ngpWf k
  | .ngpWrite _ k => ngpWf k
  | .ngpImage _ k => ngpWf k
  | .ngpInfo _ k => ngpWf k
  | .sdoUpload _ => true
  | .sdoDownload _ => true
  | .sdoSegment _ => true
  | .sdoInvalidCommand _ => true
  | .nmtCommand _ => true
  | .heartbeat => true
  | .initFrame _ => true
  | .dataFrame _ => true
  | .ackFrame _ => true
  | .endFrame _ => true
  | .abortFrame _ => true
  | .transferTimeout _ => true
  | .command _ _ => true
  | .runEntry => true
  | .rate _ _ => true
  | .batch _ _ _ => true
  | .nonce => true
  | .auth _ _ => true
  | .close _ => true
  | .sessionTimeout => true
  | .authLockoutExpiry => true
  | .trust _ _ => true
  | .factoryok _ _ => true
  | .trouble _ _ _ => true
  | .program _ _ _ _ => true
  | .stage _ _ _ data => decide (data.length ≤ 4088)
  | .lcadvance _ _ => true
  | .ownerkey _ _ _ => true
  | .revoke _ _ => true
  | .svnfloor _ _ => true
  | .updcmdStart _ => true
  | .updcmdStop _ => true
  | .hubRoleSwap => true
  | .updateUnitComplete => true
  | .clusterFault _ _ _ => true
  | .eclipseLoadComplete _ => true
  | .eclipse _ _ => true
  | .release _ => true
  | .plannedEclipseTakeEffect _ => true
  | .releaseTakeEffect _ => true
  | .auditCrc _ _ => true
  | .auditRerunComplete _ _ => true
  | .handshakeWatchdogExpiry _ => true
  | .hubFence _ => true
  | .hubPathLoss _ => true
  | .reissue t => transactionWf t
  | .dieFence _ => true
  | .sourceMove _ _ => true
  | .mirrorArrayLoss _ _ => true
  | .troubleSet => true
  | .trbitsClear _ _ => true
  | .powerGood st => decide (st.otp.length ≤ 53) && decide (st.otpH1.length ≤ 53)
  | .porstReset _ => true
  | .bootComplete _ => true
  | .imageVerifyComplete => true
  | .configEntry => true
  | .thermalTrip _ _ => true
  | .otherSupplyOutOfRange _ => true
  | .snap _ => true
  | .snapshotComplete => true
  | .sampleCountdownExpiry _ => true
  | .seed _ _ => true
  | .tapReset => true
  | .extest _ => true
  | .samplePreload _ => true
  | .idcode => true
  | .clamp => true
  | .highz => true
  | .dbgctl _ => true
  | .dbgacc _ _ _ => true
  | .debugAccessTimeout => true
  | .dbgstat => true
  | .chal => true
  | .unlock _ _ => true
  | .bypass => true
  | .supplyExitThresholdFall _ => true
  | .hubHoldNotice _ => true
  | .portLinkUp _ _ _ => true
  | .cxlLinkDown _ => true
  | .configurationRequest _ _ _ _ _ => true
  | .nonceExpiry => true
  | .unlockLockoutExpiry => true
  | .canBusError _ _ _ => true
  | .busOffRecovery _ => true
  | .homeTakeoverComplete => true
  | .phyOrCommandParityFault _ _ _ => true

end Sys2Proof
end

