-- ==== Sys2Proof/Tests/Slice0.lean ====
section
/-! SUPPORT. The author's own tests: an ill-formed command for each check of WellFormed, worked examples of the spec, and for each
statement with hypotheses a state and operands that meet them (names begin with witness_). -/

namespace Sys2Proof.Tests
open Sys2Proof Sys2Proof.Machine

set_option Elab.async false

/-! ### WellFormed refuses -/

def pkt : AudioPkt := ⟨true, false, 0, 0, 0, 0, 96, 0, 0, true, false, 2, 6, 24, true, List.replicate 12 0, none, 100, 0⟩
def msg : NgpMsg := ⟨1, 0, 1, 0, 0, 0, 0, [], 0, true, 0x0A000063, 4660, 0x0A000001, 0x5342⟩
def cap0 : BusAttr := ⟨0, 0, 2, 0⟩

theorem test_wf_audio_channels : (Instr.audioPacketReceive 0 { pkt with nch := 0, samples := [] }).wf = false := by decide
theorem test_wf_audio_many_channels : (Instr.audioPacketReceive 0 { pkt with nch := 65 }).wf = false := by decide
theorem test_wf_audio_samples : (Instr.forwardedPacket 0 2 { pkt with nsamp := 7 }).wf = false := by decide
theorem test_wf_audio_good : (Instr.forwardedPacket 0 2 pkt).wf = true := by decide
theorem test_wf_frame : (Instr.frameReceive 0 ⟨65536, true, 0, 0, false, none, 0, .other⟩).wf = false := by decide +kernel
theorem test_wf_ngp : (Instr.ngpWrite 0 { msg with data := List.replicate 1025 0 }).wf = false := by decide +kernel
theorem test_wf_reissue_length : (Instr.reissue (.write cap0 0 0 0 false)).wf = false := by decide
theorem test_wf_reissue_line : (Instr.reissue (.write cap0 60 8 0 false)).wf = false := by decide
theorem test_wf_reissue_atomic : (Instr.reissue (.atomic cap0 4 .add true 0 none)).wf = false := by decide
theorem test_wf_playout : (Instr.playoutBlock 0 0 [(9216, 0)]).wf = false := by decide
theorem test_wf_register : (Instr.registerWrite cap0 4 0).wf = false := by decide
theorem test_wf_dram_read : (Instr.dramRead cap0 32 .good .good).wf = false := by decide
theorem test_wf_dram_write : (Instr.dramWrite cap0 32 0 ⟨0, .good, .good⟩).wf = false := by decide
theorem test_wf_pps : (Instr.ppsInputEdge 0 0 1000000000).wf = false := by decide
theorem test_wf_width : (Instr.cxlLinkTrain 0 9 0 true false).wf = false := by decide
theorem test_wf_allocations : (Instr.setLdAllocations 0 [1] []).wf = false := by decide
theorem test_wf_allocations_last : (Instr.setLdAllocations 14 [1, 1] [0, 0]).wf = false := by decide
theorem test_wf_weights : (Instr.setQosAllocatedBw 14 [1, 1]).wf = false := by decide
theorem test_wf_limits : (Instr.setQosBwLimit 14 [1, 1]).wf = false := by decide
theorem test_wf_mem_lines :
    ((Instr.memRd 0 0 ⟨8, false⟩).wf || (Instr.memRdData 0 0 8).wf || (Instr.memSpecRd 0 0 8).wf || (Instr.memInv 0 0 8).wf ||
      (Instr.memInvNt 0 0 8).wf || (Instr.memWr 0 0 ⟨8, false⟩ 0 false).wf || (Instr.memWrPtl 0 0 8 0 0 false).wf) = false := by decide
theorem test_wf_events : (Instr.clearEventRecords 0 .info false (List.replicate 256 0)).wf = false := by decide +kernel
theorem test_wf_parts :
    ((Instr.dictionaryWrite 0 0 0 true 0 (List.replicate 4089 0)).wf || (Instr.imageLoad 0 0 true (List.replicate 4089 0)).wf ||
      (Instr.stage .device 0 true (List.replicate 4089 0)).wf) = false := by decide +kernel
theorem test_wf_straps :
    (Instr.powerGood { State.reset.straps with otp := List.replicate 54 0 }).wf = false := by decide +kernel

/-! ### Arithmetic against the spec's own examples -/

-- 03 R98
theorem test_rnd_ties : (rndDiv 1 2, rndDiv (-1) 2, rndDiv 3 2, rndDiv (-3) 2, rndDiv 5 4) = (1, -1, 2, -2, 1) := by decide
-- 08 R260: lengths up to 65,535 are exact; beyond, in steps of a power of two
theorem test_lengths : (encodeLen 65535, encodeLen 65536, encodeLen 65537) = ((0, 65535), (1, 32768), (1, 32769)) := by decide +kernel
-- CRC-32C of "123456789"
theorem test_crc32c : crc32c [0x31, 0x32, 0x33, 0x34, 0x35, 0x36, 0x37, 0x38, 0x39] = 0xE3069283 := by decide +kernel

/-! ### States -/

/-- A value of an outcome's next state. -/
def after {α : Type} (o : Host.Outcome State Fault Refusal) (d : α) (f : State → α) : α := match o with | .next t => f t | _ => d

/-- The fetch of core `c`. -/
def fetchOf (s : State) (c : Nat) : (Option (Nat × Nat) × Nat) × State := (s.begun c).fetch c

/-- The device after it. -/
def got (s : State) (c : Nat) : State := (fetchOf s c).2

/-- Core `c` issues and its fetch succeeds from the instruction cache. -/
def ready (s : State) (c : Nat) : Bool := s.issues c && (s.core c).imprecise.isEmpty && decide ((fetchOf s c).1 = (none, 0)) &&
  !(got s c).stalled

theorem fetches_of_ready {s : State} {c : Nat} (h : ready s c = true) : s.Fetches c 0 (got s c) := by
  simp only [ready, Bool.and_eq_true, List.isEmpty_iff, decide_eq_true_eq, Bool.not_eq_true'] at h
  exact ⟨h.1.1.1, .inl h.1.1.2, Prod.ext h.1.2 rfl, h.2⟩

/-- The device with hub core 0 changed by `f`, its first line in the instruction cache. -/
def hub (f : CoreS → CoreS) : State := State.reset.modCore 0 fun x => f { x with icache := [0xE0000000000] }

/-- D registers 1 to 3 of the core hold these. -/
def regs (a b c : Word) (x : CoreS) : CoreS := { x with d := [(1, a), (2, b), (3, c)].filter fun p => p.2 ≠ 0 }

def s0 : State := hub id

theorem witness_fetches : s0.Fetches 0 0 (got s0 0) := fetches_of_ready (by decide +kernel)

/-- What the statements about core instructions ask of the core after its fetch. -/
def calm (s : State) : Bool :=
  ready s 0 && ((got s 0).core 0).shadows.isEmpty && ((got s 0).core 0).longq.isEmpty && ((got s 0).core 0).delay.isNone &&
    ((got s 0).core 0).frame.isNone && (got s 0).posted.isEmpty && !((got s 0).core 0).fencing

theorem witness_calm : calm s0 = true := by decide +kernel

/-! ### Core instructions -/

def core (s : State) : CoreS := (got s 0).core 0

/-- The root data capability at a cursor. -/
def rw (a : Nat) : Cap := (aReset 0).setCur a

/-- A1, A2 … of the core hold these. -/
def caps (l : List (Nat × Cap)) (x : CoreS) : CoreS := { x with a := l.foldl (fun m p => SMap.set aReset m p.1 p.2) x.a }

def atLvl (n : Nat) (x : CoreS) : CoreS := x.setPs 0 2 n

/-- The translation of an access of core 0 after its fetch, where it succeeds. -/
def tr (s : State) (dom va : Nat) (n : Need) : XRes × State := (got s 0).translate 16 dom (core s).lvl va n

/-- An operation that comes out well and leaves the core ready to retire. -/
def fine {α : Type} (c : EStateM.Result Stop Run α) : Bool := match c with
  | .ok _ r => r.c == 0 && r.st.posted.isEmpty && !r.st.stalled && (r.st.core 0).shadows.isEmpty && (r.st.core 0).longq.isEmpty
  | .error _ _ => false

/-- The run of core 0 after its fetch. -/
def run0 (s : State) : Run := ⟨got s 0, 0, 0, 0, false⟩

def s1 : State := hub (regs 5 7 (2 ^ 63))
def s2 : State := hub fun x => caps [(1, rw 0x1000), (2, rw 0x2000), (3, Cap.null)] (regs 0x7FFFFFFFFFFFFFFF 1 0x8000000000000000 x)

theorem witness_calm_registers : calm s1 = true ∧ calm s2 = true := by decide +kernel

-- DInstructionsWriteTheirTableResult
theorem witness_add : dResult (core s1) (.add 0 4 1 2) = some (0, 4, 12) := by decide +kernel
theorem witness_sra : dResult (core s1) (.sra 0 4 3 2) = some (0, 4, 0xFF00000000000000) := by decide +kernel

-- OverflowIsTakenPrecisely: each clause at the boundary
theorem witness_overflow : ready s2 0 = true ∧
    ((core s2).rd 1).toInt + ((core s2).rd 2).toInt = 2 ^ 63 ∧ ((core s2).rd 3).toInt - ((core s2).rd 2).toInt = -2 ^ 63 - 1 ∧
    ((core s2).rd 1).toInt + (1 : BitVec 16).toInt = 2 ^ 63 ∧ ((core s2).rd 3).toInt * ((core s2).rd 3).toInt = 2 ^ 126 := by
  decide +kernel

-- MultiplyResultsHaveExposedLatencyOne
theorem witness_mul : mulResult (core s1) (.mul 0 4 1 2) = some (0, 4, 35) := by decide +kernel

-- ShadowedWritesAppearOnTime: the last clause's register
theorem witness_shadow : (core s1).physD (4 : BitVec 5).toNat = 4 := by decide +kernel

-- AccumulatorInstructionsWriteTheirSum
theorem witness_mac : accResult (core s1) (.clrac 0 1 3) = some (0, 1, 4) := by decide +kernel

-- CapabilityInstructionsWriteTheirTableResult
theorem witness_cmove : aResult (core s2) (.cmove 0 3 1) = some (0, 3, (core s2).ra 1) := by decide +kernel

-- SetBoundsNarrowsACapability, at a length that is exact and at one that is not
theorem witness_setbounds : ((core s2).ra 1).tag = true ∧ ((core s2).ra 1).sealed = false ∧ ((core s2).rd 2).toNat = 1 ∧
    encodeLen 1 = (0, 1) ∧ ((core s2).ra 1).base ≤ ((core s2).ra 1).cur ∧ ((core s2).ra 1).cur + 1 * 2 ^ 0 ≤ ((core s2).ra 1).top := by
  decide +kernel
def s3 : State := hub fun x => caps [(1, rw 0)] (regs 65537 0 0 x)
theorem witness_setbounds_rounded : calm s3 = true ∧ ((core s3).rd 1).toNat = 65537 ∧ encodeLen 65537 = (1, 32769) ∧
    ((core s3).ra 1).base ≤ ((core s3).ra 1).cur ∧ ((core s3).ra 1).cur + 32769 * 2 ^ 1 ≤ ((core s3).ra 1).top := by decide +kernel

-- CrossDomainCallEntersTheGate, into another domain
def code (a dom otype : Nat) : Cap := ((Cap.rootExec a).setDom dom).setOtype otype
def s4 : State := hub fun x => caps [(1, code 0x1000 2 63), (2, ((rw 0x2000).setDom 2).setOtype 63)] x
theorem witness_ccall : calm s4 = true ∧ ((core s4).ra 1).tag = true ∧ ((core s4).ra 2).tag = true ∧ ((core s4).ra 1).otype = 63 ∧
    ((core s4).ra 2).otype = 63 ∧ ((core s4).ra 1).dom = ((core s4).ra 2).dom ∧ ((core s4).ra 1).has 2 = true ∧
    ((core s4).ra 2).has 2 = false ∧ ((core s4).ra 1).cur % 4 = 0 ∧ ((core s4).ra 1).outside ((core s4).ra 1).cur 4 = none ∧
    ((core s4).ra 1).dom ≠ (core s4).pcc.dom := by decide +kernel

/-! ### Loads, stores and atomics -/

/-- A line of the data cache. -/
def aLine : DLine := ⟨0x8899AABBCCDDEEFF, 1, false, none, 0, 2, false, []⟩
def s5 : State := hub fun x => (caps [(1, rw 0x1000), (2, rw 0x2000)] (regs 5 7 0x1122334455667788 x)).setLine 0x1000 aLine

-- LoadsReadTheCachedBytes
theorem witness_load : calm s5 = true ∧ ((core s5).ra 1).access rLD ((core s5).ea (.imm 1 0) 8) 8 8 = none ∧
    (tr s5 0 0x1000 .read).1 = .ok 0x1000 false ∧ (tr s5 0 0x1000 .read).2 = got s5 0 ∧ (core s5).line 0x1000 = some aLine ∧ aLine.parity = false := by
  decide +kernel
theorem witness_loads_form : (loadOf (.ld 0 4 (.imm 1 0))).map (fun l => (l.1, l.2.1, l.2.2.1, l.2.2.2.1, l.2.2.2.2.1)) =
    some (0, 4, .imm 1 0, 8, 8) := by decide

-- FillsCopyMemory and LoadsThatMissFillTheirLine
theorem witness_fill : isRegPlace ((got s5 0).loc 0x2040) = false ∧ ((got s5 0).fill 0 0 2 0x2040 false).1 = none ∧
    (core s5).line 0x2040 = none ∧ (tr s5 0 0x2040 .read).1 = .ok 0x2040 false ∧ (tr s5 0 0x2040 .read).2 = got s5 0 ∧
    ((core s5).ra 2).access rLD ((core s5).ea (.imm 2 8) 8) 8 8 = none ∧
    (((((got s5 0).fill 0 0 2 0x2040 false).2).core 0).line 0x2040).isSome = true ∧
    (((got s5 0).fill 0 0 2 0x2040 false).2).posted = [] ∧ ((((got s5 0).fill 0 0 2 0x2040 false).2).core 0).Quiet ∧
    ((((got s5 0).fill 0 0 2 0x2040 false).2).core 0).frame = none := by
  unfold CoreS.Quiet
  decide +kernel

-- StoresWriteTheCachedLine
theorem witness_store : storeOf (core s5) (.sd 0 3 (.imm 1 0)) = some (0, .imm 1 0, 8, natLE 8 0x1122334455667788) ∧
    ((core s5).ra 1).access rST ((core s5).ea (.imm 1 0) 8) 8 8 = none ∧ (tr s5 0 0x1000 .write).1 = .ok 0x1000 false ∧
    (tr s5 0 0x1000 .write).2 = got s5 0 ∧ aLine.wperm = true := by decide +kernel

-- DeviceStoresReachOnlyTheirBytes: domain 1 maps page 1 to itself as device memory
def devPage (x : CoreS) : CoreS :=
  (x.setSys 0x180 (BitVec.ofNat 64 (0x38F + 12 * 1024 + 65536 + 2 ^ 32))).setSys 0x181 1
def s6 : State := hub fun x => devPage (caps [(1, (rw 0x1000).setDom 1)] (regs 5 7 9 x))
theorem witness_device_store : calm s6 = true ∧ ((core s6).ra 1).access rST ((core s6).ea (.imm 1 0) 8) 8 8 = none ∧
    (tr s6 1 0x1000 .write).1 = .ok 0x1000 true ∧ (tr s6 1 0x1000 .write).2 = got s6 0 ∧
    ((got s6 0).busWrite (coreAttr 0 1 (core s6).lvl) kWrite 0x1000 (natLE 8 9) none).1 = .ok ∧
    isRegPlace ((got s6 0).loc 0x1000) = false ∧ (∀ w ∈ wordsOf 0x1000 8, w ∉ (got s6 0).poison) ∧
    ((got s6 0).busWrite (coreAttr 0 1 (core s6).lvl) kWrite 0x1000 (natLE 8 9) none).2.posted = [] ∧
    ((got s6 0).busWrite (coreAttr 0 1 (core s6).lvl) kWrite 0x1000 (natLE 8 9) none).2.stalled = false := by decide +kernel

-- CapabilityLoadsAndStoresCarryTheTag
theorem witness_clc_csc : ((core s5).ra 1).access rLD 0x1000 16 16 = none ∧
    ((core s5).ra 1).access (rST + (rSC + (if ((core s5).ra 2).has 6 then 0 else rSL))) 0x1000 16 16 = none ∧
    ((core s5).ra 2).tag = true ∧ unsigned 44 ((((core s5).ra 1).cur : Int) + (0 : BitVec 17).toInt * 16) = 0x1000 := by decide +kernel

-- AtomicsReadAndWriteInOneStep
def s6a : State := ((got s5 0).reaches (coreAttr 0 0 2) kAtomic 0x2000).2
theorem witness_atomic : ((core s5).ra 2).access (rLD + rST) 0x2000 8 8 = none ∧ (tr s5 0 0x2000 .both).1 = .ok 0x2000 false ∧
    (tr s5 0 0x2000 .both).2 = got s5 0 ∧ (core s5).lvl = 2 ∧ (core s5).line 0x2000 = none ∧
    ((got s5 0).reaches (coreAttr 0 0 2) kAtomic 0x2000).1 = .ok ∧ s6a.loc 0x2000 = .dram 0x2000 ∧ s6a.uncorr 0x2000 8 = false ∧
    s6a.dramDown 0x2000 = false ∧ (s6a.core 0).shadows = [] ∧ (s6a.core 0).longq = [] ∧ s6a.posted = [] ∧
    s6a.poison = [] ∧ s6a.stalled = false := by decide +kernel

-- MultiAccessInstructionsCompleteAtTheEnd, clause by clause
def s7 : State := hub fun x =>
  { (caps [(1, rw 0x1000), (2, rw 0x2000), (14, rw 0x3000)] (regs 1 2 3 x)) with
      dcache := [(0x1000, { aLine with wdeny := none }), (0x2000, aLine), (0x2F80, aLine), (0x2FC0, aLine), (0x3000, aLine), (0x3040, aLine)] }
theorem witness_ldm : calm s7 = true ∧ (got s7 0).fastDue 0 = false ∧ (got s7 0).normalDue 0 = none ∧ maskRegs 6 = [1, 2] ∧ ((core s7).ra 1).access rLD 0x1000 (2 * 8) 8 = none ∧
    fine (ldmGo ((core s7).ra 1) 8 [1, 2] 0x1000 [] (run0 s7)) = true := by decide +kernel
theorem witness_stm : ((core s7).ra 1).access rST 0x1000 (2 * 8) 8 = none ∧
    fine (stmGo ((core s7).ra 1) (core s7) .globals [1, 2] 0x1000 (run0 s7)) = true := by decide +kernel
theorem witness_ccopy : ((core s7).ra 2).access rLD 0x2000 (16 * 1) 16 = none ∧ ((core s7).ra 1).access rST 0x1000 (16 * 1) 16 = none ∧
    ((core s7).rd 1).toNat % 256 = 1 ∧
    fine (ccopyGo ((core s7).ra 1) ((core s7).ra 2) (((core s7).ra 2).has 3 && ((core s7).ra 1).has 4) 1 0 (run0 s7)) = true := by
  decide +kernel
theorem witness_macb : ((core s7).ra 1).access rLD 0x1000 4 4 = none ∧ ((core s7).ra 2).access rLD 0x2000 4 4 = none ∧
    fine (macbGo ((core s7).ra 1) ((core s7).ra 2) .ss 1 0 0 (run0 s7)) = true := by decide +kernel
theorem witness_wspill : (core s7).delay = none ∧ 1 ≤ (core s7).lvl ∧ (core s7).frame = none ∧
    ((core s7).ra 14).access rST 0x3000 128 8 = none ∧
    fine (wspillGo ((core s7).ra 14) ((windowRegs (core s7).old).map (core s7).dAt) 0x3000 (run0 s7)) = true := by decide +kernel
theorem witness_wfill : (((core s7).ra 14).adv (-128)).access rLD 0x2F80 128 8 = none ∧
    fine (wfillGo (((core s7).ra 14).adv (-128)) 16 0x2F80 [] (run0 s7)) = true := by decide +kernel

/-! ### Branches, windows, the long unit -/

-- ConditionalBranchesFollowTheirCondition: taken in and out of bounds, not taken with and without annulling
theorem witness_branch : branchOf (core s1) (.bltu 0 1 2 false 3) = some (0, false, 3, true) ∧
    branchOf (core s1) (.bltu 0 2 1 false 3) = some (0, false, 3, false) ∧
    branchOf (core s1) (.beqz 0 1 true 3) = some (0, true, 3, false) ∧
    (core s1).pcc.outside (unsigned 44 (((core s1).pcc.cur : Int) + 4 * 3)) 4 = none := by decide +kernel
def s8 : State := hub fun x => { regs 5 7 1 x with pcc := Cap.make 0xE0000000000 0xE0000000000 8 0 4 0 0 true }
theorem witness_branch_outside : calm s8 = true ∧ branchOf (core s8) (.bltu 0 1 2 false 3) = some (0, false, 3, true) ∧
    ((core s8).pcc.outside (unsigned 44 (((core s8).pcc.cur : Int) + 4 * 3)) 4).isSome = true := by decide +kernel

-- JumpsGoToTheirTargetAndLink, WindowCallsAndReturnsMoveTheWindow: 1, 10, 11 and 12 resident windows
def s9 (cwp old : Nat) : State := hub fun x =>
  (caps [(1, code 0xE0000000020 0 0), (13, code 0xE0000000040 0 0)] x).setCwp cwp |>.setSys 3 (BitVec.ofNat 64 old)
def jumps (k : Cap) : Bool :=
  k.tag && !k.sealed && k.has 2 && decide (k.cur % 4 = 0) && (k.outside k.cur 4).isNone
def resident (x : CoreS) : Nat := (x.cwp + 12 - x.old % 12) % 12 + 1
theorem witness_jumps : calm (s9 1 0) = true ∧ jumps ((core (s9 1 0)).ra 1) = true ∧ jumps ((core (s9 1 0)).ra 13) = true ∧
    (core (s9 1 0)).pcc.outside (unsigned 44 (((core (s9 1 0)).pcc.cur : Int) + 4 * 2)) 4 = none ∧
    resident (core (s9 1 0)) = 2 ∧ (core (s9 1 0)).cwp ≠ (core (s9 1 0)).old := by decide +kernel
theorem witness_windows : calm (s9 9 0) = true ∧ calm (s9 10 0) = true ∧ calm (s9 0 1) = true ∧ calm (s9 3 3) = true ∧
    resident (core (s9 9 0)) = 10 ∧ resident (core (s9 10 0)) = 11 ∧ resident (core (s9 0 1)) = 12 ∧
    (core (s9 3 3)).cwp = (core (s9 3 3)).old := by decide +kernel

/-- Twelve resident windows after a bad write of OLD. -/
def s9b : State := (s9 0 1).modCore 0 fun x => { x with badOld := true }
theorem witness_bad_old : calm s9b = true ∧ (core s9b).badOld = true ∧ (core (s9 0 1)).badOld = false ∧ resident (core s9b) = 12 ∧
    jumps ((core s9b).ra 1) = true ∧ (core s9b).pcc.outside (unsigned 44 (((core s9b).pcc.cur : Int) + 4 * 2)) 4 = none := by decide +kernel

-- TheDelaySlotMovesTheWindow
def s10 : State := hub fun x => { x with delay := some ⟨Cap.rootExec 0xE0000000040, .call⟩ }
theorem witness_slot : ready s10 0 = true ∧ (core s10).shadows = [] ∧ (core s10).longq = [] ∧
    (core s10).delay = some ⟨Cap.rootExec 0xE0000000040, .call⟩ ∧ (core s10).cwp < 12 := by decide +kernel

-- LongOperationsQueueOrCompletePrecisely: empty queue, one in flight, PRE with no enabled event
def aLong : LongOp := ⟨5, 9, none, 0xE0000000000, 2, 0⟩
def s11 : State := hub fun x => { regs 20 3 0 x with longq := [aLong] }
def s12 : State := hub fun x => (regs 20 3 0 x).setPs 4 1 1
theorem witness_long : (longResult (core s1) (.divu 0 4 2 1) == some (0, 4, 1, none, 68)) = true ∧ (core s1).pre = false := by
  decide +kernel
theorem witness_long_second : ready s11 0 = true ∧ (core s11).shadows = [] ∧ (core s11).pre = false ∧ (core s11).longq = [aLong] ∧
    (longResult (core s11) (.divu 0 4 1 2) == some (0, 4, 6, none, 68)) = true := by decide +kernel
theorem witness_long_precise : calm s12 = true ∧ (core s12).pre = true ∧
    (longResult (core s12) (.divu 0 4 1 3) == some (0, 4, BitVec.allOnes 64, some 0x0E, 68)) = true ∧ (core s12).dze = false := by
  decide +kernel

/-- A latch of 256 bytes at 0x4000, and a vector. -/
def latched (x : CoreS) : CoreS :=
  let x := ((x.setCapSys 0x106 (Cap.rootExec 0xE0000000100)).setCapSys 0x206 (Cap.rootExec 0xE0000000200)).setCapSys 0x10A
    (Cap.rootExec 0xE0000000300)
  let x := (x.setCapSys 0x105 (rw 0x4000)).setCapSys 0x205 (rw 0x5000)
  { x with xsaLatch := ⟨true, 0x4000, 256, 0x4000⟩, mxsaLatch := ⟨true, 0x5000, 256, 0x5000⟩ }

-- TheOldestLongOperationCompletes: with an enabled event, and one already pending
def s13 : State := hub fun x => { (x.setPs 5 1 1) with longq := [⟨5, 9, some 0x0E, 0xE0000000000, 2, 0⟩], imprecise := [(0x0F, 0xE0000000004)] }
theorem witness_long_done : s13.coreActs 0 = true ∧ (s13.core 0).longq = [⟨5, 9, some 0x0E, 0xE0000000000, 2, 0⟩] ∧
    (s13.core 0).dze = true ∧ s13.issues 0 = true ∧ (s13.core 0).imprecise = [(0x0F, 0xE0000000004)] ∧
    (s13.core 0).delay = none := by decide +kernel
def s13b : State := hub fun x => { latched x with imprecise := [(0x0F, 0xE0000000004)] }
theorem witness_imprecise : s13b.issues 0 = true ∧ (s13b.core 0).CanEnter (excLevel 0x0F (s13b.core 0).lvl) ∧ (s13b.core 0).lvl = 2 ∧
    s13b.posted = [] := by
  unfold CoreS.CanEnter CoreS.Quiet
  decide +kernel

/-! ### System registers, exceptions, interrupts -/

def s14 : State := hub fun x => latched (caps [(1, rw 0x1000), (2, Cap.rootExec 0x1000)] (regs 5 7 9 x))

-- SystemRegistersMoveByTheirKindAndLevel
theorem witness_sysregs : calm s14 = true ∧ (core s14).lvl = 2 ∧ sysKind 0x201 = 1 ∧ sysReadAt 0x201 = 2 ∧ sysWriteAt 0x201 = 2 ∧
    sysKind 0x100 = 2 ∧ sysReadAt 0x100 = 1 ∧ sysWriteAt 0x100 = 1 ∧ sysWriteAt 0x205 = 2 ∧ sysWriteAt 0x10A = 1 := by decide +kernel
theorem witness_latch : ((core s14).ra 1).access (rLD + rST) 0x1000 0 16 = none ∧ ((core s14).ra 1).base ≤ 0x1000 ∧
    0x1000 + 256 ≤ ((core s14).ra 1).top ∧ ((got s14 0).makeLatch 0 ((core s14).ra 1) 2).1 = .ok ⟨true, 0x1000, 256, 0x1000⟩ ∧
    ((core s14).ra 2).tag = true ∧ ((core s14).ra 2).sealed = false ∧ ((core s14).ra 2).has 2 = true ∧
    ((core s14).ra 2).outside ((core s14).ra 2).cur 0x80 = none := by decide +kernel
theorem witness_latch_ready : ((got s14 0).makeLatch 0 ((core s14).ra 1) 2).2.Ready 0 ∧
    ((got s14 0).reload 0 0x10A (some ((core s14).ra 2))).Ready 0 ∧ ((got s14 0).reload 0 0x206 (some ((core s14).ra 2))).Ready 0 ∧
    (State.fetchGo 0 ((core s14).ra 2) 2 (fetchParts 0x1000 32) (got s14 0)).1 = some (List.replicate 32 0) := by
  unfold State.Ready CoreS.Quiet
  decide +kernel

-- PrivilegeIsChecked
def s15 : State := hub (atLvl 0)
theorem witness_privilege : ready s15 0 = true ∧ (core s15).delay = none ∧ (core s15).frame = none ∧ (core s15).lvl = 0 ∧
    supervisorOnly (.wfi 0) = some (0, encX 0x0E 0) ∧ sysKind 0x101 = 1 ∧ sysReadAt 0x101 = 1 ∧ sysWriteAt 0x101 = 1 := by
  decide +kernel

-- FenceCompletesAfterTheDrain
theorem witness_fence : ((hub fun x => { x with fencing := true }).core 0).fencing = true ∧
    ((hub fun x => { x with fencing := true }).core 0).frame = none := by decide +kernel

-- CacheRangeInstructionsActOnEachLine: DFLUSH, DINV with a line covered in part, IFLUSH
def s16 : State := hub fun x => { caps [(1, rw 0x1000)] (regs 96 7 9 x) with dcache := [(0x1000, aLine), (0x1040, { aLine with dirty := true })] }
def linesOf (n : Need) : List (Nat × Nat) :=
  match linesGo ((core s16).ra 1) n (rangeLines 0x1000 96) (run0 s16) with
  | .ok ps _ => ps
  | .error _ _ => []
theorem witness_ranges : calm s16 = true ∧ ((core s16).ra 1).tag = true ∧ ((core s16).ra 1).sealed = false ∧
    ((core s16).rd 1).toNat = 96 ∧ ((core s16).ra 1).rights &&& rLD = rLD ∧ ((core s16).ra 1).rights &&& rST = rST ∧
    ((core s16).ra 1).outside 0x1000 96 = none ∧ rangeLines 0x1000 96 = [0x1000, 0x1040] ∧
    fine (linesGo ((core s16).ra 1) .read (rangeLines 0x1000 96) (run0 s16)) = true ∧
    fine (linesGo ((core s16).ra 1) .write (rangeLines 0x1000 96) (run0 s16)) = true ∧
    fine (linesGo ((core s16).ra 1) .any (rangeLines 0x1000 96) (run0 s16)) = true ∧
    linesOf .read = [(0x1000, 0x1000), (0x1040, 0x1040)] := by decide +kernel
/-- The device after DFLUSH, and after IFLUSHA and BINV, is ready for the instruction to retire. -/
theorem witness_ranges_ready : State.Ready ((linesOf .read).foldl (fun u p => u.evict 0 p.2) (got s16 0)) 0 ∧
    (((got s16 0).modCore 0 fun y => { y with icache := [] }).reload 0 0 none).Ready 0 ∧
    ((((got s16 0).modCore 0 fun y => (upTo 16).foldl (fun y i => y.setSys (0x180 + i) 0) y).relatch 0 false).relatch 0 true).Ready 0 := by
  unfold State.Ready CoreS.Quiet
  decide +kernel

-- WriteBackStoresTheLine
theorem witness_write_back : (s16.core 0).line 0x1040 = some { aLine with dirty := true } ∧
    ((s16.coreEv 0 1 6 1 (s16.core 0).pcc.cur).busWrite (coreAttr 0 0 2) kWriteBack 0x1040 (natLE 64 0x8899AABBCCDDEEFF) none).1 = .ok ∧
    aLine.parity = false ∧ s16.loc 0x1040 = .dram 0x1040 ∧ s16.dramDown 0x1040 = false := by decide +kernel

-- TrapsRaiseTheirCause: at M and at U
def s14u : State := s14.modCore 0 (atLvl 0)
theorem witness_traps : calm s14 = true ∧ (core s14).CanEnter 2 ∧ calm s14u = true ∧ (core s14u).lvl = 0 ∧ (core s14u).CanEnter 1 ∧
    decodeCore 0 0 = none ∧ (got s14u 0).inProgram 0 = false ∧ (0x7F02 : BitVec 16).toNat ≠ 0x7F01 := by
  unfold CoreS.CanEnter CoreS.Quiet
  decide +kernel

-- ExceptionEntrySavesAndVectors at both levels
theorem witness_entry : (s14.core 0).shadows = [] ∧ (s14.core 0).longq = [] ∧ (s14.core 0).frame = none ∧ (s14.core 0).fb = false ∧
    (s14.core 0).mxsaLatch.valid = true ∧ (s14.core 0).xsaLatch.valid = true := by decide +kernel

-- DoubleFaultsGoToTheMonitor: the latch not valid; DFBUSY 1 and 0
def s17 : State := hub fun x => x.setSys 0x207 1
theorem witness_double_fault : (s0.core 0).shadows = [] ∧ (s0.core 0).frame = none ∧ (s0.core 0).mxsaLatch.valid = false ∧
    getBits ((s0.core 0).sysReg 0x207) 0 1 = 0 ∧ (s17.core 0).shadows = [] ∧ (s17.core 0).frame = none ∧
    (s17.core 0).xsaLatch.valid = false ∧ getBits ((s17.core 0).sysReg 0x207) 0 1 = 1 := by decide +kernel

-- ReturnsRestoreWhatEntrySaved: RETX at M to a slot, RETF with FB and without
def s18 : State := hub fun x =>
  (((((latched x).setCapSys 0x200 (Cap.rootExec 0xE0000000010)).setCapSys 0x204 (Cap.rootExec 0xE0000000020)).setSys 0x202 0x101).setSys
    0x201 1).setSys 0x109 0x1001
def s19 : State := hub fun x => ((latched x).setPs 12 1 1).setSys 0x109 0x1001
theorem witness_returns : calm s18 = true ∧ (core s18).lvl = 2 ∧ getBits ((core s18).sysReg 0x202) 8 1 = 1 ∧
    getBits ((core s18).sysReg 0x201) 0 2 ≤ (core s18).lvl ∧ jumps ((core s18).capSys 0x200) = true ∧
    jumps ((core s18).capSys 0x204) = true ∧ (core s18).fb = false ∧ calm s19 = true ∧ 1 ≤ (core s19).lvl ∧
    (core s19).fb = true := by decide +kernel

-- InterruptsEnterByTheirSource: TIDE, LATTICE's absence, SOFT
def s20 (fe : Nat) (p : Word) : State := hub fun x => ((((latched x).setPs 0 2 0).setPs 2 1 1).setPs 3 1 fe |>.setSys 8 p).setSys 9 0x1F03
theorem witness_interrupts : (s20 1 1).interruptible 0 = true ∧ ((s20 1 1).core 0).shadows = [] ∧ ((s20 1 1).core 0).fe = true ∧
    ((s20 1 1).core 0).lvl ≠ 2 ∧ (s20 1 1).asserted 0 % 4 = 1 ∧ (s20 1 0x1000).interruptible 0 = true ∧
    ((s20 1 0x1000).core 0).ie = true ∧ ((s20 1 1).core 0).longq = [] ∧ (s20 1 1).posted = [] ∧
    ((s20 1 0x1000).core 0).xsaLatch.valid = true ∧ ((s20 1 0x1000).core 0).lvl ≤ 2 ∧ (s20 1 0x1000).asserted 0 = 0x1000 := by decide +kernel

-- TheFrameDrainsToTheSaveArea
def aFrame : FrameBuf := ⟨⟨true, 0x4000, 256, 0x4000⟩, 0, List.replicate 160 7, 0, 2, 0x10⟩
def s21 : State := hub fun x => { x with frame := some aFrame }
theorem witness_drain : (s21.core 0).frame = some aFrame ∧ s21.coreActs 0 = true ∧ s21.stalled = false ∧
    (State.drainGo 0 aFrame frameGranules s21).2.stalled = false ∧ (State.drainGo 0 aFrame frameGranules s21).1 = none ∧ (State.drainGo 0 aFrame frameGranules s21).2.posted = [] := by
  decide +kernel

-- SamplingIntervalsFollowTheLfsr: with and without a record held
def s22 (held : Bool) : State := (s0.setBit (sampBase 0) 0 true).setBit (sampBase 0 + 0x10) 63 held
theorem witness_sampling : (s22 false).bit (sampBase 0) 0 = true ∧ (s22 true).bit (sampBase 0) 0 = true ∧
    (s22 false).bit (sampBase 0 + 0x10) 63 = false ∧ (s22 true).bit (sampBase 0 + 0x10) 63 = true ∧
    (s22 false).dieActs (coreDie 0) = true ∧ (s22 true).dieActs (coreDie 0) = true := by decide +kernel

/-! ### Block tables -/

/-- Domain 1's table of one entry at 0x10000, as the package die `d` has it. -/
def anEntry (dBit : Nat) : BitVec 128 := BitVec.ofNat 128 (0x383 + 4 * dBit + 12 * 1024 + 65536 + 2 ^ 32 + 5 * 2 ^ 64)
def tableOf (d dBit : Nat) (s : State) : State :=
  { s.setRg (gateBlock d + 0xF008) (BitVec.ofNat 64 (2 ^ 63 + 0x10000 + 1)) with
      mem := memWriteN s.mem 0x10000 (natLE 16 (anEntry dBit).toNat) }
def t1 : State := tableOf 0 1 s0
def t2 : State := tableOf 0 0 (hub fun x => (x.setSys 0x180 ((anEntry 0).setWidth 64)).setSys 0x181 5)

-- WalksPlaceAndXbinvDiscardsCopies
theorem witness_tables_act : s0.dieActs 7 = true ∧ s0.dieActs 1 = true := by decide +kernel
theorem witness_walk : getBits (t1.dtb 0 1) 63 1 = 1 ∧
    (State.walkScan 16 1 (getBits (t1.dtb 0 1) 12 32 * 4096) 0x1000 (getBits (t1.dtb 0 1) 0 9) 0 none
      (t1.count 0 (gateUnit 0) 7 2 1 ⟨some (reqWalkMid 16), some 1, some 0x1000⟩)).1 = .hit 0 (anEntry 1) ∧
    btField (anEntry 1) 1 1 = 1 := by decide +kernel
theorem witness_dirty : btV (t2.copyAt 16 1 0) = true ∧ btField (t2.copyAt 16 1 0) 2 1 = 0 ∧ btDom (t2.copyAt 16 1 0) = 1 ∧
    (t2.dirty 16 1 0).1 = .made ∧
    (t2.dirty 16 1 0).2.stalled = false ∧ getBits (t2.dtb (reqDie 16) 1) 63 1 = 1 ∧ t1.copyPtr 16 1 < 8 ∧ t1.stalled = false := by
  decide +kernel

/-! ### The tide and HOLD -/

/-- The device in a state of Table 14-4. -/
def inDev (n : Nat) : State := { State.reset with dev := n }

-- TheTideAdvancesByOnePosition: with and without a step due
def t3 (due : Bool) (n : Nat) : State := (inDev n).setGen 0 ⟨5, 0, 0, true, due, 0⟩
theorem witness_tide : (t3 true 2).active < 2 ∧ ((t3 true 2).gen 0).stepDue = true ∧ (t3 true 2).live = false ∧
    (t3 true 3).live = true ∧ (3 : Nat) ∉ (t3 true 3).fenced ∧ (t3 true 3).dieActs 0 = true := by decide +kernel

-- GeneratorStatesFollowTheirEvents
def t4 (st : Nat) (v : Bool) (ph n : Nat) : State := (((inDev n).setGen 0 ⟨5, 0, 0, v, false, 0⟩).setFld (hubReg 0 6) 0 2 st).setFld (hubReg 0 6) 16 16 ph
theorem witness_generator : (t4 1 false 0 3).fld (hubReg 0 6) 0 2 = 1 ∧ ((t4 1 false 0 3).gen 0).valid = false ∧
    (t4 1 true 65436 3).fld (hubReg 0 6) 0 2 = 1 ∧ ((t4 1 true 65436 3).gen 0).valid = true ∧
    (signed 16 ((t4 1 true 65436 3).fld (hubReg 0 6) 16 16)).natAbs = 100 ∧
    (t4 2 false 0 3).fld (hubReg 0 6) 0 2 = 2 ∧ ((t4 2 false 0 3).gen 0).valid = false ∧ (t4 2 false 0 3).live = true ∧
    (t4 2 false 0 2).live = false := by decide +kernel

-- LocalTicksTakeTheActiveHubsPosition: a lattice die and a hub, in HOLD and not
def t5 (held : List Nat) (dev : Nat := 3) : State := ({ inDev dev with held := held }.modDie 4 fun x => { x with msg0 := some 6, tide := 5, tideValid := true }).modDie
  0 fun x => { x with msg0 := some 6, tide := 5, tideValid := true }
theorem witness_local_tick : (4 : Nat) ∉ (t5 []).fenced ∧ ((t5 []).die 4).msg0 = some 6 ∧ ((t5 []).die 4).tide = 5 ∧
    (t5 []).tickPos 4 = some 6 ∧ (4 : Nat) ∉ (t5 []).held ∧ (t5 []).tickPos 0 = some 6 ∧ (4 : Nat) ∈ (t5 [4]).held ∧
    (t5 [4]).tickPos 4 = some 6 ∧ (t5 [] 2).live = false ∧ (t5 [] 2).posted = [] ∧ (t5 [] 2).tickPos 4 = some 6 ∧
    ((t5 [] 2).die 4).tide + 1 = 6 := by decide +kernel

-- HoldEntryKeepsTheState, TheHoldExitConditionIsCounted
theorem witness_hold : (4 : Nat) ∉ (inDev 3).fenced ∧ (4 : Nat) ∉ (inDev 3).held ∧ ((inDev 3).die 4).up = true ∧
    ((t5 [4]).die 4).exitMet = false ∧
    (((t5 [4]).modDie 4 fun x => { x with exitCount := true }).die 4).exitCount = true := by decide +kernel

-- HubHoldMovesTheDuties
def t6 : State := { inDev 3 with held := [0] }
theorem witness_hub_hold : (0 : Nat) ∈ t6.held ∧ (t6.die 0).noticed = false ∧ t6.dieActs 1 = true := by decide +kernel

-- DiesRejoinAtABlockBoundary
def t7 (d : Nat) : State := { inDev 5 with held := [d], active := 1 }.modDie d fun x => { x with exitMet := true, tide := 32 }
theorem witness_rejoin : (4 : Nat) ∈ (t7 4).held ∧ ((t7 4).die 4).exitMet = true ∧ ((t7 4).die 4).tide % 16 = 0 ∧
    (t7 4).held = [4] ∧ (t7 4).dev = 5 ∧ (0 : Nat) ∈ (t7 0).held ∧ ((t7 0).die 0).exitMet = true ∧
    ((t7 0).die 0).tide % 16 = 0 ∧ (t7 0).dieActs (t7 0).active = true ∧ (t7 0).active ≠ 0 := by decide +kernel

-- ResettingADieFencesIt: both sides of the threshold, a lattice die, a hub, and a hub whose other hub is fenced
theorem witness_thermal : (140 : Int) ≤ (140 : BitVec 32).toInt ∧ (139 : BitVec 32).toInt < 140 := by decide
theorem witness_reset_die : (4 : Nat) ∉ (t5 [4]).fenced ∧ (4 : Nat) ∈ (t5 [4]).held ∧ (2 : Nat) ≤ 4 ∧ (0 : Nat) ∈ t6.held ∧ (0 : Nat) ∉ t6.fenced ∧
    1 - 0 ∉ t6.fenced ∧ (1 - 0 : Nat) ∈ ({ inDev 3 with fenced := [1] }).fenced ∧ (0 : Nat) ∉ ({ inDev 3 with fenced := [1] }).fenced := by
  decide

-- PowerGoodStartsFromReset
theorem witness_pulse : 10 ≤ 10 ∧ 9 < 10 := by decide

-- BootLeadsToLoadingAndConfig
theorem witness_boot : (inDev 0).dev = 0 ∧ ((upTo 8).filter fun d => !((inDev 0).die d).up) = [] ∧
    (inDev 0).bootStops [] ⟨[], [], false, [], []⟩ = false ∧ (inDev 0).bootStops [] ⟨[], [149], true, [], []⟩ = true := by
  decide +kernel
def t8 : State := { inDev 1 with runImg := some ⟨1, 1, 0, [0x1000, 0x2000, 0x3000, 0x4000]⟩, imgStat := 2 }
theorem witness_config : t8.dev = 1 ∧ t8.runImg = some ⟨1, 1, 0, [0x1000, 0x2000, 0x3000, 0x4000]⟩ ∧ t8.imgStat = 2 ∧ t8.failedCl = [] ∧
    coreDie 0 ∉ t8.fenced := by decide

/-! ### Test access -/

-- TapInstructionsActOnThePortAlone
theorem witness_tap : (inDev 1).dev < 2 ∧ 2 ≤ (inDev 2).dev := by decide

-- DebugAccessesObeyTheLock: locked, busy, a write and a read of memory
def dbgA : Attr := ⟨mid 0 1 3 0, 0, 3, 3⟩
theorem witness_debug : s0.tap.busy = false ∧ { s0 with lifecycle := 1 }.tap.unlocked = false ∧ s0.lifecycle ≠ 1 ∧ s0.tap.dbgctl = 0 ∧
    s0.dieActs (s0.tap.dbgctl % 2) = true ∧ s0.dieActs 0 = true ∧ { s0 with held := [0] }.dieActs (s0.tap.dbgctl % 2) = false ∧
    (s0.reaches dbgA kWrite (selfAlias dbgA.master 0x40)).1 = .ok ∧ s0.loc (selfAlias dbgA.master 0x40) = .dram 0x40 ∧
    s0.dramDown (selfAlias dbgA.master 0x40) = false ∧ s0.poison = [] ∧ s0.posted = [] ∧
    (s0.busWrite dbgA kWrite (selfAlias dbgA.master 0x40) (natLE 8 1) none).1 = .ok ∧
    (s0.busRead dbgA kRead (selfAlias dbgA.master 0x40) 8).1.1 = .ok ∧
    { s0 with tap := { s0.tap with busy := true } }.tap.busy = true := by decide +kernel

-- UnlockNeedsASignedChallenge: what the device holds; the signature check is an open function
theorem witness_unlock : { s0 with lifecycle := 1 }.lifecycle = 1 ∧ s0.tap.wait = false ∧ s0.tap.unlocked = false ∧
    { s0 with tap := { s0.tap with chal := some 5 } }.tap.chal = some 5 ∧ { s0 with tap := { s0.tap with wait := true } }.tap.wait = true := by
  decide
theorem witness_not_good (key : BitVec 256) (sig : BitVec 512) :
    ¬((s0.keySlot (sha (natLE 32 key.toNat))).isSome = true ∧
      ∃ n, s0.tap.chal = some n ∧ Config.edValid key (natLE 32 n) sig = true) := by
  rintro ⟨-, n, h, -⟩
  cases h

-- a slot that holds the hash 7: what a good response needs beside the signature check, which Config leaves open
theorem witness_key_slot : ((s0.setRg (hubReg 0 11 + 8) 0).setRg (hubReg 0 11 + 0x100) 7).keySlot 7 = some 0 := by decide +kernel

/-! ### The lattice -/

/-- Cluster 1 of lattice die 2 with its shadow half in a state; entry 0 of the half is `e`. -/
def u1 (st : Nat) (e : Nat) : State :=
  { (inDev 3).setFld ((inDev 3).clReg 2 1) 1 2 st with mem := memWriteN [] (tableBase 2 1 1) (natLE 8 e) }

-- TheTableHandshakeMovesItsState: the four states, a good half and one whose entry has the reserved mode
theorem witness_handshake : (u1 0 0).workOf 2 1 = 1 ∧ (u1 0 0).clActs 2 1 = true ∧ (u1 0 0).live = true ∧
    (u1 0 0).fld ((u1 0 0).clReg 2 1) 1 2 = 0 ∧ (u1 3 0).fld ((u1 3 0).clReg 2 1) 1 2 = 3 ∧
    (u1 2 0).fld ((u1 2 0).clReg 2 1) 1 2 = 2 ∧ (u1 1 (2 ^ 63)).fld ((u1 1 (2 ^ 63)).clReg 2 1) 1 2 = 1 ∧
    (u1 1 (2 ^ 63)).checkHalf ((u1 1 (2 ^ 63)).shadowBase 2 1) ((u1 1 (2 ^ 63)).validIdx ((u1 1 (2 ^ 63)).activeBase 2 1)) = none ∧
    (u1 1 (2 ^ 63 + 3 * 2 ^ 43)).checkHalf ((u1 1 (2 ^ 63 + 3 * 2 ^ 43)).shadowBase 2 1)
      ((u1 1 (2 ^ 63 + 3 * 2 ^ 43)).validIdx ((u1 1 (2 ^ 63 + 3 * 2 ^ 43)).activeBase 2 1)) = some (0, 1) := by decide +kernel

-- LstickyIsClearedByWritingOne
theorem witness_lsticky : s0.loc (clRegBase 4 1 + 0x18) = .clRegs 4 1 0x18 ∧ s0.dieActs 4 = true ∧ (3 : Word).getLsbD 0 = true ∧
    (3 : Word).getLsbD 1 = true := by
  decide +kernel

-- BroadcastWritesFillTheWindow: the last slot, whose pair passed its block 7
def u1b : State := (inDev 3).setPair 1 5 { PairS.reset with passed := [(2047, some (7, blockOf (BitVec.allOnes 384)))] }
def winW : Attr := engAttr (mid 4 31 2 0) 1
theorem witness_broadcast : u1b.live = true ∧ u1b.dieActs 4 = true ∧ (2047 : BitVec 11).toNat < u1b.nSlots ∧
    SMap.get (dflt 0) u1b.concealed 2 ≤ (7 : BitVec 52).toNat ∧ u1b.passedBlock 2047 7 = some (blockOf (BitVec.allOnes 384)) ∧
    ((upTo 48).all fun i => (u1b.reaches winW kWrite (u1b.winAddr 2 2047 (16 * 7) + i)).1 == .ok) = true ∧ u1b.poison = [] := by
  decide +kernel

-- RendersEndCompleteOrMissed: at a quarter, at the end, and late past its grace
def aWork : Work := ⟨7, 0, 0, none, [], none⟩
def u2 (q : Nat) (late : Bool) : State :=
  (inDev 3).setCl 2 1 { ClS.reset with work := [aWork], busy := true, quarter := q, late := late, hubs := [0, 1] }
theorem witness_render : (u2 3 false).workOf 2 1 = 1 ∧ ((u2 3 false).cl 2 1).work = [aWork] ∧ (u2 3 false).clActs 2 1 = true ∧
    (u2 3 false).live = true ∧ ((u2 3 false).cl 2 1).busy = true ∧ ((u2 3 false).cl 2 1).quarter < 4 ∧
    ((u2 4 true).cl 2 1).quarter = 4 ∧ ((u2 4 true).cl 2 1).late = true ∧ ((u2 4 true).cl 2 1).grace ≤ 7 ∧ (u2 4 true).clActs 2 1 = true := by
  decide +kernel

-- CommitsAndBusChangesWaitForTheirBlock
theorem witness_commit : (inDev 3).clActs 2 1 = true ∧ (inDev 3).bit ((inDev 3).clReg 2 1 + 0x1010) 0 = false ∧
    (63 : BitVec 6).toNat < (inDev 3).nOut ∧ (4 : Nat) ∉ (inDev 3).fenced ∧
    ({ inDev 3 with dict := [(dKey 0x3001 0, [1])] }).prioDom ≠ 0 := by decide +kernel

/-! ### Egress -/

-- EgressWordsLandUntilTheLatch: before the latch and after it
def u3 (l : List Nat) : State := { inDev 3 with latched := l }
theorem witness_egress : (u3 []).live = true ∧ (u3 []).dieActs 1 = true ∧ (u3 []).outOk 9215 = true ∧
    (u3 []).loc (egBase 1 + (3 * 0x90000 + 64 * 9215 + 8 * 7)) = .egress 1 (3 * 0x90000 + 64 * 9215 + 8 * 7) ∧
    (u3 []).egressLate 1 (3 * 0x90000 + 64 * 9215 + 8 * 7) = false ∧ (u3 [7]).egressLate 1 (3 * 0x90000 + 64 * 9215 + 8 * 7) = true ∧
    (u3 []).loc (egBase 1 + (0x240000 + 3 * 0x800 + 8 * 143)) = .egress 1 (0x240000 + 3 * 0x800 + 8 * 143) ∧
    (u3 []).egressLate 1 (0x240000 + 3 * 0x800 + 8 * 143) = false ∧ (u3 [7]).egressLate 1 (0x240000 + 3 * 0x800 + 8 * 143) = true ∧
    SMap.get (dflt 0) (u3 [7]).playNext 1 ≤ (3 : BitVec 52).toNat + 4 ∧ 3 * 0x90000 + 64 * 9215 + 8 * 7 < 0x242000 := by decide +kernel

/-! ### Scenes, laws and compare -/

/-- A queue descriptor in memory, with its tag (11 Table 11-1). -/
def qBytes (ring : Cap) (head tail esz logn flags mode notify link seq phys : Nat) : List Byte :=
  ring.bytes ++ natLE 4 head ++ natLE 4 tail ++ natLE 1 esz ++ natLE 1 logn ++ natLE 1 flags ++ natLE 1 mode ++ natLE 4 0 ++
    natLE 4 notify ++ natLE 4 link ++ natLE 4 seq ++ natLE 4 0 ++ natLE 8 phys
def withQ (d q : Nat) (bs : List Byte) (s : State) : State :=
  { s with mem := memWriteN s.mem (s.qAddr d q) bs, tags := nsAdd s.tags (s.qAddr d q / 16) }

-- ScenesAreTakenAndLawsAbandoned: domain 1 with queues 1 (scene) and 2 (reply), and a frame of 64 bytes at 0x1000, which its table maps to 0x5000; the scene
-- queue empty, with an entry for the next tick and with one for a later tick behind a candidate
def aFrameBytes : List Byte := natLE 8 1 ++ natLE 8 1 ++ List.replicate 48 0
def sceneDesc (scene : Nat) : List Byte := natLE 8 scene ++ natLE 8 0 ++ natLE 4 64 ++ natLE 4 (crc32c aFrameBytes) ++ natLE 4 7 ++ natLE 4 0
/-- The DRAM gates let domain 1 reach all of its memory. -/
def gates (s : State) : State :=
  (upTo 2).foldl (fun s h => (upTo 4).foldl (fun s g => s.setRg (gateReg h g + 0x80) (BitVec.ofNat 64 (1 + 4 * 15 + 2 ^ 16 * 42 + 2 ^ 33))) s) s
def u4 (tail scene : Nat) : State :=
  let s := withQ 1 2 (qBytes Cap.null 0 0 0 4 1 1 0 0 0 0x9000) (withQ 1 1 (qBytes Cap.null 0 tail 1 4 1 0 0 0 0 0x8000)
    (tableOf 0 1 { inDev 3 with dict := [(dKey 0x3000 1, [1]), (dKey 0x3101 1, natLE 8 0x1000), (dKey 0x3101 2, natLE 8 0x1000),
      (dKey 0x3101 3, [1, 0]), (dKey 0x3101 4, [2, 0])] }))
  let m := memWriteN (memWriteN s.mem (0x8000 + 64) (sceneDesc scene)) 0x5000 aFrameBytes
  gates { s with mem := memWriteN m 0x10000 (natLE 16 ((anEntry 1).toNat + 0x70)) }
def u4c : State := (u4 1 2).setScene 1 { (u4 1 2).scene 1 with cand := some (1, 7, aFrameBytes) }
theorem witness_scene : (u4 1 1).live = true ∧ (u4 1 1).domEn 1 = true ∧
    (u4 1 1).dieActs ((u4 1 1).qHome 1 ((u4 1 1).sceneQ 1)) = true ∧
    ((u4 1 1).die ((u4 1 1).qHome 1 ((u4 1 1).sceneQ 1))).tide = 0 ∧ ((u4 1 1).qDesc 1 ((u4 1 1).replyQ 1)).takes = true ∧
    ((u4 1 1).qDesc 1 ((u4 1 1).replyQ 1)).count + 1 < ((u4 1 1).qDesc 1 ((u4 1 1).replyQ 1)).n ∧
    ((u4 1 1).qDesc 1 ((u4 1 1).replyQ 1)).esz = 0 ∧ (u4 1 1).sceneHead 1 1 = some (sceneDesc 1) := by decide +kernel
def u4r : Option (List Byte) × State := ((u4 1 1).setHead 1 1 1).frameRead 1 (sceneDesc 1)
theorem witness_scene_frame : u4r.1 = some aFrameBytes ∧ (u4r.2.frameStatus 1 (sceneDesc 1) aFrameBytes).1 = 0 := by decide +kernel
theorem witness_scene_later : (u4 0 1).sceneEntry 1 = none ∧ u4c.live = true ∧ u4c.sceneHead 1 1 = none ∧ (u4c.sceneEntry 1).isSome = true ∧
    (u4c.scene 1).cand = some (1, 7, aFrameBytes) ∧ (u4c.qDesc 1 (u4c.replyQ 1)).takes = true := by decide +kernel
def u4l : State := s0.setLaw 2 1 { LawS.reset with cur := some (3, 4), todo := [(3, 5), (4, 0)] }
theorem witness_law : (u4l.law 2 1).cur = some (3, 4) ∧ u4l.workOf 2 1 = 1 ∧ u4l.share 2 1 3 ≤ u4l.lawUsed 2 1 := by decide +kernel

-- CompareSubmissionsAreResolved: slot 9 belongs to pair 13 and is next in its turn
def aSubmit : Submit := ⟨5, false, [1], [2]⟩
def u5 : State :=
  let s : State := { inDev 3 with dict := [(famKey (srcBase 5) 9, [1])], srcPair := [(9, 14)] }
  (s.modCore (pairCore 2 1 true) fun x => { x with running := true }).setPair 2 1
    { PairS.reset with subA := [(9, some aSubmit)], subB := [(9, some aSubmit)] }
theorem witness_compare : u5.live = true ∧ u5.dieActs 4 = true ∧ ((u5.pairOf 2 1).retA || (u5.pairOf 2 1).outA) = false ∧
    ((u5.pairOf 2 1).retB || (u5.pairOf 2 1).outB) = false ∧ u5.coreReady (pairCore 2 1 true) = true ∧
    (9 : BitVec 11).toNat ∈ u5.pairSlots 13 ∧ u5.strmBusy (pairCore 2 1 true) 9 = false ∧
    SMap.get (dflt none) (u5.pairOf 2 1).subA 9 = some aSubmit ∧ SMap.get (dflt none) (u5.pairOf 2 1).subB 9 = some aSubmit ∧
    u5.pairTurn 2 1 = some 9 := by decide +kernel

theorem crcBits_lt : ∀ (n c : Nat), c < 2 ^ 32 → crcBits 0x82F63B78 n c < 2 ^ 32
  | 0, _, h => h
  | n + 1, c, h => by
    unfold crcBits
    split
    · exact crcBits_lt n _ (Nat.xor_lt_two_pow (by omega) (by omega))
    · exact crcBits_lt n _ (by omega)
theorem crcFold_lt : ∀ (bs : List Byte) (c : Nat), c < 2 ^ 32 →
    bs.foldl (fun c b => crcBits 0x82F63B78 8 (c ^^^ b.toNat)) c < 2 ^ 32
  | [], _, h => h
  | b :: bs, c, h => crcFold_lt bs _ (crcBits_lt 8 _ (Nat.xor_lt_two_pow h (by omega)))
/-- Every sum is some CRC, so a CRC agrees and another disagrees. -/
theorem some_crc (bs : List Byte) : (∃ crc : BitVec 32, crc32c bs = crc.toNat) ∧ ∃ crc : BitVec 32, crc32c bs ≠ crc.toNat := by
  have h : crc32c bs < 2 ^ 32 := Nat.xor_lt_two_pow (crcFold_lt bs _ (by decide)) (by decide)
  refine ⟨⟨BitVec.ofNat 32 (crc32c bs), by rw [BitVec.toNat_ofNat, Nat.mod_eq_of_lt h]⟩, BitVec.ofNat 32 (crc32c bs + 1), ?_⟩
  rw [BitVec.toNat_ofNat]
  omega

/-! ### Links, registers, memory -/

-- LinkBlocksAreDeliveredOnceAndInOrder: a link with one block unacknowledged that ends there or goes on over link 12, before and after
-- eight replays; a full link, and a T4 flit to a hub below its threshold; a link that is down, with a detour that has room or none
def noFlits : Flits := ⟨0, 0⟩
def u6 (via : List Nat) (replays : Nat) : State := { State.reset with links := [(6, ⟨1, [⟨0, noFlits, via⟩], 0, replays, none⟩)] }
def full (l n : Nat) (s : State) : State := { s with links := SMap.set (dflt LinkS.reset) s.links l ⟨n, List.replicate n ⟨0, noFlits, []⟩, 0, 0, none⟩ }
def u6d : State := { State.reset with linksDown := [3] }
def u6low : State := State.reset.modDie 0 fun x => { x with g1 := some 0xBFF }
theorem witness_link : (3 : Nat) ∉ (u6 [] 0).linksDown ∧ ((u6 [] 0).link 3 false).unacked.length < 64 ∧
    ((u6 [] 0).link 3 false).expect = 0 ∧ ((u6 [] 0).link 3 false).viaOf 0 = [] ∧ ((u6 [24] 0).link 3 false).viaOf 0 = [24] ∧
    (24 : Nat) / 2 ∉ (u6 [24] 0).linksDown ∧ (24 : Nat) / 2 ≠ 3 ∧ ((u6 [24] 0).link 12 false).unacked.length < 128 ∧
    ((full 24 128 (u6 [24] 0)).link 12 false).unacked.length = 128 ∧ ((full 6 64 State.reset).link 3 false).unacked.length = 64 ∧
    ((full 6 63 State.reset).link 3 false).unacked.length < 64 ∧ hasT4 noFlits = false ∧ (u6 [] 0).linksDown = [] ∧
    ((u6 [] 7).link 3 false).replays < 8 ∧ 8 ≤ ((u6 [] 8).link 3 false).replays ∧
    (∃ e ∈ ((u6 [] 8).link 3 false).unacked, e.seq = 0) := by decide +kernel
theorem witness_link_t4 : hasT4 ⟨0, 4⟩ = true ∧ u6low.t4Withheld (linkEnds 0 false).2 = true ∨ u6low.t4Withheld (linkEnds 0 true).2 = true := by
  decide +kernel
theorem witness_link_detour : (3 : Nat) ∈ u6d.linksDown ∧ u6d.detourPath 3 true = some [19, 24] ∧
    (u6d.link (19 / 2) true).unacked.length < 64 ∧ ((full 19 64 u6d).link (19 / 2) true).unacked.length = 64 := by decide +kernel
theorem witness_link_crc (bits : BitVec 2048) : (∃ crc : BitVec 32, crc32c (natLE 256 bits.toNat) = crc.toNat) ∧
    ∃ crc : BitVec 32, crc32c (natLE 256 bits.toNat) ≠ crc.toNat := some_crc _

-- RegisterFieldsFollowTheirAccessCode: one field of each code, and values allowed and not
theorem witness_fields : ({ lsb := 0, w := 3, acc := .rw, reset := 0, ok := fun v => decide (v ≠ 3) } : FieldDef).ok 2 = true ∧
    ({ lsb := 0, w := 3, acc := .rw, reset := 0, ok := fun v => decide (v ≠ 3) } : FieldDef).ok 3 = false ∧
    (fW1C 63 1).acc = .w1c ∧ (fW1C 63 1).lsb + (fW1C 63 1).w ≤ 64 ∧ (fRO 0 64).acc = .ro := by decide

-- RegisterWritesAndReissuesAreOneTransaction
def cap1 : BusAttr := ⟨0, 0, 2, 3⟩
theorem witness_register : s0.posted = [] ∧ (s0.reaches (busAttrOf cap1) kWrite 0xF0000000000).1 ≠ .ok ∧
    (s0.reaches (busAttrOf cap1) kWrite 0xF0000000000).1 ≠ .held ∧
    s0.loc (clRegBase 4 1 + 0x1000) = .clRegs 4 1 0x1000 ∧ s0.loc (clRegBase 4 1 + 0x3F88) = .clRegs 4 1 0x3F88 ∧
    (s0.reaches (busAttrOf cap1) kWrite (clRegBase 4 1 + 0x1000)).1 = .ok ∧
    selfAlias cap1.master.toNat (clRegBase 4 1 + 0x1000) = clRegBase 4 1 + 0x1000 := by decide +kernel
-- a lattice die's core, and a DRAM address whose home hub is fenced
def capL : BusAttr := ⟨0x8000, 0, 2, 3⟩
def u7f : State := { inDev 3 with fenced := [0], active := 1 }
theorem witness_reissue : u7f.inDram 0x40 = true ∧ u7f.shape.home 0x40 ∈ u7f.fenced ∧ (inDev 3).shape.home 0x40 ∉ (inDev 3).fenced ∧
    u7f.posted = [] ∧ (u7f.busRead (busAttrOf capL) kRead 0x40 64).1.1 = .ok ∧ (u7f.busRead (busAttrOf capL) kRead 0x40 64).2.posted = [] ∧
    (u7f.busRead (busAttrOf capL) kRead 0x40 64).2.stalled = false ∧
    (u7f.busWrite (busAttrOf capL) kWrite 0x40 (natLE 64 5) none).1 = .ok ∧
    (u7f.busWrite (busAttrOf capL) kWrite 0x40 (natLE 64 5) none).2.posted = [] ∧
    (u7f.busWrite (busAttrOf capL) kWrite 0x40 (natLE 64 5) none).2.stalled = false := by decide +kernel
-- an atomic that writes, and a CAS that finds another value
def u7a : State := (u7f.busRead (busAttrOf capL) kAtomic 0x40 8).2
theorem witness_reissue_atomic : (u7f.busRead (busAttrOf capL) kAtomic 0x40 8).1 = (.ok, natLE 8 0) ∧ u7a.posted = [] ∧
    u7a.stalled = false ∧ amoNew .add 64 0 7 = some 7 ∧ amoNew (.cas 5) 64 0 7 = none ∧
    (u7a.busWrite (busAttrOf capL) kAtomic 0x40 (natLE 8 7) none).1 = .ok ∧
    (u7a.busWrite (busAttrOf capL) kAtomic 0x40 (natLE 8 7) none).2.posted = [] ∧
    (u7a.busWrite (busAttrOf capL) kAtomic 0x40 (natLE 8 7) none).2.stalled = false := by decide +kernel

-- DramReadsServeACopyOrPoison: a chunk not marked, one marked with a copy, and a poisoned word
def u7 (marked poison : List Nat) : State := { s0 with marked := marked, poison := poison }
theorem witness_dram_read : (u7 [] []).inDram 0x40 = true ∧ ((u7 [] []).reaches (busAttrOf cap1) kRead 0x40).1 = .ok ∧
    ((u7 [] []).reaches (busAttrOf cap1) kRead 0x40).2.chunkMarked 0x40 = false ∧
    ((u7 [0] []).reaches (busAttrOf cap1) kRead 0x40).2.chunkMarked 0x40 = true ∧ (0x40 : Nat) / 64 ∉ (u7 [0] []).poison ∧
    ((u7 [0] [1]).reaches (busAttrOf cap1) kRead 0x40).1 = .ok ∧ (0x40 : Nat) / 64 ∈ (u7 [0] [1]).poison := by decide +kernel
def u7r : State := let u := ((u7 [0] []).reaches (busAttrOf cap1) kRead 0x40).2
  (u.countDram (busAttrOf cap1) 0x40 64 false).tagTouch (busAttrOf cap1) 0x40
def badEcc : Ecc := .bad 1 2 0 1
theorem witness_dram_copies : u7r.copiesOf 0x40 ≠ [] ∧
    (State.serveCopies 0x40 ⟨some 2, some 3, some 0x40⟩ ((u7r.copiesOf 0x40).map fun x => (x, .good)) [] u7r).1 = true ∧
    (State.serveCopies 0x40 ⟨some 2, some 3, some 0x40⟩ ((u7r.copiesOf 0x40).map fun x => (x, badEcc)) [] u7r).1 = false := by
  decide +kernel

-- DramWritesTheEnabledBytes: a plain write, and a partial one of a marked chunk that meets two bad copies
theorem witness_dram_write : 0x40 + 64 ≤ s0.shape.usable ∧ s0.loc 0x40 = .dram 0x40 ∧ (s0.reaches (busAttrOf cap1) kWrite 0x40).1 = .ok ∧
    s0.dramDown 0x40 = false ∧ (0x40 : Nat) / 64 ∉ s0.poison ∧ (u7 [0] []).chunkMarked 0x40 = true ∧ (u7 [0] []).copiesOf 0x40 ≠ [] ∧
    (7 : BitVec 64) ≠ BitVec.allOnes 64 ∧ (7 : BitVec 64) ≠ 0 := by decide +kernel

-- ScrubAndSweepMoveOn: at the last word of a channel, and at the last chunk
def u8 : State := (s0.setFld (mcReg 0 1 + 0x28) 0 44 (s0.shape.raw / 8 - 64))
theorem witness_scrub : u8.dieActs 0 = true ∧ u8.chanServes 0 1 = true ∧ u8.shape.raw / 8 ≤ u8.fld (mcReg 0 1 + 0x28) 0 44 + 64 ∧
    ({ s0 with sweepNext := s0.shape.cap / 2 ^ 20 - 1 }).sweepNext < s0.shape.cap / 2 ^ 20 := by decide +kernel

-- FailedChannelsLeaveService
theorem witness_channel : (0 : Nat) ∉ (inDev 3).fenced ∧ (inDev 3).chanFailed 0 1 = false ∧ (inDev 3).dev = 3 := by decide +kernel

/-! ### Queues -/

-- DoorbellsMoveTheRingOrAreRecorded: queue 5 of domain 1, not enabled; enabled with both its modes free, or both taken
def q1 (en mode : Nat) : State := withQ 1 5 (qBytes Cap.null 8 10 1 4 en mode 0 0 0 0x8000) (inDev 3)
def q1u (en mode : Nat) : State := ((q1 en mode).qOpen 1 5).2.qCount 1 5 0
def q1Desc (en mode : Nat) : QDesc := (q1u en mode).qDesc 1 5
def isEgress : Loc → Bool
  | .egress _ _ => true
  | _ => false
/-- A write that lands in memory, as a test that computes. -/
def landsB (s : State) (b : Attr) (a n : Nat) : Bool :=
  decide ((s.reaches b kWrite a).1 = .ok) && !isRegPlace (s.loc a) && !isEgress (s.loc a) && !(s.inDram a && s.dramDown a) &&
    (wordsOf a n).all fun w => !s.poison.contains w
theorem lands_of {s : State} {b : Attr} {a n : Nat} (h : landsB s b a n = true) : s.Lands b a n := by
  simp only [landsB, Bool.and_eq_true, decide_eq_true_eq, Bool.not_eq_true', List.all_eq_true] at h
  obtain ⟨⟨⟨⟨ok, reg⟩, eg⟩, up⟩, ws⟩ := h
  refine ⟨ok, reg, fun e off at_ => ?_, fun dram => ?_, fun w hw hp => ?_⟩
  · rw [at_] at eg
    cases eg
  · rwa [dram, Bool.true_and] at up
  · have := ws w hw
    rw [List.contains_iff_mem.mpr hp] at this
    cases this
def qLands (s : State) (d q o n : Nat) : Bool := landsB s (qAttr (s.homeHub (s.qAddr d q + o)) d) (s.qAddr d q + o) n
theorem witness_doorbell_lands : ((q1 1 0).qOpen 1 5).1 = true ∧ ((q1 0 0).qOpen 1 5).1 = true ∧ ((q1 1 5).qOpen 1 5).1 = true ∧
    qLands (q1u 1 0) 1 5 0x14 4 = true ∧ qLands (q1u 1 0) 1 5 0x10 4 = true ∧ qLands (q1u 1 0) 1 5 0x1A 1 = true ∧
    qLands (q1u 1 0) 1 5 0x1C 4 = true ∧ (q1Desc 1 0).armed = false ∧ (q1Desc 1 0).phys = 0x8000 ∧
    0x8000 + 8 ≤ (q1u 1 0).qAddr 1 5 ∧ isRegPlace ((q1u 1 0).loc 0x8000) = false ∧ (q1Desc 1 0).count < 3 ∧ 16 ≤ (q1Desc 1 0).n := by
  decide +kernel
def ahead (x : QDesc) (v : Nat) : Nat × Nat := ((v + 2 ^ 32 - x.head) % 2 ^ 32, (v + 2 ^ 32 - x.tail) % 2 ^ 32)
theorem witness_doorbell_free : (q1Desc 0 0).en = false ∧ (q1Desc 1 0).en = true ∧ (q1Desc 1 0).pmode = 0 ∧ (q1Desc 1 0).cmode = 0 ∧
    (q1Desc 1 0).n = 16 ∧ (q1Desc 1 0).count = 2 ∧ ahead (q1Desc 1 0) 24 = (16, 14) ∧ ahead (q1Desc 1 0) 25 = (17, 15) ∧
    ahead (q1Desc 1 0) 10 = (2, 0) ∧ ahead (q1Desc 1 0) 11 = (3, 1) := by decide +kernel
theorem witness_doorbell_taken : (q1Desc 1 5).en = true ∧ (q1Desc 1 5).pmode = 1 ∧ (q1Desc 1 5).cmode = 1 := by decide +kernel

-- QueuesAreEnabledDisabledAndNotified: a ring capability of domain 0 that passes, one whose ring is too short, one that overlaps in the
-- modes, and one of domain 1, whose table is off
def ringCap (dom len : Nat) : Cap := Cap.make 0x8000 0x8000 len 0 3 dom 0 true
def q2 (d len esz flags mode notify : Nat) : State := withQ d 5 (qBytes (ringCap d len) 0 0 esz 4 flags mode notify 0 0 0x8000) (inDev 3)
def opened (s : State) (d q : Nat) : State := (s.qOpen d q).2
def q2s (d len mode : Nat) : State := opened (q2 d len 1 0 mode 0) d 5
theorem witness_enable_code : ((q2 0 100 1 0 0 0).qOpen 0 5).1 = true ∧ ((q2 0 576 1 0 0 0).qOpen 0 5).1 = true ∧
    ((q2s 0 100 0).qDesc 0 5).code123 0 = some 3 ∧ ((q2s 0 576 0).qDesc 0 5).code123 0 = none ∧
    ((q2s 1 576 0).qDesc 1 5).code123 1 = none ∧ ((q2s 0 576 16).qDesc 0 5).code123 0 = none := by decide +kernel
def translated (s : State) (d q : Nat) : Option Nat × State :=
  s.ringTranslate (s.qHome d q) d (s.qDesc d q).ring.cur (64 + 2 ^ min (s.qDesc d q).logn 32 * 16 * 2 ^ min (s.qDesc d q).esz 2)
theorem witness_enable : (translated (q2s 0 576 0) 0 5).1 = some 0x8000 ∧
    (translated (q2s 0 576 0) 0 5).2.code567 0 5 ((q2s 0 576 0).qDesc 0 5) true = none ∧ (translated (q2s 0 576 16) 0 5).1 = some 0x8000 ∧
    (translated (q2s 0 576 16) 0 5).2.code567 0 5 ((q2s 0 576 16).qDesc 0 5) true = some 5 ∧ (translated (q2s 1 576 0) 1 5).1 = none ∧
    qLands (translated (q2s 0 576 0) 0 5).2 0 5 0x30 8 = true ∧ qLands (translated (q2s 0 576 0) 0 5).2 0 5 0x1A 1 = true := by
  decide +kernel
-- a queue of linked mode whose target cannot be read, or is not enabled
def q2l : State := opened (q2 0 576 1 0 4 0) 0 5
theorem witness_enable_linked : (q2l.qDesc 0 5).cmode = 1 ∧ (translated q2l 0 5).1 = some 0x8000 ∧
    (translated q2l 0 5).2.code567 0 5 (q2l.qDesc 0 5) false = some 6 ∧ (translated q2l 0 5).2.code567 0 5 (q2l.qDesc 0 5) true = some 6 := by
  decide +kernel
-- queue 5 waits with NPEND for hub core 3, whose notify queue 7 has room; without NPEND it may be disabled, or is
def q3 : State := opened (withQ 0 7 (qBytes Cap.null 0 3 0 4 1 1 0 0 0 0x9000)
  ((q2 0 576 1 5 0 13).setRg (hubReg 0 4 + 0x2000 + 8 * 3) 0x8007)) 0 5
def q3z : State := q3.setQFlags 0 5 ((q3.qDesc 0 5).flags - 4)
def q3n : Option State := q3z.qAppend 0 7 (q3.noticeBytes 0 5 (q3.qDesc 0 5).tail)
theorem witness_notice : (q3.qOpen 0 5).1 = true ∧ (q3.qDesc 0 5).en = true ∧ (q3.qDesc 0 5).npend = true ∧
    q3.notifyQueue (bitsOf (q3.qDesc 0 5).notify 2 8) = some 7 ∧ q3n.isSome = true ∧
    qLands q3 0 5 0x1A 1 = true ∧ ((q2s 0 576 0).qDesc 0 5).en = false := by decide +kernel

-- LinkedQueuesMoveOneEntry: queue 5 of domain 1 linked to queue 6 of domain 2, whose LINKSEQ is ahead or level
def q4 (seq : Nat) : State := opened (opened (withQ 2 6 (qBytes Cap.null 0 3 1 4 1 1 0 0 seq 0xA000)
  (withQ 1 5 (qBytes Cap.null 8 10 1 4 1 4 0 (2 * 2 ^ 14 + 6) 0 0x8000) (inDev 3))) 1 5) 2 6
theorem witness_link_move : ((q4 8).qOpen 1 5).1 = true ∧ ((q4 8).qOpen 2 6).1 = true ∧ ((q4 9).qDesc 1 5).en = true ∧
    ((q4 9).qDesc 1 5).cmode = 1 ∧ (bitsOf ((q4 9).qDesc 1 5).link 14 4) = 2 ∧ (bitsOf ((q4 9).qDesc 1 5).link 0 14) = 6 ∧
    ((q4 9).qDesc 2 6).en = true ∧ ((q4 9).qDesc 2 6).linkseq = 9 ∧ ((q4 9).qDesc 1 5).head = 8 ∧ ((q4 9).qDesc 1 5).count = 2 ∧
    ((q4 8).qDesc 2 6).linkseq = 8 ∧ ((q4 8).qDesc 2 6).takes = true ∧ ((q4 8).qDesc 2 6).armed = false ∧
    ((q4 8).qDesc 1 5).entry = 32 ∧ qLands (q4 9) 1 5 0x10 4 = true ∧ qLands (q4 8) 1 5 0x10 4 = true ∧ qLands (q4 8) 2 6 0x14 24 = true := by
  decide +kernel
def q4src : Nat := ((q4 8).qDesc 1 5).slot ((q4 8).qDesc 1 5).head
def q4dst : Nat := ((q4 8).qDesc 2 6).slot ((q4 8).qDesc 2 6).tail
def q4go : Option (List Cap) × State :=
  ((q4 8).qCount 1 5 1).qGranules (qAttr (((q4 8).qCount 1 5 1).qHome 1 5) 1) q4src (((q4 8).qDesc 1 5).entry / 16)
theorem witness_link_copy : q4go.1.isSome = true ∧ (q4 8).qAddr 1 5 ≠ (q4 8).qAddr 2 6 ∧ q4src + 32 ≤ q4dst ∧ 0x8000 + 8 ≤ q4src ∧
    0xA000 + 8 ≤ q4dst ∧ q4dst + 32 ≤ (q4 8).qAddr 1 5 ∧ (q4 8).qAddr 1 5 + 64 ≤ (q4 8).qAddr 2 6 ∧
    isRegPlace ((q4 8).loc 0x8000) = false ∧ isRegPlace ((q4 8).loc 0xA000) = false ∧
    landsB (q4 8) (qAttr ((q4 8).homeHub q4dst) 2) q4dst 16 = true ∧
    landsB (q4 8) (qAttr ((q4 8).homeHub (q4dst + 16)) 2) (q4dst + 16) 16 = true := by decide +kernel

/-! ### Availability -/

-- FaultsOfClustersBeginEclipses: a covered cluster, the comet, and a comet that loads
def v1 (loading : Option Nat) : State :=
  ((inDev 3).setBit (clRegBase 4 24 + 0x8100 + 8 * 23) 63 true).modComet 2 fun c => { c with loading := loading }
theorem witness_fault : (inDev 2).live = false ∧ (v1 none).live = true ∧ 4 ∉ (v1 none).fenced ∧ ((v1 none).cl 2 23).cond = 0 ∧
    ((v1 none).faultBits 2 23 true).covered 2 23 = true ∧ ((v1 none).comet 2).carry = none ∧ ((v1 none).comet 2).loading = none ∧
    ((v1 none).comet 2).failed = false ∧ ((v1 (some 23)).comet 2).loading = some 23 ∧ (v1 (some 23)).dieActs 4 = true := by decide +kernel

-- PlannedEclipsesWaitForTheirBoundary
def v2 (f : CometS → CometS) : State :=
  let s := ((v1 none).setGen 0 ⟨5, 0, 0, true, false, 0⟩).modDie 4 fun x => { x with tide := 512 * 7 + 48 }
  ((s.setRg (clRegBase 4 23 + 0x30) (2 ^ 63 + 7)).setRg (clRegBase 4 24 + 0x30) (2 ^ 63 + 7)).modComet 2 f
theorem witness_planned : (v2 id).fld (cometReg 2) 0 2 = 2 ∧ (v2 id).live = true ∧ ((v2 id).cl 2 23).cond = 0 ∧ (v2 id).covered 2 23 = true ∧
    (v2 id).covered 2 22 = false ∧ (v2 id).plannedBoundary 2 23 = true ∧ (v2 id).dieActs 4 = true ∧
    ((v2 fun c => { c with waiting := some 23 }).comet 2).waiting = some 23 ∧
    ((v2 fun c => { c with carry := some 23, planned := true, releasing := true }).comet 2).carry = some 23 ∧
    (v2 fun c => { c with carry := some 23, planned := true, releasing := true }).plannedBoundary 2 23 = true ∧
    ((v2 fun c => { c with carry := some 23, planned := true, releasing := true }).comet 2).planned = true ∧
    (v2 fun c => { c with carry := some 23, planned := true, releasing := true }).dieActs 4 = true ∧
    ((v2 id).comet 2).planned = false := by decide +kernel

-- AuditsCompareBlockCrcs: 512 words of zeros, and the CRC-32C of their 4,096 bytes
def v3 (again : Bool) : State := (((inDev 3).setBit (clRegBase 4 24 + 0x8100 + 8 * 5) 63 true).modCl 2 5 fun x => { x with words := List.replicate 512 0 }).modComet 2 fun c =>
  { c with audit := some (5, 9), rerun := again }
theorem witness_audit_rerun : (v3 true).live = true ∧ ((v3 true).cl 2 5).cond = 0 ∧ ((v3 true).comet 2).carry = none ∧
    ((v3 true).comet 2).loading = none ∧ ((v3 true).comet 2).failed = false ∧ (v3 true).covered 2 5 = true := by decide +kernel
theorem witness_audit : ((v3 false).comet 2).audit = some (5, 9) ∧ (v3 false).dieActs 4 = true ∧ ((v3 false).comet 2).rerun = false ∧
    ((v3 false).cl 2 5).words.length = 8 * (v3 false).nOut ∧ ((v3 true).comet 2).rerun = true ∧ ((v3 true).comet 2).audit = some (5, 9) := by
  decide +kernel
theorem witness_audit_crc (bs : List Byte) : (∃ crc : BitVec 32, crc32c bs = crc.toNat) ∧ ∃ crc : BitVec 32, crc32c bs ≠ crc.toNat :=
  some_crc bs

-- FencesMoveTheRolesAndDegrade
theorem witness_fences : (1 : Nat) ∈ ({ inDev 3 with fenced := [1] }).fenced ∧ (1 : Nat) ∉ (inDev 3).fenced ∧ (0 : Nat) ∉ (inDev 3).fenced ∧
    (inDev 3).active = 0 ∧ 7 ∉ (inDev 3).fenced := by decide

-- WatchdogsReportTheirUnit
theorem witness_watchdog : ({ inDev 3 with held := [4] }).watchQuiet (.cluster 2 3) = true ∧ (inDev 3).watchQuiet (.cluster 2 3) = false ∧
    (inDev 3).watchQuiet (.link 12) = false ∧ (inDev 3).watchQuiet (.core 229) = false ∧
    ((inDev 3).die (WatchUnit.die_ (.cluster 2 3))).tideValid = false ∧ ((t5 []).die (WatchUnit.die_ (.cluster 2 3))).tideValid = true ∧
    (t5 []).watchQuiet (.cluster 2 3) = false ∧ (t5 []).watchQuiet (.core 0) = false ∧
    ((t5 []).die (WatchUnit.die_ (.core 0))).tideValid = true ∧ coreKind 0 = 3 ∧ coreKind 229 = 2 ∧ coreKind 8 < 2 := by decide +kernel

-- SourcesOfLostDiesMove
def v4 : State := { inDev 4 with fenced := [3], srcPair := [(7, 12)] }
theorem witness_source : v4.srcPairOf 7 = some 11 ∧ 7 < v4.nSlots ∧ 11 / 6 + 2 ∈ v4.fenced ∧ v4.moveFits 35 = true ∧
    v4.moveFits 11 = false := by decide +kernel

-- RunEntryBringsTheDeviceIntoRun
def v5 (tide : Nat) : State := { inDev 2 with runReq := some 3 }.modDie 0 fun x => { x with tide := tide }
theorem witness_run_entry : (v5 16).runReq = some 3 ∧ ((v5 16).die (v5 16).active).tide % 16 = 0 ∧
    ((v5 17).die (v5 17).active).tide % 16 ≠ 0 := by decide +kernel

/-! ### The dictionary -/

-- DictionaryCommandsActThroughTheirEntries: accepted writes of each entry in CONFIG, by the runtime's own path
def cfgDev : State := { inDev 2 with dict := [(dKey 0x3000 1, [1])] }
/-- The service port has a node address. -/
def noded (s : State) : State := { s with straps := { s.straps with node := 5 } }
def accepts (s : State) (p : Path) (i sub : Nat) (data : List Byte) : Bool :=
  s.pathLive p && s.runReq.isNone && s.writeCode p i sub data == 0 && s.condOk i sub data
theorem accepts_iff {s : State} {p : Path} {i sub : Nat} {data : List Byte} (h : accepts s p i sub data = true) :
    s.pathLive p = true ∧ s.runReq = none ∧ s.writeCode p i sub data = 0 ∧ s.condOk i sub data = true := by
  simpa [accepts, and_assoc] using h
theorem witness_rate : accepts cfgDev .device 0x2000 1 (natLE 4 (96000 : BitVec 32).toNat) = true := by decide +kernel
theorem witness_command : accepts cfgDev .device 0x2000 3 [1] = true ∧ cfgDev.dev = 2 ∧ cfgDev.runCheck = none ∧
    accepts (inDev 2) .device 0x2000 3 [1] = true ∧ (inDev 2).runCheck = some (1, 0) ∧ accepts (inDev 3) .device 0x2000 3 [1] = true ∧
    (inDev 3).dev ≠ 2 := by decide +kernel
theorem witness_batch : (15 : BitVec 4) ≠ 0 ∧ accepts cfgDev .device (0x3100 + (15 : BitVec 4).toNat) 7 [1] = true := by decide +kernel
theorem witness_program : (15 : BitVec 4) ≠ 0 ∧
    accepts (inDev 3) .device (0x3300 + (15 : BitVec 4).toNat) ((63 : Fin 64).val + 1) (natLE 32 (0 : BitVec 256).toNat) = true := by decide +kernel
/-- Record 0 of domain 1: program 1 of kind 2, one word at 0x1000, which its table maps to memory. -/
def progRec : List Byte := natLE 1 2 ++ natLE 1 0 ++ natLE 2 1 ++ natLE 4 4 ++ natLE 8 0x1000 ++ List.replicate 16 0
theorem witness_program_good : accepts (u4 0 1) .device 0x3301 1 (natLE 32 (BitVec.ofNat 256 (leNat progRec)).toNat) = true ∧
    (u4 0 1).dev ≠ 2 ∧ natLE 32 (BitVec.ofNat 256 (leNat progRec)).toNat = progRec ∧ progFieldsOk progRec = true ∧
    fieldAt progRec 0 1 ≠ 0 ∧ (u4 0 1).otherProgs 1 1 = [] ∧
    ((u4 0 1).domRead (4 * (u4 0 1).active) 1 0 (fieldAt progRec 8 8) (fieldAt progRec 4 4)).1 = some (natLE 4 1) ∧
    storeFit [] 4 = some 0 ∧ progFieldsOk (natLE 32 0) = true ∧ progFieldsOk (natLE 32 3) = false := by decide +kernel
theorem witness_trouble : accepts cfgDev .device 0x9000 ((63 : Fin 64).val + 1) [255] = true := by decide +kernel
theorem witness_updcmd : accepts (inDev 3) .device 0x2040 1 [1] = true ∧ accepts (inDev 3) .device 0x2040 1 [2] = true := by decide +kernel
def staged : State := { inDev 3 with stageStat := 2 }
theorem witness_update_start : accepts staged .device 0x2040 1 [1] = true ∧ staged.update.stat = 0 ∧
    ((upTo 6).all fun n => !(staged.comet n).failed && (staged.comet n).carry.isNone && (staged.comet n).loading.isNone) = true ∧
    staged.updateUnits.head? = some 4 ∧ (inDev 3).stageStat ≠ 2 ∧ ({ inDev 3 with update := ⟨1, 0, [], false⟩ }).update.stat = 1 := by
  decide +kernel
def aRun : State := { cfgDev with runImg := some ⟨1, 64, 0, []⟩ }
theorem witness_run_burns : accepts aRun .device 0xA004 0 [64] = true ∧ popCount 64 (aRun.orFuse 2).toNat < 64 ∧
    accepts aRun .device 0xA003 0 [3] = true ∧ getBits (aRun.orFuse 1) 3 1 = 0 ∧ (upTo 4).filter aRun.slotOk ≠ [3] ∧
    accepts aRun .device 0xA001 0 [1] = true ∧ (1 : Nat) = aRun.lifecycle + 1 ∧ aRun.lcFuse ≠ 1 ∧ aRun.slotBlank (2 + 1) = true ∧
    ((cfgDev.runCheck).isNone && cfgDev.dev == 2) = true := by decide +kernel
theorem witness_burns : accepts cfgDev .device 0xA001 0 [2] = true ∧ accepts cfgDev .device 0xA003 0 [3] = true ∧
    accepts cfgDev .device 0xA004 0 [64] = true ∧ accepts cfgDev .device 0xA101 0 [1] = true := by decide +kernel
theorem witness_close : accepts (noded { cfgDev with session := true, trustOpen := true }) .sdo 0xA110 4 [1] = true := by decide +kernel
theorem witness_ownerkey : accepts cfgDev .device 0xA002 ((1 : Fin 2).val + 1) (natLE 64 (7 : BitVec 512).toNat) = true := by decide +kernel
theorem witness_trust : accepts cfgDev .device 0xA100 0 (([1, 2] : List (BitVec 512)).flatMap fun h => natLE 64 h.toNat) = true ∧
    accepts cfgDev .device 0xA100 0 (([] : List (BitVec 512)).flatMap fun h => natLE 64 h.toNat) = true := by decide +kernel
theorem witness_stage_open : (inDev 3).pathLive .device = true ∧ (inDev 3).writeCode .device 0x2041 1 [1, 2] = 0 ∧
    (inDev 3).stageWait = none ∧ (inDev 3).stageOwner = none ∧ (inDev 3).update.stat = 0 ∧ (inDev 3).runReq = none := by decide +kernel
theorem witness_stage : ((inDev 3).dictPart .device 0x2041 1 (0 : BitVec 32).toNat false [1, 2]).1 = some 0 := by decide +kernel

-- FusesBurnOnlyByTheirRules
theorem witness_fuses : (inDev 2).lifecycle = 0 ∧ (inDev 2).lcFuse ≠ 1 ∧ (inDev 3).dev ≠ 2 ∧ (2 : Nat) ≠ (inDev 2).lifecycle + 1 ∧
    ({ inDev 2 with fuses := [(5 + 8 * 2, 1)] }).slotBlank (2 + 0) = false := by decide +kernel
def oneSlot : State := { (inDev 2).setRg (hubReg 0 11 + 8) 0xE with runImg := some ⟨1, 2, 0, []⟩ }
theorem witness_last_slot : (upTo 4).filter oneSlot.slotOk = [0] ∧ ∃ r, oneSlot.runImg = some r ∧ r.slot = 0 :=
  ⟨by decide +kernel, _, rfl, rfl⟩

-- SessionsOpenBySignedNonces: whether a signature is valid is open, so the key that opens a session stands in a hypothesis
def authData (key : BitVec 256) (sig : BitVec 512) : List Byte := natLE 32 key.toNat ++ natLE 64 sig.toNat
theorem witness_nonce : (noded { inDev 3 with session := true, trustOpen := true }).canUp = true ∧ ({ inDev 3 with session := true, trustOpen := true }).readCode .sdo 0xA110 1 = 0 := by decide +kernel
theorem witness_auth : accepts (noded (inDev 3)) .long 0xA110 2 (authData 7 9) = true ∧ (inDev 3).authLock = false ∧ (noded (inDev 3)).nonceNow = none ∧
    accepts (noded { inDev 3 with authLock := true }) .long 0xA110 2 (authData 7 9) = true ∧ ({ inDev 3 with authLock := true }).authLock = true ∧
    ({ inDev 3 with session := true }).session = true := by decide +kernel
theorem leNat_natLE : ∀ n v : Nat, leNat (natLE n v) = v % 256 ^ n
  | 0, v => by simp [leNat, natLE, Nat.mod_one]
  | n + 1, v => by
    rw [natLE, leNat, leNat_natLE n, BitVec.toNat_ofNat, Nat.pow_add, Nat.pow_one, Nat.mul_comm (256 ^ n) 256, Nat.mod_mul]
theorem length_natLE : ∀ n v : Nat, (natLE n v).length = n
  | 0, _ => rfl
  | n + 1, v => by rw [natLE, List.length_cons, length_natLE n]
theorem witness_auth_good (key : BitVec 256) (sig : BitVec 512) (valid : Config.edValid key (natLE 32 5) sig = true) :
    let s : State := { inDev 3 with nonceNow := some 5, dict := [(dKey 0xA100 0, natLE 64 (sha (natLE 32 key.toNat)))] }
    s.trusted (sha (natLE 32 key.toNat)) = true ∧ ∃ n, s.nonceNow = some n ∧ Config.edValid key (natLE 32 n) sig = true := by
  intro s
  refine ⟨?_, 5, rfl, valid⟩
  have hv : s.dVal (dKey 0xA100 0) = natLE 64 (sha (natLE 32 key.toNat)) := rfl
  have hl : sha (natLE 32 key.toNat) < 256 ^ 64 := by
    have h : ∀ m n : Nat, n < 2 ^ (8 * m) → n < 256 ^ m := fun m n h => by rwa [Nat.pow_mul] at h
    exact h 64 _ (Config.sha512 _).isLt
  unfold State.trusted
  rw [hv, Bool.or_eq_true]
  left
  rw [length_natLE, List.any_eq_true]
  refine ⟨0, by decide, ?_⟩
  rw [Nat.mul_zero, List.drop_zero, List.take_of_length_le (by rw [length_natLE]), leNat_natLE, Nat.mod_eq_of_lt hl]
  exact beq_self_eq_true _

-- ImagesAreVerifiedWhole: an image too short, and one staged
theorem witness_image : ({ inDev 1 with imgWait := true, imgLen := 100 }).imgWait = true ∧
    (State.verify { inDev 1 with imgWait := true, imgLen := 100 } (({ inDev 1 with imgWait := true, imgLen := 100 }).peek imgBase 100)).1 = 3 ∧
    (inDev 3).imgWait = false ∧ (State.verify { inDev 3 with stageWait := some 3 } []).1 = 3 := by decide +kernel

-- TroubleIsRecordedAndCleared
def aTrouble : State := { inDev 3 with troubles := [⟨63, 7, 1000⟩] }
theorem witness_trouble_set : aTrouble.active < 2 ∧ aTrouble.fenced = [] ∧ aTrouble.held = [] ∧ aTrouble.troubles = [⟨63, 7, 1000⟩] ∧
    aTrouble.trBits 63 = 0 := by decide +kernel

-- LiveUpdatesGoUnitByUnit: a unit of the standby hub, and one of the active hub
def updating (unit : Nat) (todo : List Nat) (stop : Bool) : State := { inDev 3 with update := ⟨1, unit, todo, stop⟩ }
theorem witness_update : (updating 0 [] false).active = 0 ∧ coreKind 0 = 3 ∧ coreDie 0 = 0 ∧ 1 ∉ (updating 0 [] false).fenced ∧ coreKind 7 = 3 ∧
    (updating 7 [] false).unitReady 7 = true ∧ (updating 7 [0, 1] true).unitReady 7 = true ∧ (updating 7 [0, 1] false).unitReady 7 = true := by
  decide +kernel

/-! ### The service port, long transfers and NGP -/

-- TransfersTimeOut
def withXfer (q : Nat) (x : Xfer) : State := { inDev 3 with xfers := [(q, some x)], straps := { (inDev 3).straps with node := 5 } }
def upXfer : Xfer := ⟨false, 0x1008, 0, [1, 2, 3, 4, 5], 5, 0, false, 1⟩
def downXfer : Xfer := ⟨true, 0x2041, 1, [1, 2], 100, 0, false, 15⟩
theorem witness_timeout : (withXfer 32 upXfer).xferOf (pathNum .sdo) = some upXfer ∧ (withXfer 33 upXfer).xferOf (pathNum .long) = some upXfer ∧
    (withXfer 7 upXfer).xferOf (pathNum (.mailbox 7)) = some upXfer ∧ (withXfer 32 upXfer).imgOwner = none ∧
    (withXfer 32 upXfer).stageOwner = none := by decide +kernel

-- SdoRequestsAreAnswered
def port : State := { inDev 3 with straps := { (inDev 3).straps with node := 5 } }
def upload (i sub : Nat) : Word := BitVec.ofNat 64 (0x40 + 2 ^ 8 * i + 2 ^ 24 * sub)
theorem witness_sdo : port.canUp = true ∧ port.runReq = none ∧ port.dNat (dKey 0x1017 0) ≠ 0 ∧ sdoCcs (upload 0x1018 1) = 2 ∧
    ((port.setXfer 32 none).dictRead .sdo 0x1018 1).1 = (0, natLE 4 0xB5D) ∧ (port.dictRead .sdo 0x1008 0).1.1 = 0 ∧
    4 < ((port.setXfer 32 none).dictRead .sdo 0x1008 0).1.2.length := by decide +kernel
def openPort : State := { port with session := true, trustOpen := true }
def download : Word := BitVec.ofNat 64 (0x2B + 2 ^ 8 * 0x1017 + 2 ^ 32 * 500)
theorem witness_sdo_download : openPort.canUp = true ∧ sdoCcs download = 1 ∧ getBits download 1 1 = 1 ∧
    ((openPort.setXfer 32 none).dictWrite .sdo 0x1017 0 (natLE (if getBits download 0 1 = 1 then 4 - getBits download 2 2 else 4) (getBits download 32 32))).1 = some 0 ∧
    sdoCcs 0x21 = 1 ∧ getBits (0x21 : Word) 1 1 = 0 ∧ (openPort.setXfer 32 none).headCode .sdo 0x1017 0 = 0 ∧
    sdoCcs 0x00 = 0 ∧ sdoCcs 0x60 = 3 ∧ (withXfer 32 upXfer).xferOf 32 = some upXfer ∧ (withXfer 32 downXfer).xferOf 32 = some downXfer ∧
    port.xferOf 32 = none ∧ 4 < sdoCcs 0xA0 := by decide +kernel

-- LongTransfersMoveWholeValues
def frame (bs : List Byte) : BitVec 512 := BitVec.ofNat 512 (leNat bs)
theorem witness_long_init : port.canUp = true ∧ port.runReq = none ∧ frByte (frame [1, 0, 8, 0x10, 0]) 0 = 1 ∧
    frNat (frame [1, 0, 8, 0x10, 0]) 2 2 = 0x1008 ∧ ((port.setXfer 33 none).dictRead .long 0x1008 0).1.1 = 0 ∧
    ((openPort.setXfer 33 none).longHead 0x1017 0 2).1 = 0 ∧ frByte (frame [2, 0, 0x17, 0x10, 0, 0, 2]) 0 = 2 ∧
    frNat (frame [2, 0, 0x17, 0x10, 0, 0, 2]) 6 4 = 2 := by decide +kernel
theorem witness_long_data : (withXfer 33 downXfer).canUp = true ∧ (withXfer 33 downXfer).xferOf 33 = some downXfer ∧
    frByte (frame [3, 15]) 0 = 3 ∧ frByte (frame [3, 15]) 1 = downXfer.seq % 256 ∧ downXfer.data.length < downXfer.total ∧
    (downXfer.seq + 1) % 16 = 0 ∧ frByte (frame [3, 14]) 1 ≠ downXfer.seq % 256 ∧ frByte (frame [4, 0]) 0 = 4 ∧
    upXfer.pos + (frByte (frame [4, 0]) 1 + 1 + 256 - upXfer.pos % 256) % 256 ≤ upXfer.seq ∧ frByte (frame [0x85]) 0 = 0x85 ∧
    frByte (frame [6]) 0 = 6 ∧ upXfer.idx ≠ 0x1F50 := by decide +kernel
theorem witness_long_end : frByte (frame ([5, 0] ++ natLE 4 (crc32c [1, 2]))) 0 = 5 ∧
    frNat (frame ([5, 0] ++ natLE 4 (crc32c [1, 2]))) 2 4 = crc32c { downXfer with total := 2 }.data ∧
    { downXfer with total := 2 }.data.length = { downXfer with total := 2 }.total := by decide +kernel

-- NgpRequestsAreServedForTheirDomain: before CONFIG domain 0's requests need no MAC; from CONFIG on one with its MAC and a new SEQ is taken
def bootPort (d : Nat) : State := { inDev d with up := [0, 1], dict := [(dKey 0x3004 0, natLE 32 77)] }
/-- Where port 0 answers: its address and NGPPORT. -/
def ngpAddr : BitVec 32 := BitVec.ofNat 32 ((bootPort 1).portIp 0)
def ngpPort : BitVec 16 := BitVec.ofNat 16 ((bootPort 1).dNat (dKey 0x4002 0))
def readMsg (i : BitVec 16) : NgpMsg := ⟨1, 0, 1, i, 0, 0, 0, [], 0, true, 0xA9FE0063, 4660, ngpAddr, ngpPort⟩
theorem witness_ngp : ((inDev 1).ngpAccept 0 1 (readMsg 0x1009)).1 = false ∧ ((bootPort 1).ngpAccept 0 1 (readMsg 0x1009)).1 = true ∧
    (((bootPort 1).ngpAccept 0 1 (readMsg 0x1009)).2.dictGet (.ngp 0) 0x1009 0 0 1024).1 = (0, 1, [65]) ∧
    ((bootPort 1).ngpAccept 0 3 { readMsg 0 with data := [1] }).1 = true ∧
    (((bootPort 1).ngpAccept 0 3 { readMsg 0 with data := [1] }).2.imagePart (.ngp 0) 0 false [1]).1 = some 0 ∧
    ((bootPort 1).ngpAccept 0 4 (readMsg 0)).1 = true := by decide +kernel

theorem ngp_accepts {s u : State} {p op : Nat} {k : NgpMsg} {key : BitVec 256}
    (h1 : (!s.portOn p || !k.wellFormed || k.version.toNat != 1 || decide (1024 < k.data.length) ||
      k.flags.toNat / 2 != 0) = false) (hu : (s.rxFrame p (94 + k.data.length) true).2 = u) (hp : u.ngpFor p k = true)
    (hd : ¬u.dev < 2) (hk : u.ngpKey k.dom.toNat = some key) (hm : (Config.hmac key (ngpBytes op k)).truncate 128 = k.mac)
    (hf : (u.ngpOf k.dom.toNat).fresh k.seq.toNat = true) :
    s.ngpAccept p op k =
      (true, { u with ngp := SMap.set (dflt ⟨0, []⟩) u.ngp k.dom.toNat ((u.ngpOf k.dom.toNat).take k.seq.toNat) }) := by
  unfold State.ngpAccept
  rw [h1, if_neg Bool.false_ne_true, hu]
  dsimp only
  rw [hp, if_neg (by decide), if_neg hd, hk]
  exact if_pos (by simp only [hm, hf, beq_self_eq_true, Bool.and_self])
def writeMsg0 : NgpMsg := ⟨1, 0, 1, 0x2010, 2, 1, 0, [3], 0, true, 0x0A000063, 4660, 0x0A000001, ngpPort⟩
def writeMsg : NgpMsg := { writeMsg0 with mac := (Config.hmac 77 (ngpBytes 2 writeMsg0)).truncate 128 }
def portDev : State := ((bootPort 2).setRg (portReg 0) 1).setRg (portReg 0 + 0x10) 0x0A000001
theorem witness_ngp_write : ∃ u, portDev.ngpAccept 0 2 writeMsg = (true, u) ∧
    (u.dictPart (.ngp 0) 0x2010 2 0 true [3]).1 = some 0 :=
  ⟨_, ngp_accepts (key := 77) (by decide +kernel) rfl (by decide +kernel) (by decide +kernel) (by decide +kernel) rfl (by decide +kernel), by decide +kernel⟩

-- CanErrorsConfineTheController
theorem witness_can : port.dieActs 1 = true ∧ (1 : Nat) ∉ port.busOff ∧ (1 : Nat) ∈ ({ port with busOff := [1] }).busOff := by decide +kernel

-- SnapshotsAreStoredAndNumbered
def aSnap (due : Bool) : State := { (inDev 3).setRg (colBase 0) (if due then 2 else 0) with col := [(0, some ⟨5, [1, 2], false, false⟩)] }
theorem witness_snapshot : (aSnap true).active = 0 ∧ 1 ∉ (aSnap true).fenced ∧ (aSnap true).snapDue 0 = true ∧ (aSnap false).snapDue 0 = false ∧
    (aSnap true).colOf 0 = some ⟨5, [1, 2], false, false⟩ := by decide +kernel

/-! ### DMA channels -/

-- ChannelsAreEnabledStoppedAndRequested: channel 15 of the last engine
def ctl : Nat := chanBase 13 15 + 0x100
def dma (v : Nat) (stat : Nat) : State := ((inDev 3).setRg ctl (BitVec.ofNat 64 v)).setRg (chanBase 13 15 + 0x110) (BitVec.ofNat 64 stat)
theorem witness_channel_off : (dma 0 0).chActs 13 15 = true ∧ (dma 0 0).chEn 13 15 = false ∧ getBits ((0 : Word) ||| 1) 40 1 = 0 ∧
    getBits ((0 : Word) ||| 1) 3 1 = 0 ∧ getBits ((8 : Word) ||| 1) 3 1 = 1 ∧
    (dma 0 0).dqOk (getBits ((8 : Word) ||| 1) 18 4) (getBits ((8 : Word) ||| 1) 4 14) (chanMid 13 15) = false := by decide +kernel
theorem witness_channel_on : (dma 1 0).chActs 13 15 = true ∧ (dma 1 0).chEn 13 15 = true ∧ (dma 1 0).chDqen 13 15 = false ∧
    (dma 1 0).chShfull 13 15 = false ∧ (dma 9 0).chDqen 13 15 = true ∧ (dma 9 0).chEn 13 15 = true ∧ (dma 1 (255 * 256)).chPend 13 15 = 255 ∧
    (dma 1 2).chPend 13 15 ≠ 255 ∧ (dma (1 + 0x800 * 2 ^ 41) 0).chReqsel 13 15 = 0x800 ∧
    (dma (1 + 0x200 * 2 ^ 41) 0).chReqsel 13 15 / 512 = 1 := by decide +kernel

-- DescriptorsMoveThroughTheShadowSet: queue 5 of domain 1 with one descriptor for the channel; a full shadow set
def dqBytes (chan : Nat) : List Byte := (((qBytes Cap.null 0 1 2 4 1 8 0 0 0 0x8000).take 0x2C ++ natLE 2 chan) ++ natLE 2 0) ++ natLE 8 0x8000
def dmaQ : State := withQ 1 5 (dqBytes (chanMid 13 15)) (dma (1 + 8 + 5 * 2 ^ 4 + 2 ^ 18) 0)
theorem witness_shadow_fill : dmaQ.chActs 13 15 = true ∧ dmaQ.chEn 13 15 = true ∧ dmaQ.chDqen 13 15 = true ∧ dmaQ.chShfull 13 15 = false ∧
    dmaQ.fld ctl 4 14 = 5 ∧ dmaQ.fld ctl 18 4 = 1 ∧ (dmaQ.qDesc 1 5).en = true ∧ 0 < (dmaQ.qDesc 1 5).count ∧
    dmaQ.dqOk 1 5 (chanMid 13 15) = true := by decide +kernel
def dmaQo : State := opened dmaQ 1 5
def dmaQg : Option (List Cap) × State :=
  dmaQo.qGranules (qAttr (dmaQo.qHome 1 5) 1) ((dmaQo.qDesc 1 5).slot (dmaQo.qDesc 1 5).head) 4
theorem witness_shadow_take : (dmaQ.qOpen 1 5).1 = true ∧ (dmaQo.qDesc 1 5).en = true ∧ 0 < (dmaQo.qDesc 1 5).count ∧
    dmaQo.dqOk 1 5 (chanMid 13 15) = true ∧ dmaQg.1.isSome = true ∧
    (dmaQg.2.reaches (qAttr (dmaQo.qHome 1 5) 1) kWrite (chanBase 13 15)).1 = .ok := by decide +kernel
theorem witness_shadow_move : (dma 1 4).chShfull 13 15 = true ∧ ((dma 1 4).chan 13 15).active = false ∧
    (dma 1 4).fld (chanBase 13 15 + 0x110) 0 2 = 0 ∧ (dma 1 0).chShfull 13 15 = false := by decide +kernel

-- BurstsMoveTheirElements: three elements of 8 bytes, the second across a line, all capabilities good
def dmaRun : State :=
  let a := chanBase 13 15 + 0x40
  let s := (dma 5 1).setChan 13 15 ⟨true, none, false, none⟩
  let s := (s.setCapReg a (Cap.make 0x1034 0x1000 0x1000 0 3 0 0 true)).setCapReg (a + 16) (Cap.make 0x3000 0x3000 0x1000 0 3 0 0 true)
  ((s.setRg (a + 0x20) (3 + 2 ^ 32)).setRg (a + 0x28) (8 + 8 * 2 ^ 32)).setRg (a + 0x38) (4 + 4 * 8)
def dmaParts : List (Nat × Nat × Nat) := sideParts (dmaRun.descAt (chanBase 13 15 + 0x40)).srcOf 8 0 3
theorem witness_burst : dmaRun.chActs 13 15 = true ∧ dmaRun.chEn 13 15 = true ∧ dmaRun.chan 13 15 = ⟨true, none, false, none⟩ ∧
    reqselOk (engDie 13) (dmaRun.chReqsel 13 15) = true ∧ dmaRun.chReqsel 13 15 = 0 ∧ dmaRun.t4Withheld (engDie 13) = false ∧ dmaRun.fld (chanBase 13 15 + 0x80) 0 40 = 0 ∧
    (dmaRun.descAt (chanBase 13 15 + 0x40)).total = 3 ∧ (dmaRun.descAt (chanBase 13 15 + 0x40)).append = false ∧ dmaParts.length = 4 := by
  decide +kernel
def dmaGot : (List (Nat × List Byte) × Option Nat) × State :=
  State.readPieces 13 15 (dmaRun.descAt (chanBase 13 15 + 0x40)).src (piecesOf dmaParts) [] dmaRun
def dmaPut : Option (Nat × Nat) × State :=
  State.writePieces 13 15 (dmaRun.descAt (chanBase 13 15 + 0x40)) dmaGot.1.1 dmaGot.1.2
    (piecesOf (sideParts (dmaRun.descAt (chanBase 13 15 + 0x40)).dstOf 8 0 3)) dmaGot.2
theorem witness_burst_moves : dmaGot.1.2 = none ∧ dmaPut.1 = none ∧ dmaPut.2.posted = [] ∧ dmaPut.2.stalled = false ∧ dmaPut.2.chan 13 15 = dmaRun.chan 13 15 := by
  decide +kernel
-- a hub's engine whose die withholds T4 credits
def dmaLow : State :=
  (((inDev 3).modDie 0 fun x => { x with g1 := some 0xBFF }).setRg (chanBase 0 0 + 0x100) 1).setChan 0 0 ⟨true, none, false, none⟩
theorem witness_withheld : dmaLow.chActs 0 0 = true ∧ dmaLow.chEn 0 0 = true ∧ chClass (dmaLow.chReqsel 0 0) = 4 ∧
    dmaLow.t4Withheld (engDie 0) = true ∧ dmaLow.chan 0 0 = ⟨true, none, false, none⟩ ∧ reqselOk (engDie 0) (dmaLow.chReqsel 0 0) = true := by
  decide +kernel
theorem witness_parts : (8 : Nat) ≤ 64 ∧ ∀ i, (fun i => (0x1034 + 8 * i) % 2 ^ 44) i < 2 ^ 44 := ⟨by decide, fun _ => Nat.mod_lt _ (by decide)⟩

-- DescriptorsCompleteWithTheirRecord: done or bad without a completion queue; with queue 6 of domain 0 empty or full
def dmaDone (v : Nat) (tail : Nat) (x : ChanS) : State :=
  (withQ 0 6 (qBytes Cap.null 0 tail 1 4 1 1 0 0 0 0x9000) (dma v 1)).setChan 13 15 x
def cqCtl : Nat := 1 + 6 * 2 ^ 22 + 2 ^ 40
theorem witness_complete : (dmaDone 1 0 ⟨true, none, true, none⟩).chEn 13 15 = true ∧
    (dmaDone 1 0 ⟨true, none, true, none⟩).chan 13 15 = ⟨true, none, true, none⟩ ∧
    (dmaDone 1 0 ⟨true, none, true, none⟩).bit ctl 40 = false ∧ (9 : Nat) < 256 ∧
    (dmaDone 1 0 ⟨true, some 9, true, none⟩).chan 13 15 = ⟨true, some 9, true, none⟩ ∧
    (dmaDone cqCtl 0 ⟨true, none, true, none⟩).bit ctl 40 = true ∧
    (dmaDone cqCtl 0 ⟨true, none, true, none⟩).fld ctl 36 4 = 0 ∧ (dmaDone cqCtl 0 ⟨true, none, true, none⟩).fld ctl 22 14 = 6 ∧
    ((dmaDone cqCtl 0 ⟨true, none, true, some (List.replicate 32 7)⟩).qAppend 0 6 (List.replicate 32 7)).isSome = true ∧
    ((dmaDone cqCtl 16 ⟨true, none, true, some (List.replicate 32 7)⟩).qAppend 0 6 (List.replicate 32 7)).isNone = true := by decide +kernel

def dmaEnd (tail : Nat) : State := (dmaDone cqCtl tail ⟨true, none, true, none⟩).chCount 13 15 4 1
def dmaCq : State := opened (dmaEnd 0) 0 6
theorem witness_complete_record : ((dmaEnd 0).qAppend 0 6 ((dmaEnd 0).dmaRecord 13 15)).isSome = true ∧
    ((dmaEnd 16).qAppend 0 6 ((dmaEnd 16).dmaRecord 13 15)).isNone = true ∧ ((dmaEnd 0).qOpen 0 6).1 = true ∧
    (dmaCq.qDesc 0 6).takes = true ∧ (dmaCq.qDesc 0 6).armed = false ∧ (dmaCq.qDesc 0 6).slot 0 = 0x9040 ∧ (dmaCq.qDesc 0 6).tail = 0 ∧
    landsB dmaCq (qAttr (dmaCq.homeHub 0x9040) 0) 0x9040 32 = true ∧ qLands dmaCq 0 6 0x14 4 = true ∧
    (dmaCq.qDesc 0 6).phys = 0x9000 ∧ dmaCq.qAddr 0 6 + 64 ≤ 0x9000 := by decide +kernel

/-! ### Media ports -/

-- PortsAnswerFramesAndFollowTheirLink: port 3 up and enabled, with its addresses, a membership and an ARP request of its own
def net (up : List Nat) : State :=
  { ((((inDev 3).setRg (portReg 3) 0x11).setRg (portReg 3 + 8) 0xABC).setRg (portReg 3 + 0x10) 0x0A000001) with
    up := up, ports := [(3, { PortS.reset with groups := [(0xE0000181, [])], asked := [0x0A000002] })] }
theorem witness_port : (net []).portOn 3 = false ∧ (net [3]).portOn 3 = true ∧ (net [3]).forPort 3 (0xABC : BitVec 48).toNat = true ∧
    (net [3]).portIp 3 = 0x0A000001 ∧ (∃ x ∈ ((net [3]).port 3).groups, (0 : BitVec 32).toNat = 0 ∨ x.1 = (0 : BitVec 32).toNat) ∧
    (0x0A000002 : BitVec 32).toNat ∈ ((net [3]).port 3).asked ∧ 3 ∉ (net []).up ∧ 3 ∈ (net [3]).up ∧
    (net [3]).fld (portReg 3 + 0x20) 3 3 ≠ 3 :=
  ⟨by decide +kernel, by decide +kernel, by decide +kernel, by decide +kernel, ⟨(0xE0000181, []), by decide +kernel, .inl rfl⟩,
    by decide +kernel, by decide, by decide, by decide +kernel⟩
theorem witness_port_set : (net []).dieActs 1 = true ∧ 1 ∉ (net []).sdDown ∧ (net []).bit (portReg 3) 0 = true ∧
    (net []).bit (portReg 3) 1 = false ∧ (net []).bit (portReg 3) 2 = false ∧ (net []).bit (portReg 3) 4 = true ∧
    (net []).fld (portReg 3 + 0x20) 3 3 = 0 ∧ (net []).ptpSel = none := by decide +kernel

-- NetworkTimeSteersTheGenerators: a Sync with its time, and one whose Follow_Up is awaited
def slave (syncs : Nat) : State :=
  let s := ((net [0, 3]).setFld (portReg 3 + 0x20) 3 3 3).setRg (portReg 0) 0x11
  { s.setRg (hubReg 1 7 + 0x1020) 2 with
    ports := [(0, { PortS.reset with gm := some 7 }), (3, { PortS.reset with gm := some 7, syncs := syncs, followUp := true })] }
theorem witness_ptp : (slave 6).portOn 3 = true ∧ (slave 6).bit (portReg 3) 4 = true ∧ (slave 6).ptpSel = some 3 ∧ ((slave 6).port 3).syncs + 1 < 8 ∧
    8 ≤ ((slave 7).port 3).syncs + 1 ∧ (slave 7).ptpSel = some 3 ∧ (net [3]).ptpSel ≠ some 3 ∧ (slave 7).portOn 0 = true ∧
    ((slave 7).port 0).gm = ((slave 7).port 3).gm ∧ ((slave 7).port 3).gm.isSome = true ∧ ((slave 7).port 3).followUp = true := by decide +kernel
def sync (kind : PtpKind) : PtpMsg := ⟨kind, true, false, 0, 7, true, 100000, 50, 30000⟩
theorem witness_sync : (sync (.sync false (-4))).intact = true ∧
    (sync (.sync false (-4))).gptp = (slave 6).bit (hubReg 1 7 + 0x1000) 0 ∧
    (sync (.sync false (-4))).domain.toNat = (slave 6).fld (hubReg 1 7 + 0x1000) 1 8 ∧ (slave 6).bit (hubReg 1 7 + 0x1000) 0 = false ∧
    (sync .followUp).kind = .followUp ∧ (-4 : Int) ≤ -4 ∧ (-4 : Int) ≤ 1 := by decide +kernel
theorem witness_pps : (slave 7).dieActs 1 = true ∧ (slave 7).bit (hubReg 1 7 + 0x1000 + 0x20) 1 = true ∧
    (slave 7).bit (hubReg 0 7 + 0x1000 + 0x20) 1 = false := by decide +kernel

-- StreamsAreEnabledOrRefused: entries of the last stream, of PTIME 3 or 0
def streams (v w : Nat) : State := ((inDev 3).setRg (inReg 1 511) (BitVec.ofNat 64 v)).setRg (egReg 1 1023) (BitVec.ofNat 64 w)
theorem witness_streams : (streams 0x1800 0x1800).dieActs 1 = true ∧ (streams 0 (96 * 2 ^ 36)).dieActs 1 = true ∧ (streams 1 1).bit (inReg 1 511) 0 = true ∧ (streams 1 1).bit (egReg 1 1023) 0 = true ∧
    (streams 0x1800 0x1800).bit (inReg 1 511) 0 = false ∧ ((streams 0x1800 0x1800).setBit (inReg 1 511) 0 true).inRefused 1 511 = true ∧
    ((streams 0 (96 * 2 ^ 36)).setBit (inReg 1 511) 0 true).inRefused 1 511 = false ∧ (streams 0x1800 0x1800).bit (egReg 1 1023) 0 = false ∧
    ((streams 0x1800 0x1800).setBit (egReg 1 1023) 0 true).egRefused 1 1023 = true ∧
    ((streams 0 (96 * 2 ^ 36)).setBit (egReg 1 1023) 0 true).egRefused 1 1023 = false := by decide +kernel

-- PacketsFillTheRing: a packet of six positions from the hub's own one on, and one whose check sequence is wrong
def rxDev : State := { ((inDev 3).setRg (inReg 0 511) (BitVec.ofNat 64 (1 + 2 ^ 5 + 96 * 2 ^ 24))).setRg (portReg 0) 1 with up := [0] }
def rxPkt : AudioPkt := { pkt with ts := 0 }
theorem witness_packet : rxDev.portOn 0 = true ∧ (rxDev.rxFrame 0 rxPkt.bytes rxPkt.fcsOk).1 = true ∧ (rxDev.rxFrame 0 rxPkt.bytes false).1 = false ∧
    rxDev.portOn 1 = false ∧ (inDev 3).dieActs 1 = true ∧ (0 : Nat) / 2 ≠ 1 ∧ rxPkt.fcsOk = true ∧
    (rxDev.inStreams 0).filter (fun n => rxDev.matches_ 0 n 0 rxPkt) = [511] ∧ rxDev.formatOk (rxDev.cfgAt (inReg 0 511)) rxPkt = true ∧
    rxDev.firstPos 0 511 (rxDev.ingOf 0 511).legA rxPkt = some 0 ∧ (rxDev.cfgAt (inReg 0 511)).port = 0 ∧ (rxDev.die 0).tide / 16 = 0 ∧
    rxDev.perPacket (rxDev.cfgAt (inReg 0 511)).ptime = 6 ∧ (rxDev.ingOf 0 511).marks = [] ∧ rxDev.poison = [] ∧
    rxDev.shape.usable ≤ dieBase 0 := by decide +kernel

/-- The device after the frame of the packet. -/
def rxGot : State := (rxDev.rxFrame 0 rxPkt.bytes rxPkt.fcsOk).2
theorem witness_packet_lands : (rxGot.inStreams 0).filter (fun n => rxGot.matches_ 0 n 0 rxPkt) = [511] ∧
    rxGot.formatOk (rxGot.cfgAt (inReg 0 511)) rxPkt = true ∧ rxGot.firstPos 0 511 (rxGot.ingOf 0 511).legA rxPkt = some 0 ∧
    (rxGot.ingOf 0 511).marks = [] ∧ ((upTo 6).all fun j =>
      (upTo ((rxGot.cfgAt (inReg 0 511)).nch * fmtBytes (rxGot.cfgAt (inReg 0 511)).fmt)).all fun i =>
        landsB rxGot (portAttr 0) (rxGot.ringAt 0 511 j + i) 1) = true := by decide +kernel

-- EgressPacketsAreSentOrDropped: a packet of six positions that have been played
def txDev : State :=
  { (((inDev 3).setRg (egReg 0 1023) (BitVec.ofNat 64 (1 + 2 ^ 5 + 96 * 2 ^ 36))).setRg (portReg 0) 1).modDie 0 fun x => { x with tide := 12 } with up := [0] }
theorem witness_egress_due : txDev.egDue 0 1023 6 = true ∧ txDev.egDue 0 1023 12 = false ∧ (txDev.cfgAt (egReg 0 1023)).aaf = false ∧ ¬(6 + 6 + 12 ≤ (txDev.die 0).tide) ∧
    (txDev.modDie 0 fun x => { x with tide := 24 }).egDue 0 1023 6 = true := by decide +kernel

/-! ### CXL ports -/

-- CxlLinksAndResetsKeepTheirState
def cx (bits : Nat) : State := (inDev 3).setRg (cxReg 1) (BitVec.ofNat 64 bits)
theorem witness_cxl_link : (cx 0).dieActs 1 = true ∧ 1 ∉ (cx 0).sdDown ∧ (cx 0).cxlUp 1 = false ∧ (8 : BitVec 4).toNat ∈ [1, 2, 4, 8] ∧
    (2 : BitVec 2).toNat ≠ 3 ∧ (cx 0x81).cxlUp 1 = true ∧ (cx 0).ldOn 1 15 = false ∧ (cx 0x81).ldOn 1 15 = true ∧ (cx 0x81).ldUp 15 = true ∧
    (cx 0).ldUp 15 = false := by decide +kernel

-- CdatAndDiscoveryAnswer
theorem witness_cdat : (cx 0x81).ldUp 14 = true ∧
    6 < (cdatHeader ((cx 0x81).ld 14).cdatSeq (cdatEntries ((cx 0x81).ak 14)) :: cdatEntries ((cx 0x81).ak 14)).length := by decide +kernel

-- HdmDecodersCommitWithinTheirCapacity
def aDec : HdmDec := { base := 2 ^ 30, size := 2 ^ 28, skip := 0, iw := 1, ig := 256, lock := false }
def withDec (d0 : Option HdmDec) : State := (cx 0x81).setLd 14 { (cx 0x81).ld 14 with alloc := 4, dec0 := d0 }
theorem witness_hdm : (withDec none).ldUp 14 = true ∧
    ((withDec (some aDec)).ld 14).dec1 = none ∧ aDec.base + aDec.size ≤ 2 ^ 31 ∧
    ((withDec (some aDec)).ld 14).dpaBase 1 { aDec with base := 2 ^ 31 } + aDec.size / aDec.iw ≤ (withDec (some aDec)).ak 14 * 2 ^ 28 ∧ ((withDec none).ld 14).dec0 = none ∧ aDec.iw ∈ [1, 2, 4, 8] ∧
    aDec.ig ∈ [256, 512, 1024, 2048, 4096, 8192, 16384] ∧ aDec.base % 2 ^ 28 = 0 ∧ aDec.size % 2 ^ 28 = 0 ∧ aDec.skip % 2 ^ 28 = 0 ∧
    ((withDec none).ld 14).dpaBase 0 aDec + aDec.size / aDec.iw ≤ (withDec none).ak 14 * 2 ^ 28 ∧ ((withDec none).ld 14).dec1 = none ∧
    ({ aDec with ig := 300 }).ig ∉ [256, 512, 1024, 2048, 4096, 8192, 16384] ∧ ((withDec (some aDec)).ld 14).dec0 = some aDec ∧
    ((withDec (some { aDec with lock := true })).ld 14).dec0 = some { aDec with lock := true } := by decide +kernel
theorem witness_hdm_range : ({ LdS.reset with dec0 := some aDec } : LdS).dec0 = some aDec ∧ aDec.iw = 1 ∧
    aDec.base ≤ 2 ^ 30 + 2 ^ 28 - 1 ∧ 2 ^ 30 + 2 ^ 28 - 1 < aDec.base + aDec.size ∧ aDec.base + aDec.size ≤ 2 ^ 30 + 2 ^ 28 ∧
    ({ LdS.reset with dec0 := some aDec } : LdS).dec1 = none := by decide

-- HostRequestsGoThroughTheirDecoder: domain 1's own table maps its first 256 MiB; device 0 alone on its port; its queue empty or full, and
-- a request that the link holds
def hostDev (paused wait : Bool) (queue : List HostReq) (held : List (Nat × HostReq)) : State :=
  let s := (cx 0x01).setLd 0 { (cx 0x01).ld 0 with alloc := 4, dec0 := some aDec, queue1 := queue }
  let s := (s.setRg (cxReg 1 + 0x100) (if paused then 8 else 0)).setRg (gateBlock 1 + 0xF000 + 8 * 1) (BitVec.ofNat 64 (1 + 0x1000 + 2 ^ 63))
  { (gates s).poke 0x1000 (natLE 16 (btEntry 0 0x20000000 28 1 63 0)) with hostWait := wait, cxHeld := if held.isEmpty then [] else [(1, held)] }
def host : State := hostDev false false [] []
theorem witness_host : host.ldOn 1 0 = true ∧ host.ldOn 0 0 = false ∧ host.portIdle 1 = true ∧ host.portIssues 1 = true ∧
    host.belowLimit 1 0 = true ∧ (host.ld 0).dpaOf (2 ^ 30 + 64) = some 64 ∧ (host.ld 0).dpaOf 64 = none := by decide +kernel
theorem witness_host_waits : (hostDev true false [] []).portIssues 1 = false ∧ (hostDev true false [] []).heldBy 1 = [] ∧
    (((hostDev true false [] []).ld 0).queue 1).length < 64 ∧ (readReq 1 0).kind ≠ .inv ∧
    64 ≤ (((hostDev true false (List.replicate 64 (readReq 1 0)) []).ld 0).queue 1).length ∧
    (hostDev true false [] [(0, readReq 1 0)]).heldBy 1 ≠ [] ∧ (hostDev true false [] [(0, readReq 1 0)]).ldOn 1 0 = true := by decide +kernel
def hostGo (dir : Nat) (n : Need) : XRes × State :=
  (State.meter { host with stalled := false, issued := SMap.set (dflt []) host.issued 1 ((0 :: host.issuedBy 1).take 1024) } 1 4 dir 64).translate
    15 1 0 64 n
def hostPut (mask : Nat) : BusRes × State := (hostGo 0 .write).2.maskWrite (hostAttr 1 0) 0x20000040 mask 5
theorem witness_host_read : (hostGo 1 .read).1 = .ok 0x20000040 false ∧
    ((hostGo 1 .read).2.busRead (hostAttr 1 0) kRead 0x20000040 64).1.1 = .ok ∧
    ((hostGo 1 .read).2.busRead (hostAttr 1 0) kRead 0x20000040 64).2.stalled = false ∧
    ((hostGo 1 .read).2.busRead (hostAttr 1 0) kRead 0x20000040 64).2.ldOn 1 0 = true := by decide +kernel
theorem witness_host_write : (hostGo 0 .write).1 = .ok 0x20000040 false ∧
    ([3, (BitVec.allOnes 64).toNat].all fun m => decide ((hostPut m).1 = .ok) && (hostPut m).2.posted.isEmpty && !(hostPut m).2.stalled &&
      (hostPut m).2.ldOn 1 0) = true := by decide +kernel
theorem witness_host_poison : ((hostGo 0 .write).2.reaches (hostAttr 1 0) kWrite 0x20000040).1 = .ok ∧
    ((hostGo 0 .write).2.reaches (hostAttr 1 0) kWrite 0x20000040).2.stalled = false ∧
    ((hostGo 0 .write).2.reaches (hostAttr 1 0) kWrite 0x20000040).2.inDram 0x20000040 = true ∧
    ((hostGo 0 .write).2.reaches (hostAttr 1 0) kWrite 0x20000040).2.dramDown 0x20000040 = false ∧ (3 : BitVec 64) ≠ 0 := by decide +kernel
theorem witness_takeover : (hostDev true true [] []).hostWait = true ∧ (hostDev true true [] []).posted = [] ∧
    (hostDev true true [] []).dueQueues = [] ∧ (hostDev true true [] []).portIdle 0 = true ∧ (hostDev true true [] []).portIdle 1 = true ∧
    host.hostWait = false := by decide +kernel

-- FmApiCommandsReadAndSetTheirFields
def fm : State := { cx 0x81 with devLoads := [3, 2] }
theorem witness_fm : fm.ldUp 15 = true ∧ (14 : Fin 15).val + 1 ≤ 15 ∧ 15 < (14 : Fin 15).val + 2 ∧
    ((upTo 15).map fun k => if k = 14 then 4 else (fm.ld k).alloc).foldl (· + ·) 0 * 2 ^ 28 ≤ fm.shape.usable ∧ (fm.ld 14).dpaEnd ≤ 4 * 2 ^ 28 := by
  decide +kernel

-- MailboxCommandsAnswerByTheirTables
def logged : State := fm.setLd 14 { fm.ld 14 with info := [⟨1, false, 3, 0, 9⟩, ⟨2, false, 4, 0, 9⟩] }
theorem witness_mailbox : logged.ldUp 14 = true ∧ (0x9999 : BitVec 16).toNat ∉ mailOps 14 ∧ (0x4000 : BitVec 16).toNat ∈ mailOps 14 ∧
    (logged.ld 14).log .info = [⟨1, false, 3, 0, 9⟩, ⟨2, false, 4, 0, 9⟩] := by decide +kernel
theorem witness_handles : (∀ v ∈ ([2] : List (BitVec 16)), ∃ r ∈ ([⟨1, false, 3, 0, 9⟩, ⟨2, false, 4, 0, 9⟩] : List EvRec), r.handle = v.toNat) ∧
    ∃ v ∈ ([7] : List (BitVec 16)), ∀ r ∈ ([⟨1, false, 3, 0, 9⟩, ⟨2, false, 4, 0, 9⟩] : List EvRec), r.handle ≠ v.toNat := by simp

-- VendorCommandsReachTheDictionary
def mailDev (d : Nat) : State := { cx 0x81 with dev := d }
theorem witness_vendor : (mailDev 1).ldUp 15 = true ∧ (mailDev 1).dev < 2 ∧ (mailDev 3).dev ≠ 1 ∧ (mailDev 3).ldUp 15 = true ∧
    (mailDev 3).runReq = none ∧ ({ mailDev 2 with runReq := some 34 }).runReq.isSome = true ∧
    (((mailDev 3).mailIn 15 8).dictGet (.mailbox 15) 0x2000 2 0 4088).1 = (0, 1, [3]) ∧
    (((mailDev 3).mailIn 15 9).dictPart (.mailbox 15) 0x2010 2 0 true [5]).1 = some 0 ∧
    (((mailDev 3).mailIn 15 9).dictPart (.mailbox 15) 0x2010 2 0 true [5]).2.posted = [] ∧
    (((mailDev 3).mailIn 15 9).dictPart (.mailbox 15) 0x2010 2 0 true [5]).2.ldUp 15 = true ∧ (mailDev 3).lifecycle ≠ 2 ∧
    ({ mailDev 3 with lifecycle := 2 }).lifecycle = 2 ∧ (8 : BitVec 32) ≠ 0 ∧
    ({ mailDev 3 with attSnap := some ((5 : BitVec 256).toNat, [1]) }).attSnap = some ((5 : BitVec 256).toNat, [1]) := by decide +kernel
-- a write whose answer comes later, and parts of an image: accepted, awaiting verification, and of a path that BOOTSRC does not admit
theorem witness_vendor_later : ((mailDev 2).mailIn 15 9).ldUp 15 = true ∧
    ((({ mailDev 2 with dict := [(dKey 0x3000 1, [1])] }).mailIn 15 9).dictPart (.mailbox 15) 0x2000 3 0 true [1]).1 = none ∧
    ((((mailDev 1).mailIn 15 9).newXfer 15).imagePart (.mailbox 15) 0 false [1]).1 = some 0 ∧
    ((((mailDev 1).mailIn 15 9).newXfer 15).imagePart (.mailbox 15) 0 true [1]).1 = none ∧
    ((((mailDev 1).mailIn 15 9).newXfer 15).imagePart (.mailbox 15) 0 false [1]).2.ldUp 15 = true ∧
    (({ mailDev 1 with straps := { (mailDev 1).straps with bootSrc := 3 } }).imagePart (.mailbox 15) 0 false [1]).1 = some abState := by
  decide +kernel
theorem witness_vendor_long : 4088 < (List.replicate 4089 (0 : Byte)).length := by decide +kernel

/-! ### Rules stated whole -/

theorem witness_regions : regionHolds (BitVec.ofNat 64 (1 + 4 * 3 + 2 ^ 16 * 12 + 2 ^ 34)) 0x1000 0x1FFF = true ∧
    bitOf (getBits (BitVec.ofNat 64 (1 + 4 * 3 + 2 ^ 16 * 12 + 2 ^ 34)) 32 16) 2 = true := by decide +kernel
theorem witness_rounding : 0 < 1 := by decide
theorem witness_invariant : ∃ t, step { State.reset with pending := [.nmtCommand 0] } = .next t := ⟨_, rfl⟩
theorem witness_step : ({ State.reset with pending := [.nmtCommand 0] } : State).pending = [.nmtCommand 0] := rfl
theorem witness_memory : Memory.wf State.reset.mem = true := rfl

/-! ### More clauses, each at a state that meets it -/

-- OperandlessInstructionsDoTheirTableEffect: WAITL with an operation in flight, IFLUSHA without vectors, DFLUSHA with clean lines and with
-- a dirty one, BINV with save areas under identity translation
theorem witness_waitl : ready s11 0 = true ∧ (core s11).shadows = [] ∧ (core s11).frame = none ∧ (got s11 0).posted = [] ∧
    (core s11).longq = [aLong] := by decide +kernel
theorem witness_iflusha : ((core s1).capSys 0x106).tag = false ∧ ((core s1).capSys 0x206).tag = false ∧
    ((core s1).capSys 0x10A).tag = false ∧ 1 ≤ (core s1).lvl := by decide +kernel
theorem witness_dflusha : (∀ p ∈ (core s5).dcache, p.2.dirty = false) ∧ (core s5).dirtyOf ((core s5).dcache.map (·.1)) = 0 ∧
    State.Ready (((core s16).dcache.map (·.1)).foldl (fun u a => u.evict 0 a) { got s16 0 with fresh := (got s16 0).fresh + 1 }) 0 := by
  unfold State.Ready CoreS.Quiet
  decide +kernel
theorem witness_binv : ((core s14).capSys 0x105).tag = true ∧ (got s14 0).Direct 0 ((core s14).capSys 0x105).dom ∧
    (got s14 0).Direct 0 ((core s14).capSys 0x205).dom ∧ identityDevice (directAddr 0 ((core s14).capSys 0x105).cur) = false ∧
    identityDevice (directAddr 0 ((core s14).capSys 0x205).cur) = false ∧ ((core s14).capSys 0x105).cur % 4096 + 256 ≤ 4096 ∧
    ((core s14).capSys 0x205).cur % 4096 + 256 ≤ 4096 ∧ ((core s1).capSys 0x105).tag = false := by
  unfold State.Direct
  decide +kernel

-- CacheRangeInstructionsActOnEachLine under identity translation: a clean line, and a dirty one that DINV covers whole
theorem witness_ranges_direct : (got s5 0).Direct 0 ((core s5).ra 1).dom ∧ ((core s5).rd 1).toNat ≤ 4096 ∧
    (∀ va ∈ rangeLines 0x1000 5, (match (core s5).line (directAddr 0 (va % 2 ^ 44)) with | some l => l.dirty | none => false) = false) ∧
    ((core s5).ra 1).outside 0x1000 5 = none ∧ (core s16).dirtyOf [0x1000, 0x1040] = 1 ∧ (core s5).dirtyOf [0x1000] = 0 := by
  exact ⟨by unfold State.Direct; decide +kernel, by decide +kernel, by decide +kernel, by decide +kernel, by decide +kernel, by decide +kernel⟩

-- loads, stores and write-backs of sound lines
theorem witness_sound : aLine.sound 0x1000 8 false = true ∧ aLine.sound 0x1000 8 true = true ∧ aLine.sound 0x1000 16 false = true ∧
    aLine.sound 0x1000 16 true = true ∧ aLine.wperm = true ∧ (∀ p ∈ aLine.upset, p.2 < 2) := by decide +kernel

-- TheFrameDrainsToTheSaveArea: ten granules that land, and a save area of another domain that its gate denies
theorem witness_drain_lands : aFrame.bytes.length = 160 ∧ s21.posted = [] ∧
    (frameGranules.all fun o => aFrame.dest.at o % 16 == 0 && landsB s21 (coreAttr 0 aFrame.dom aFrame.level) (aFrame.dest.at o) 16 &&
      !s21.uncorr (aFrame.dest.at o) 16) = true ∧
    (∀ o ∈ frameGranules, ∀ u ∈ frameGranules, o ≠ u → aFrame.dest.at o ≠ aFrame.dest.at u) := by decide +kernel
def s21d : State := hub fun x => { x with frame := some { aFrame with dom := 1, level := 0 } }
theorem witness_drain_denied : (s21d.core 0).frame = some { aFrame with dom := 1, level := 0 } ∧ s21d.coreActs 0 = true ∧
    (s21d.reaches (coreAttr 0 1 0) kWrite (aFrame.dest.at 0)).1 = .denied ∧
    getBits ((s21d.core 0).sysReg 0x207) 0 1 = 0 ∧ (s21d.core 0).Quiet := by
  unfold CoreS.Quiet
  decide +kernel

-- WalksPlaceAndXbinvDiscardsCopies: a table of one entry, and a copy whose D bit is written back
def walkAt : Nat := getBits (t1.dtb 0 1) 12 32 * 4096
theorem witness_walk_table : getBits (t1.dtb 0 1) 0 9 = 1 ∧ t1.inDram walkAt = true ∧ t1.inDram (walkAt + 15) = true ∧
    (t1.reaches (walkAttr 16 1) kWalkRead walkAt).1 = .ok ∧ t1.uncorr walkAt 16 = false ∧
    BitVec.ofNat 128 (leNat (memReadN t1.mem walkAt 16)) = anEntry 1 ∧ btV (anEntry 1) = true ∧ btHolds (anEntry 1) 0x1000 = true ∧
    btMalformed (anEntry 1) 1 = false := by decide +kernel
theorem witness_dirty_update : t2.inDram (t2.entryOf 16 1 0) = true ∧ t2.inDram (t2.entryOf 16 1 0 + 15) = true ∧
    (t2.reaches (walkAttr 16 1) kWalkUpdate (t2.entryOf 16 1 0)).1 = .ok ∧ t2.uncorr (t2.entryOf 16 1 0) 16 = false ∧
    t2.dramDown (t2.entryOf 16 1 0) = false ∧
    BitVec.ofNat 128 (leNat (memReadN t2.mem (t2.entryOf 16 1 0) 16)) = btClear (BitVec.ofNat 128 ((t2.copyAt 16 1 0).toNat % 2 ^ 96)) 2 := by
  decide +kernel

-- the lattice: a half whose words can all be read; renders beside no bad word
theorem witness_half_good : (u1 1 0).halfBad ((u1 1 0).shadowBase 2 1) = [] ∧ (u1 1 0).posted = [] ∧
    (∀ p ∈ (u2 3 false).upsets, p.2 < 2) ∧ ((u2 3 false).comet 2).loading ≠ some 1 ∧ (u2 3 false).posted = [] := by decide +kernel
theorem witness_egress_gate :
    ((u3 []).reaches (engAttr (mid (clusterOf 9215 / 24 + 2) ((u3 []).unit (clusterOf 9215 / 24) (clusterOf 9215 % 24)) 2 2) 1) kWrite
      (egBase 1 + (3 * 0x90000 + 64 * 9215 + 8 * 7))).1 = .ok ∧
    ((u3 []).reaches (engAttr (mid (143 / 24 + 2) ((u3 []).unit (143 / 24) (143 % 24)) 2 2) 1) kWrite
      (egBase 1 + (0x240000 + 3 * 0x800 + 8 * 143))).1 = .ok ∧ (u3 []).poison = [] := by decide +kernel

-- HubRejoin frees the slot of a block that was not written before the HOLD
theorem witness_rejoin_slot : ((t7 0).die 0).holdFrom / 16 < 2 - 1 - (2 + 3 - 0) % 4 + 2 := by decide +kernel

-- QueuesAreEnabledDisabledAndNotified: a notice whose notify queue is full
def q3f : State := opened (withQ 0 7 (qBytes Cap.null 0 16 0 4 1 1 0 0 0 0x9000)
  ((q2 0 576 1 5 0 13).setRg (hubReg 0 4 + 0x2000 + 8 * 3) 0x8007)) 0 5
theorem witness_notice_waits : (q3f.qOpen 0 5).1 = true ∧ (q3f.qDesc 0 5).en = true ∧ (q3f.qDesc 0 5).npend = true ∧
    q3f.notifyQueue (bitsOf (q3f.qDesc 0 5).notify 2 8) = some 7 ∧
    ((q3f.setQFlags 0 5 ((q3f.qDesc 0 5).flags - 4)).qAppend 0 7 (q3f.noticeBytes 0 5 (q3f.qDesc 0 5).tail)).isNone = true := by
  decide +kernel

-- DictionaryCommandsActThroughTheirEntries: a batch open and full, the fuses, a part of a staged image
def batchDev (n : Nat) : State :=
  { (inDev 3).setRg (cxReg 1) 0x01 with dict := [(dKey 0x3000 1, [1])], batchHeld := [(1, some (List.replicate n 0))] }
theorem witness_batch_held : accepts (batchDev 1) (.mailbox 0) 0x3107 7 [1] = false ∧ (batchDev 1).heldOf (.mailbox 0) ≠ none ∧
    (batchDev 1).batchFull (.mailbox 0) = false ∧ (batchDev 4096).batchFull (.mailbox 0) = true := by decide +kernel

-- LiveUpdatesGoUnitByUnit: a position within a block
theorem witness_swap_wait : ((updating 0 [] false).die 0).tide % 16 = 0 ∧
    (((updating 0 [] false).modDie 0 fun x => { x with tide := 17 }).die 0).tide % 16 ≠ 0 := by decide +kernel

-- TransfersTimeOut: an image load
theorem witness_image_timeout : ({ inDev 1 with imgOwner := some 33, imgStat := 1 }).dev = 1 ∧
    ({ inDev 1 with imgOwner := some 33, imgStat := 1 }).imgOwner = some (pathNum .long) ∧ (inDev 1).imgWait = false ∧
    (inDev 1).stageOwner = none := by decide

-- SdoRequestsAreAnswered: the last segment of a download, and an abort
def segXfer : Xfer := ⟨true, 0x1017, 0, [], 0, 0, false, 0⟩
def segDev : State := { openPort with xfers := [(32, some segXfer)] }
theorem witness_sdo_last : segDev.canUp = true ∧ segDev.runReq = none ∧ segDev.xferOf 32 = some segXfer ∧ sdoCcs 0x0B = 0 ∧
    getBits (0x0B : Word) 0 1 = 1 ∧ getBits (0x0B : Word) 1 3 = 5 ∧
    ((segDev.setXfer 32 none).dictWrite .sdo 0x1017 0 (segXfer.data ++ natLE (7 - 5) 0)).1 = some 0 ∧ sdoCcs 0x80 = 4 := by decide +kernel

-- NgpRequestsAreServedForTheirDomain: a write, and the last part of an image, whose answers come later
def lastMsg : NgpMsg := { readMsg 0 with data := [1], flags := 1 }
theorem witness_ngp_later : ((bootPort 1).ngpAccept 0 3 lastMsg).1 = true ∧ (bootPort 1).runReq = none ∧
    ((((bootPort 1).ngpAccept 0 3 lastMsg).2.ngpCarried ⟨0, 3, lastMsg⟩).newXfer 16 |>.imagePart (.ngp 0) 0 true [1]).1 = none := by
  decide +kernel

-- ChannelsAreEnabledStoppedAndRequested: queues that suit or do not, and the lines of an ingress packet and of the tide
theorem witness_channel_queues : ((dma 0 0).chQueue false 0 0 fun z => z.cqOk 0 0).1 = true ∧
    (((dma 0 0).chQueue false 0 0 fun z => z.cqOk 0 0).2.chQueue false 0 0 fun z => z.dqOk 0 0 (chanMid 13 15)).1 = true ∧
    (((dma 0 0).chQueue false 0 0 fun z => z.cqOk 0 0).2.chQueue true 0 0 fun z => z.dqOk 0 0 (chanMid 13 15)).1 = false := by
  decide +kernel
def hubChan (r : Nat) (due : Nat) : State :=
  { (inDev 3).setRg (chanBase 0 0 + 0x100) (BitVec.ofNat 64 (1 + r * 2 ^ 41)) with lineDue := if due = 0 then [] else [(0, due)] }
theorem witness_lines : (hubChan 0x400 1).chEn 0 0 = true ∧ reqselOk (engDie 0) ((hubChan 0x400 1).chReqsel 0 0) = true ∧
    (hubChan 0x400 1).chReqsel 0 0 / 512 = 2 ∧ 0 < SMap.get (dflt 0) (hubChan 0x400 1).lineDue 0 ∧
    SMap.get (dflt 0) (hubChan 0x400 0).lineDue 0 = 0 ∧ (hubChan 0x200 0).chReqsel 0 0 / 512 = 1 ∧
    (hubChan 0x200 0).tideLine 0 ((hubChan 0x200 0).chReqsel 0 0) 0 = true ∧ SMap.get (dflt 0) (hubChan 0x200 0).lineAt 0 ≠ 0 + 1 := by
  decide +kernel

end Sys2Proof.Tests
end

section
/-! PROOFS. O22: a gate region's match of a master ID, read bit by bit (01 R28). -/

namespace Sys2Proof.Machine
open Sys2Proof

/-! ### The bits of a field, and a comparison under a mask -/

@[simp] theorem testBit_getBits (v : Word) (lsb w i : Nat) :
    (getBits v lsb w).testBit i = (decide (i < w) && v.getLsbD (lsb + i)) := by
  simp [getBits, bitsOf, Nat.testBit_mod_two_pow, Nat.testBit_div_two_pow, BitVec.testBit_toNat, Nat.add_comm]

theorem land_eq_land_iff_testBit (m n k : Nat) :
    m &&& k = n &&& k ↔ ∀ i, k.testBit i = true → m.testBit i = n.testBit i := by
  constructor
  · intro h i hk
    have hbit : (m &&& k).testBit i = (n &&& k).testBit i := congrArg (·.testBit i) h
    simpa [hk] using hbit
  · intro h
    refine Nat.eq_of_testBit_eq fun i => ?_
    cases hk : k.testBit i with
    | false => simp [hk]
    | true => simp [hk, h i hk]

/-! ### The match -/

/-- What 01 R28 adds to a region that holds the address and names the domain: equality of the two IDs under the mask. -/
theorem regionMatches_iff_masked_eq {cfg base midw : Word} {b : Attr} {a : Nat} (hHolds : regionHolds cfg base a = true)
    (hDom : bitOf (getBits cfg 32 16) b.dom = true) :
    regionMatches cfg base midw b a = true ↔
      b.master &&& getBits midw 16 16 = getBits midw 0 16 &&& getBits midw 16 16 := by
  simp [regionMatches, hHolds, hDom]

/-- Settles O22: the masked words are equal exactly where their compared bits are, and only bits below 16 are compared. -/
theorem regionsMatchMaskedMasters : Obligations.RegionsMatchMaskedMasters := by
  intro cfg base midw b a hHolds hDom
  rw [regionMatches_iff_masked_eq hHolds hDom, land_eq_land_iff_testBit]
  refine forall_congr' fun i => ?_
  by_cases hCompared : i < 16
  · simp [hCompared]
  · simp [hCompared]

end Sys2Proof.Machine
end

section
/-! PROOFS. O21: rnd of a quotient and sat18 (03 R98). -/

namespace Sys2Proof.Machine
open Sys2Proof

/-! ### rnd of a quotient -/

/-- What 03 R98 asks of the result `r` of rnd(num/den): no more than half from the quotient, and beyond it where it is just half. -/
def IsNearestTiesAway (num : Int) (den : Nat) (r : Int) : Prop :=
  2 * (r * den - num).natAbs ≤ den ∧ (2 * (r * den - num).natAbs = den → num.natAbs < (r * den).natAbs)

theorem IsNearestTiesAway.neg {num r : Int} {den : Nat} (h : IsNearestTiesAway num den r) : IsNearestTiesAway (-num) den (-r) := by
  have hDist : (-r * den - -num).natAbs = (r * den - num).natAbs := by
    rw [← Int.natAbs_neg]
    congr 1
    ring
  rw [IsNearestTiesAway, hDist]
  simpa [IsNearestTiesAway] using h

theorem rndDiv_of_nonneg {num : Int} (hNum : 0 ≤ num) (den : Nat) : rndDiv num den = (2 * num + den) / (2 * den) := if_pos hNum

theorem rndDiv_of_neg {num : Int} (hNum : num < 0) (den : Nat) : rndDiv num den = -rndDiv (-num) den := by
  rw [rndDiv_of_nonneg (by omega : 0 ≤ -num)]
  exact if_neg hNum.not_ge

/-- The quotient of `2 * num + den` by `2 * den` rounds down, so it lies less than half below num/den and at most half above it. -/
theorem rndDiv_bounds_of_nonneg {num : Int} (hNum : 0 ≤ num) {den : Nat} (hDen : 0 < den) :
    -(den : Int) < 2 * (rndDiv num den * den - num) ∧ 2 * (rndDiv num den * den - num) ≤ den := by
  rw [rndDiv_of_nonneg hNum]
  have hTwoDen : (0 : Int) < 2 * den := by omega
  have hLower := Int.ediv_mul_le (2 * num + den) hTwoDen.ne'
  have hUpper := Int.lt_ediv_add_one_mul_self (2 * num + den) hTwoDen
  constructor <;> linarith

theorem rndDiv_isNearest_of_nonneg {num : Int} (hNum : 0 ≤ num) {den : Nat} (hDen : 0 < den) :
    IsNearestTiesAway num den (rndDiv num den) := by
  obtain ⟨hBelow, hAbove⟩ := rndDiv_bounds_of_nonneg hNum hDen
  constructor
  · omega
  · intro hTie
    have hUp : num < rndDiv num den * den := by omega
    omega

theorem rndDiv_isNearest (num : Int) {den : Nat} (hDen : 0 < den) : IsNearestTiesAway num den (rndDiv num den) := by
  rcases le_or_gt 0 num with hNonneg | hNeg
  · exact rndDiv_isNearest_of_nonneg hNonneg hDen
  · have hMirror : IsNearestTiesAway (-num) den (rndDiv (-num) den) := rndDiv_isNearest_of_nonneg (by omega) hDen
    simpa [rndDiv_of_neg hNeg] using hMirror.neg

/-! ### Saturation -/

theorem clampI_eq_max_min {lo hi : Int} (hRange : lo ≤ hi) (x : Int) : clampI lo hi x = max lo (min hi x) := by
  unfold clampI
  split
  case isTrue hLow => omega
  case isFalse hLow => split <;> omega

/-- Settles O21: rnd of a nonnegative quotient is read off its bounds, that of a negative one mirrors it, and sat18 clamps. -/
theorem roundingIsToNearestAwayFromZero : Obligations.RoundingIsToNearestAwayFromZero :=
  ⟨fun num _ hDen => rndDiv_isNearest num hDen, fun x => clampI_eq_max_min (by decide) x⟩

end Sys2Proof.Machine
end
